-- ==== Sys2Proof/Word.lean ====
section
/-! DEFINITION. The word types of the E9400 and their plainest names (R1, R2, R21). -/

namespace Sys2Proof

/-- One byte of memory. -/
abbrev Byte := BitVec 8

/-- A 32-bit register word, slot or literal. -/
abbrev Word := BitVec 32

/-- A 64-bit address or register pair. -/
abbrev DWord := BitVec 64

end Sys2Proof
end

