-- ==== Sys2Proof/Syntax.lean ====
section
/-! DEFINITION. The steps of the E9400: one constructor for each row of spec/opcode_table.json. The rows with an
encoding are the instructions of R80; the rows without one are the events of the package. An event acts on what the
state's event argument names (State.arg): the core, queue, message or unit concerned. The events stand last, without
fields: Lean's runtime numbers no more than 244 constructors that carry fields. -/

namespace Sys2Proof

/-- An operand specifier read as a source (R78); `lit` carries the literal word that belongs to the field (R79). -/
inductive Src where
  | vec (n : Nat)
  | uni (n : Nat)
  | zero
  | lane
  | resv
  | lit (w : BitVec 32)
deriving DecidableEq, Repr

/-- An operand specifier written as a destination (R78); `bad` is 0xFD, 0xFE or 0xFF, which trap. -/
inductive Dst where
  | vec (n : Nat)
  | uni (n : Nat)
  | none
  | bad (code : Nat)
deriving DecidableEq, Repr

/-- The steps of the part: every row of the table of operations and events. -/
inductive Instr where
  /-- NOP (R80). Does nothing; no field of the word is decoded and no literal is taken. -/
  | nop (x : BitVec 24)
  /-- SETM (R113). Sets the gang's MODE register from a uniform, zero or literal source, ignoring the guard. -/
  | setm (a : Src)
  /-- GETM (R113). Writes MODE to the destination in every lane of EXM, or once to a uniform destination. -/
  | getm (d : Dst)
  /-- BRA (R120). Sends every RUN lane to a 24-bit block index and runs a frontier step. -/
  | bra (t : BitVec 24)
  /-- BRX (R120). Sends every RUN lane to its own register target block and runs a frontier step. -/
  | brx (a : Src)
  /-- BRP (R121). Moves the active lanes whose predicate is 1 to WAIT at a displaced block, running a frontier step when no lane stays in RUN. -/
  | brp (d : BitVec 8) (disp : BitVec 16)
  /-- MEET (R122). Turns every GONE lane to EMPTY and every HELD lane to RUN. -/
  | meet
  /-- CALL (R120). Writes the link to the next block and sends every RUN lane to a displaced block. -/
  | call (d : Dst) (disp : BitVec 16)
  /-- CALLX (R120). Writes the link and sends every RUN lane to its own register target. -/
  | callx (d : Dst) (a : Src)
  /-- RET (R120). Sends every RUN lane to the block named by its register and runs a frontier step. -/
  | ret (a : Src)
  /-- EXIT (R123). Moves each active lane to GONE, releasing its reservation, Trellis binding and reader hold. -/
  | exit
  /-- DONE (R124). Ends every lane of the gang and retires its slot when at least one lane is active. -/
  | done
  /-- YIELD (R251). Makes the gang not ready until the other ready gangs of its scheduler have issued or 16 opportunities pass. -/
  | yield
  /-- REGROUP (R126). Waits for outstanding results, then deposits the active lanes into the crew's regroup bin for the entry block. -/
  | regroup (t : BitVec 24)
  /-- GETEXM (R114). Writes the execution mask to the destination. -/
  | getexm (d : Dst)
  /-- SETEXM (R114). Writes the execution mask under the lane-state rules, with a frontier step or implicit meet when EXM becomes zero. -/
  | setexm (a : Src)
  /-- TRAP (R133). Raises the software trap 0x40 with an 8-bit code when a lane is active. -/
  | trap (b : BitVec 8)
  /-- BKPT (R133). Always raises the breakpoint trap 0x41 with an 8-bit code. -/
  | bkpt (b : BitVec 8)
  /-- RDSR (R115). Reads a special register into the destination. -/
  | rdsr (d : Dst) (a : BitVec 8)
  /-- WRSR (R37). Writes a special register, with W1C for NSTAT and the privilege check for SCTL. -/
  | wrsr (d : BitVec 8) (a : Src)
  /-- IADD (R104). Integer add under the integer view, saturating under MODE.SAT. -/
  | iadd (d : Dst) (a : Src) (b : Src)
  /-- ISUB (R104). Integer subtract. -/
  | isub (d : Dst) (a : Src) (b : Src)
  /-- IADDC (R105). Add with carry in and out through p95. -/
  | iaddc (d : Dst) (a : Src) (b : Src)
  /-- ISUBB (R105). Subtract with borrow in and out through p95. -/
  | isubb (d : Dst) (a : Src) (b : Src)
  /-- IMUL (R104). Integer multiply, low part. -/
  | imul (d : Dst) (a : Src) (b : Src)
  /-- IMULH (R104). Integer multiply, high part. -/
  | imulh (d : Dst) (a : Src) (b : Src)
  /-- IMAD (R104). Integer multiply-add using D as addend. -/
  | imad (d : Dst) (a : Src) (b : Src)
  /-- IMIN (R104). Integer minimum. -/
  | imin (d : Dst) (a : Src) (b : Src)
  /-- IMAX (R104). Integer maximum. -/
  | imax (d : Dst) (a : Src) (b : Src)
  /-- IABS (R104). Integer absolute value. -/
  | iabs (d : Dst) (a : Src)
  /-- INEG (R104). Integer negation. -/
  | ineg (d : Dst) (a : Src)
  /-- AND (R104). Bitwise AND. -/
  | and (d : Dst) (a : Src) (b : Src)
  /-- OR (R104). Bitwise OR. -/
  | or (d : Dst) (a : Src) (b : Src)
  /-- XOR (R104). Bitwise XOR. -/
  | xor (d : Dst) (a : Src) (b : Src)
  /-- NOT (R104). Bitwise NOT. -/
  | not (d : Dst) (a : Src)
  /-- ANDN (R104). Bitwise A AND NOT B. -/
  | andn (d : Dst) (a : Src) (b : Src)
  /-- SHL (R106). Shift left. -/
  | shl (d : Dst) (a : Src) (b : Src)
  /-- SHR (R106). Logical shift right. -/
  | shr (d : Dst) (a : Src) (b : Src)
  /-- SAR (R106). Arithmetic shift right. -/
  | sar (d : Dst) (a : Src) (b : Src)
  /-- ROTL (R106). Rotate left. -/
  | rotl (d : Dst) (a : Src) (b : Src)
  /-- POPC (R106). Population count. -/
  | popc (d : Dst) (a : Src)
  /-- CLZ (R106). Count leading zeros. -/
  | clz (d : Dst) (a : Src)
  /-- BREV (R106). Bit reverse. -/
  | brev (d : Dst) (a : Src)
  /-- BFX (R106). Bit-field extract. -/
  | bfx (d : Dst) (a : Src) (b : Src)
  /-- BFI (R106). Bit-field insert. -/
  | bfi (d : Dst) (a : Src) (b : Src)
  /-- LEA (R107). 32-bit address A + B times the element size. -/
  | lea (d : Dst) (a : Src) (b : Src)
  /-- LEA64 (R107). 64-bit address pair A + sign-extended B times the element size. -/
  | lea64 (d : Dst) (a : Src) (b : Src)
  /-- MOV (R108). Copies 32 bits. -/
  | mov (d : Dst) (a : Src)
  /-- MOVL (R108). Copies a 64-bit value to a register pair. -/
  | movl (d : Dst) (a : Src)
  /-- SEL (R108). Selects A or B by p94. -/
  | sel (d : Dst) (a : Src) (b : Src)
  /-- CVTI (R109). Converts an integer element between integer types. -/
  | cvti (d : Dst) (a : Src) (b : BitVec 8)
  /-- ICMPEQ (R110). Integer compare equal into a predicate. -/
  | icmpeq (d : BitVec 8) (a : Src) (b : Src)
  /-- ICMPNE (R110). Integer compare not equal. -/
  | icmpne (d : BitVec 8) (a : Src) (b : Src)
  /-- ICMPLT (R110). Signed compare less than. -/
  | icmplt (d : BitVec 8) (a : Src) (b : Src)
  /-- ICMPLE (R110). Signed compare less or equal. -/
  | icmple (d : BitVec 8) (a : Src) (b : Src)
  /-- ICMPLTN (R110). Unsigned compare less than. -/
  | icmpltn (d : BitVec 8) (a : Src) (b : Src)
  /-- ICMPLEN (R110). Unsigned compare less or equal. -/
  | icmplen (d : BitVec 8) (a : Src) (b : Src)
  /-- FCMPEQ (R111). Float compare equal. -/
  | fcmpeq (d : BitVec 8) (a : Src) (b : Src)
  /-- FCMPNE (R111). Float compare not equal. -/
  | fcmpne (d : BitVec 8) (a : Src) (b : Src)
  /-- FCMPLT (R111). Float compare less than. -/
  | fcmplt (d : BitVec 8) (a : Src) (b : Src)
  /-- FCMPLE (R111). Float compare less or equal. -/
  | fcmple (d : BitVec 8) (a : Src) (b : Src)
  /-- FCMPUN (R111). Float compare unordered. -/
  | fcmpun (d : BitVec 8) (a : Src) (b : Src)
  /-- FCMPORD (R111). Float compare ordered. -/
  | fcmpord (d : BitVec 8) (a : Src) (b : Src)
  /-- PAND (R112). Predicate AND. -/
  | pand (d : BitVec 8) (a : BitVec 8) (b : BitVec 8)
  /-- POR (R112). Predicate OR. -/
  | por (d : BitVec 8) (a : BitVec 8) (b : BitVec 8)
  /-- PXOR (R112). Predicate XOR. -/
  | pxor (d : BitVec 8) (a : BitVec 8) (b : BitVec 8)
  /-- PNOT (R112). Predicate NOT. -/
  | pnot (d : BitVec 8) (a : BitVec 8)
  /-- PMOV (R112). Predicate move. -/
  | pmov (d : BitVec 8) (a : BitVec 8)
  /-- PTOV (R112). Predicate to a 0 or 1 register word. -/
  | ptov (d : Dst) (a : BitVec 8)
  /-- VTOP (R112). Register non-zero test into a predicate. -/
  | vtop (d : BitVec 8) (a : Src)
  /-- VOTEALL (R128). AND of a predicate over the active lanes. -/
  | voteall (d : BitVec 8) (a : BitVec 8)
  /-- VOTEANY (R128). OR of a predicate over the active lanes. -/
  | voteany (d : BitVec 8) (a : BitVec 8)
  /-- VOTEBAL (R128). Ballot mask of a predicate over the active lanes. -/
  | votebal (d : Dst) (a : BitVec 8)
  /-- SHFL (R129). Reads A from an indexed lane. -/
  | shfl (d : Dst) (a : Src) (b : Src)
  /-- SHFLUP (R129). Reads A from lane l minus n. -/
  | shflup (d : Dst) (a : Src) (b : Src)
  /-- SHFLDN (R129). Reads A from lane l plus n. -/
  | shfldn (d : Dst) (a : Src) (b : Src)
  /-- SHFLX (R129). Reads A from lane l XOR n. -/
  | shflx (d : Dst) (a : Src) (b : Src)
  /-- BCAST (R130). Broadcasts one lane's value to every active lane. -/
  | bcast (d : Dst) (a : Src) (b : Src)
  /-- MOVVG (R130). Moves one lane's value into a uniform register. -/
  | movvg (d : Dst) (a : Src) (b : Src)
  /-- MOVGV (R130). Writes a uniform value into one lane of a vector register. -/
  | movgv (d : Dst) (a : Src) (b : Src)
  /-- GREDADD (R131). Sum reduction over the active lanes. -/
  | gredadd (d : Dst) (a : Src)
  /-- GREDMIN (R131). Minimum reduction over the active lanes. -/
  | gredmin (d : Dst) (a : Src)
  /-- GREDMAX (R131). Maximum reduction over the active lanes. -/
  | gredmax (d : Dst) (a : Src)
  /-- GSCANADD (R132). Inclusive or exclusive prefix sum over the active lanes. -/
  | gscanadd (d : Dst) (a : Src) (b : BitVec 8)
  /-- GCNTGT (R150). Counts active lanes whose element exceeds the pivot. -/
  | gcntgt (d : Dst) (a : Src) (b : Src)
  /-- GSUMGT (R150). Sums the active elements that exceed the pivot. -/
  | gsumgt (d : Dst) (a : Src) (b : Src)
  /-- GMAXRED (R151). Arg-max over the active lanes into a register pair. -/
  | gmaxred (d : Dst) (a : Src)
  /-- RNG (R153). Draws a 32-bit random word per active lane and advances its counter. -/
  | rng (d : Dst)
  /-- RNGF (R153). Draws a random FP32 value in [0, 1) per active lane. -/
  | rngf (d : Dst)
  /-- GMASK (R152). Applies one grammar mask word, writing minus infinity to disallowed lanes. -/
  | gmask (d : Dst) (a : Src) (b : BitVec 8)
  /-- FADD (R137). Float add. -/
  | fadd (d : Dst) (a : Src) (b : Src)
  /-- FSUB (R137). Float subtract. -/
  | fsub (d : Dst) (a : Src) (b : Src)
  /-- FMUL (R137). Float multiply. -/
  | fmul (d : Dst) (a : Src) (b : Src)
  /-- FFMA (R137). Fused multiply-add rounded once. -/
  | ffma (d : Dst) (a : Src) (b : Src)
  /-- FFMS (R137). Fused multiply-subtract rounded once. -/
  | ffms (d : Dst) (a : Src) (b : Src)
  /-- FMIN (R138). Float minimum. -/
  | fmin (d : Dst) (a : Src) (b : Src)
  /-- FMAX (R138). Float maximum. -/
  | fmax (d : Dst) (a : Src) (b : Src)
  /-- FABS (R139). Clears the sign bit. -/
  | fabs (d : Dst) (a : Src)
  /-- FNEG (R139). Inverts the sign bit. -/
  | fneg (d : Dst) (a : Src)
  /-- FCLASS (R140). Classifies a float element into a one-hot word. -/
  | fclass (d : Dst) (a : Src)
  /-- FSCALE (R141). Multiplies by two to an integer power. -/
  | fscale (d : Dst) (a : Src) (b : Src)
  /-- FFRACT (R142). Fractional part. -/
  | ffract (d : Dst) (a : Src)
  /-- FFLOOR (R142). Floor. -/
  | ffloor (d : Dst) (a : Src)
  /-- FROUND (R142). Round to integral under MODE.RND. -/
  | fround (d : Dst) (a : Src)
  /-- FRCP (R143). Correctly rounded reciprocal. -/
  | frcp (d : Dst) (a : Src)
  /-- FRSQ (R143). Correctly rounded reciprocal square root. -/
  | frsq (d : Dst) (a : Src)
  /-- FSQRT (R143). Correctly rounded square root. -/
  | fsqrt (d : Dst) (a : Src)
  /-- FEXP2 (R143). Correctly rounded power of two. -/
  | fexp2 (d : Dst) (a : Src)
  /-- FLOG2 (R143). Correctly rounded base-2 logarithm. -/
  | flog2 (d : Dst) (a : Src)
  /-- FSIN (R143). Correctly rounded sine. -/
  | fsin (d : Dst) (a : Src)
  /-- FCOS (R143). Correctly rounded cosine. -/
  | fcos (d : Dst) (a : Src)
  /-- FTANH (R143). Correctly rounded hyperbolic tangent. -/
  | ftanh (d : Dst) (a : Src)
  /-- CVTF (R145). Converts float to float. -/
  | cvtf (d : Dst) (a : Src) (b : BitVec 8)
  /-- CVTFI (R145). Converts float to integer. -/
  | cvtfi (d : Dst) (a : Src) (b : BitVec 8)
  /-- CVTIF (R145). Converts integer to float. -/
  | cvtif (d : Dst) (a : Src) (b : BitVec 8)
  /-- PACK (R146). Converts FP32 sources and packs two or four narrow elements into one word. -/
  | pack (d : Dst) (a : Src) (b : Src)
  /-- UNPACK (R147). Widens one packed element to FP32. -/
  | unpack (d : Dst) (a : Src) (b : BitVec 8)
  /-- HADD2 (R148). Packed 16-bit add. -/
  | hadd2 (d : Dst) (a : Src) (b : Src)
  /-- HMUL2 (R148). Packed 16-bit multiply. -/
  | hmul2 (d : Dst) (a : Src) (b : Src)
  /-- HFMA2 (R148). Packed 16-bit fused multiply-add. -/
  | hfma2 (d : Dst) (a : Src) (b : Src)
  /-- FDOT2 (R149). Two-way 16-bit dot product into an FP32 accumulator. -/
  | fdot2 (d : Dst) (a : Src) (b : Src)
  /-- FDOT4 (R149). Four-way 8-bit dot product into a 32-bit accumulator. -/
  | fdot4 (d : Dst) (a : Src) (b : Src)
  /-- LD (R161). Per-lane global load tracked on gld. -/
  | ld (d : Dst) (a : Src) (b : Src)
  /-- ST (R161). Per-lane global store performed at the home slice. -/
  | st (d : Src) (a : Src) (b : Src)
  /-- LDA (R162). Load with acquire at a scope. -/
  | lda (d : Dst) (a : BitVec 8) (b : Src)
  /-- STL (R162). Store with release at a scope. -/
  | stl (d : Src) (a : BitVec 8) (b : Src)
  /-- LDR (R167). Load that sets each lane's reservation. -/
  | ldr (d : Dst) (a : Src) (b : Src)
  /-- STC (R168). Conditional store succeeding only on an intact reservation. -/
  | stc (d : BitVec 8) (a : Src) (b : Src)
  /-- LDG (R161). Uniform load of one element into a uniform register. -/
  | ldg (d : Dst) (a : Src) (b : Src)
  /-- LDS (R163). Scratchpad load tracked by a scoreboard slot. -/
  | lds (d : Dst) (a : Src) (b : Src)
  /-- STS (R163). Scratchpad store taking effect at issue. -/
  | sts (d : Src) (a : Src) (b : Src)
  /-- LDW (R165). Load from a bound Glasshouse region slot. -/
  | ldw (d : Dst) (a : Src) (b : BitVec 8)
  /-- LDROW (R166). Atomic snapshot load of a 512-byte row across the lanes. -/
  | ldrow (d : Dst) (a : Src)
  /-- PREF (R174). Prefetches lines into L1 or the home L2 slice without trapping. -/
  | pref (a : Src) (b : BitVec 8)
  /-- CCTL_EVICT_L1 (R174). Cache control op 0: drops the line from the core's L1 and sends an eviction notice. -/
  | cctlEvictL1 (a : Src)
  /-- CCTL_WRITE_BACK (R174). Cache control op 1: writes the line back and removes it from its L2 slice. -/
  | cctlWriteBack (a : Src)
  /-- FENCE (R173). Holds later instructions until earlier accesses are performed at the scope. -/
  | fence (a : BitVec 8)
  /-- ATADD (R171). Returning atomic add at the home slice. -/
  | atadd (d : Dst) (a : Src) (b : Src)
  /-- ATMIN (R171). Returning atomic minimum. -/
  | atmin (d : Dst) (a : Src) (b : Src)
  /-- ATMAX (R171). Returning atomic maximum. -/
  | atmax (d : Dst) (a : Src) (b : Src)
  /-- ATAND (R171). Returning atomic AND. -/
  | atand (d : Dst) (a : Src) (b : Src)
  /-- ATOR (R171). Returning atomic OR. -/
  | ator (d : Dst) (a : Src) (b : Src)
  /-- ATXOR (R171). Returning atomic XOR. -/
  | atxor (d : Dst) (a : Src) (b : Src)
  /-- ATXCH (R171). Returning atomic exchange. -/
  | atxch (d : Dst) (a : Src) (b : Src)
  /-- ATCAS (R171). Returning atomic compare-and-swap. -/
  | atcas (d : Dst) (a : Src) (b : Src)
  /-- REDADD (R171). Non-returning atomic add. -/
  | redadd (a : Src) (b : Src)
  /-- REDMIN (R171). Non-returning atomic minimum. -/
  | redmin (a : Src) (b : Src)
  /-- REDMAX (R171). Non-returning atomic maximum. -/
  | redmax (a : Src) (b : Src)
  /-- REDAND (R171). Non-returning atomic AND. -/
  | redand (a : Src) (b : Src)
  /-- REDOR (R171). Non-returning atomic OR. -/
  | redor (a : Src) (b : Src)
  /-- REDXOR (R171). Non-returning atomic XOR. -/
  | redxor (a : Src) (b : Src)
  /-- VRADD (R172). Indivisible BF16 add into a 512-byte row. -/
  | vradd (d : Dst) (a : Src) (b : BitVec 8)
  /-- VRMAX (R172). Indivisible BF16 maximum into a 512-byte row. -/
  | vrmax (d : Dst) (a : Src) (b : BitVec 8)
  /-- ACPY (R178). Posts a linear async copy into a queue. -/
  | acpy (d : BitVec 8) (a : BitVec 8) (b : BitVec 8)
  /-- ACPYS (R178). Posts a strided async copy of rows. -/
  | acpys (d : BitVec 8) (a : BitVec 8) (b : BitVec 8)
  /-- AGATH (R179). Posts a gather of indexed rows into scratchpad. -/
  | agath (d : BitVec 8) (a : BitVec 8) (b : Src)
  /-- ASCAT (R179). Posts a scatter of scratchpad rows to indexed addresses. -/
  | ascat (d : BitVec 8) (a : BitVec 8) (b : Src)
  /-- RPUT (R180). Posts a copy to a global address on another module. -/
  | rput (d : BitVec 8) (a : BitVec 8) (b : BitVec 8)
  /-- RGET (R180). Posts a copy from a global address to local memory. -/
  | rget (d : BitVec 8) (a : BitVec 8) (b : BitVec 8)
  /-- RATOM (R180). Posts a remote atomic on a global element. -/
  | ratom (d : BitVec 8) (a : BitVec 8) (b : BitVec 8)
  /-- AQFENCE (R182). Posts a fence entry that completes after earlier commands of the masked queues. -/
  | aqfence (d : BitVec 8) (a : BitVec 8)
  /-- WAITC (R183). Waits until a path's in-flight counter is at or below a threshold. -/
  | waitc (d : BitVec 8) (a : Src)
  /-- WSIG (R181). Posts a copy followed by a 64-bit signal add after the payload is performed. -/
  | wsig (d : BitVec 8) (a : BitVec 8) (b : BitVec 8)
  /-- SIGADD (R181). Posts a 64-bit signal add. -/
  | sigadd (d : BitVec 8) (a : BitVec 8) (b : BitVec 8)
  /-- SIGWAIT (R184). Waits until a signal word reaches a threshold, then acquires at the scope. -/
  | sigwait (d : BitVec 8) (a : Src) (b : Src)
  /-- TSET (R190). Writes a tile descriptor from four uniform registers after field checks. -/
  | tset (d : BitVec 8) (a : Src)
  /-- TGET (R190). Reads a tile descriptor into four uniform registers. -/
  | tget (d : Dst) (a : BitVec 8)
  /-- TLDSC (R192). Loads one scaled 32x32 block and its record as a snapshot into nine registers. -/
  | tldsc (d : Dst) (a : BitVec 8) (b : Src)
  /-- TSTSC (R193). Stores one scaled block and its record indivisibly at the home slice. -/
  | tstsc (d : Src) (a : BitVec 8) (b : Src)
  /-- MMA (R196). Requests a matrix product of two descriptor operands into one accumulator tile. -/
  | mma (d : BitVec 8) (a : BitVec 8) (b : Src)
  /-- MMA2 (R196). Requests a 2x2 operand-form product into four accumulator tiles. -/
  | mma2 (d : BitVec 8) (a : BitVec 8) (b : Src)
  /-- MMAT (R196). Requests a product whose A operand is a converted accumulator tile. -/
  | mmat (d : BitVec 8) (a : BitVec 8) (b : Src)
  /-- TTRANS (R200). Structure operation writing the transpose of a tensor into a tile. -/
  | ttrans (d : BitVec 8) (a : BitVec 8)
  /-- TPERM (R200). Structure operation writing row-permuted tensor rows into a tile. -/
  | tperm (d : BitVec 8) (a : BitVec 8) (b : Src)
  /-- TRSUM (R200). Structure operation accumulating column or row sums into row 0. -/
  | trsum (d : BitVec 8) (a : BitVec 8) (b : BitVec 8)
  /-- ACLR (R202). Clears the owned rows of n accumulator tiles. -/
  | aclr (d : BitVec 8) (b : BitVec 8)
  /-- ALD (R204). Posts an async load of a tensor into an accumulator tile. -/
  | ald (d : BitVec 8) (a : BitVec 8) (b : BitVec 8)
  /-- AST (R204). Posts an async store of an accumulator tile as FP32. -/
  | ast (d : BitVec 8) (a : BitVec 8) (b : BitVec 8)
  /-- ARD (R203). Reads eight elements of an owned tile row into vector registers. -/
  | ard (d : Dst) (a : BitVec 8) (b : Src)
  /-- AWR (R203). Writes eight vector registers into an owned tile row. -/
  | awr (d : BitVec 8) (a : Src) (b : Src)
  /-- ADRAIN (R205). Posts a drain of an accumulator tile to memory with optional conversion, quantising or add-on-store. -/
  | adrain (d : BitVec 8) (a : BitVec 8) (b : BitVec 8)
  /-- ACQA (R207). Asks the core for more accumulator tiles, granted or refused in its issue clock. -/
  | acqa (d : BitVec 8) (a : Dst) (b : BitVec 8)
  /-- RELA (R208). Returns accumulator tiles to the core after earlier operations finish with them. -/
  | rela (d : BitVec 8) (b : BitVec 8)
  /-- SXOPEN (R213). Creates a Trellis record or binds lanes to an existing handle. -/
  | sxopen (d : Dst) (a : Src) (b : BitVec 8)
  /-- SXAPPEND (R214). Appends or replays one token per active lane into the bound record. -/
  | sxappend (d : BitVec 8) (a : Src) (b : Src)
  /-- SXMATCH (R215). Finds the longest retained suffix match and returns draft tokens. -/
  | sxmatch (d : Dst) (a : Src) (b : Dst)
  /-- SXSTAT (R216). Reads the handle, length, capacity, MINL or depth table of a lane's record. -/
  | sxstat (d : Dst) (b : BitVec 8)
  /-- SXSAVE (R217). Writes the canonical image of the key lane's record to memory. -/
  | sxsave (a : Src)
  /-- SXLOAD (R217). Creates a record from a saved image and binds the active lanes to it. -/
  | sxload (d : Dst) (a : Src)
  /-- SXCLOSE (R218). Invalidates lane bindings or closes the bound records. -/
  | sxclose (b : BitVec 8)
  /-- SXDEPTH (R216). Reads a depth-table entry for a quantised value. -/
  | sxdepth (d : Dst) (a : Src)
  /-- RSENTER (R220). Enters a reader section, taking a hold and version snapshot at the outermost level. -/
  | rsenter
  /-- RSLEAVE (R220). Leaves a reader section, releasing the hold and checking for a stale read at the outermost level. -/
  | rsleave
  /-- PUBLISH (R222). Stores a pointer with PACKAGE release and advances the domain version. -/
  | publish (d : Src) (a : Src)
  /-- RETIRE (R223). Queues a retire entry in the domain's Lodge queue and returns its ticket. -/
  | retire (d : Dst) (a : BitVec 8)
  /-- GPWAIT (R224). Waits until a retire ticket has been freed. -/
  | gpwait (a : Src)
  /-- GPSTAT (R225). Reads a grace-period status value of the crew's domain at the Lodge. -/
  | gpstat (d : Dst) (b : BitVec 8)
  /-- BARARR (R227). Arrives at a crew barrier. -/
  | bararr (b : BitVec 8)
  /-- BARWAIT (R227). Waits for the phase after the gang's arrival at a crew barrier. -/
  | barwait (b : BitVec 8)
  /-- BARSYNC (R227). Arrives at a crew barrier and waits for the phase to complete. -/
  | barsync (b : BitVec 8)
  /-- PBARR (R228). Arrives at a phase-bit barrier word in scratchpad. -/
  | pbarr (a : Src) (b : BitVec 8)
  /-- PBWAIT (R228). Waits until a phase-bit barrier word shows the given phase. -/
  | pbwait (a : Src) (b : Src)
  /-- EVROUTE (R230). Sets a crew event line's source and sink and clears its count. -/
  | evroute (d : BitVec 8) (a : BitVec 8) (b : BitVec 8)
  /-- EVPOST (R231). Adds one to an event line's count after a CREW-scope release. -/
  | evpost (b : BitVec 8)
  /-- EVWAIT (R231). Waits for an event line count of at least one and consumes one. -/
  | evwait (b : BitVec 8)
  /-- ERET (R237). Leaves the privileged handler state and transfers to a register target. -/
  | eret (a : Src)
  /-- TLBINV (R239). Invalidates core or die translation cache entries and waits until done. -/
  | tlbinv (a : Src) (b : BitVec 8)
  /-- CTXST (R240). Stops, drains and saves a crew into a save area and frees its resources. -/
  | ctxst (d : Dst) (a : Src) (b : Src)
  /-- CTXLD (R240). Restores a crew from a save area onto this core. -/
  | ctxld (d : Dst) (a : Src)
  /-- HALTC_WAIT_TRAP_LINE (R241). HALTC k=0: the privileged slot waits until its trap line count is non-zero. -/
  | haltcWaitTrapLine
  /-- HALTC_HALT_CREWS (R241). HALTC k=1: no crew gang of the core issues from the next clock. -/
  | haltcHaltCrews
  /-- HALTC_RESUME_CREWS (R241). HALTC k=2: crew gangs issue again. -/
  | haltcResumeCrews
  /-- SLOTCFG_RESUME (R238). SLOTCFG op 0: resumes a stopped gang, or every gang a crew page fault stopped, at the recorded instruction. -/
  | slotcfgResume (a : Src)
  /-- SLOTCFG_SKIP_RESUME (R238). SLOTCFG op 1: resumes a stopped gang at the instruction after the recorded one. -/
  | slotcfgSkipResume (a : Src)
  /-- SLOTCFG_KILL (R238). SLOTCFG op 2: kills the crew of a gang and frees its resources. -/
  | slotcfgKill (a : Src)
  /-- SLOTCFG_RING_BASE (R238). SLOTCFG op 3: sets the trap-ring base. -/
  | slotcfgRingBase (a : Src)
  /-- SLOTCFG_TRAP_VECTOR (R238). SLOTCFG op 4: sets the privileged trap vector. -/
  | slotcfgTrapVector (a : Src)
  /-- SLOTCFG_STOP_CREW (R238). SLOTCFG op 5: stops every gang of a crew at its next pre-emption point without saving. -/
  | slotcfgStopCrew (a : Src)
  /-- ILLEGAL_INSTRUCTION (R81). A word whose opcode is unassigned raises the illegal-instruction trap 0x01 without decoding its fields. -/
  | illegalInstruction (w : BitVec 32)
  /-- ILLEGAL_OPERAND (R77). A word of an assigned opcode whose zero8 field is non-zero, or whose fixed imm8 lies outside the listed values (CCTL op 2 and above, HALTC k 3 and above, SLOTCFG op 6 and above), raises trap 0x02 before any effect. -/
  | illegalOperand (w : BitVec 32) (lits : List (BitVec 32))
  /-- FAIRNESS_SWITCH (R257). When the fairness count reaches 4,096 with no exemption, runs lanes passed over, abandoning a held wait if needed. -/
  | fairnessSwitch
  /-- GANG_SLOT_RETIRE (R117). Frees a gang slot once its in-flight counters are zero and scoreboard slots free. -/
  | gangSlotRetire
  /-- SCRATCHPAD_CLEARED (R247). The freed scratchpad range finishes clearing at 128 bytes per clock and becomes admissible. -/
  | scratchpadCleared
  /-- BIN_TIMER_EXPIRE (R260). A regroup bin fill's timer reaches the timeout and the fill expires. -/
  | binTimerExpire
  /-- FILL_LAUNCH (R261). A full or expired fill launches as a fused gang in the lowest free crew slot, waiting for one if needed. -/
  | fillLaunch
  /-- GANG_READY (R248). Gangs of an admitted or restored crew become ready to issue 12 clocks later. -/
  | gangReady
  /-- BLOCK_FETCH (R75). An instruction fetch miss returns the block, letting its first issue proceed. -/
  | blockFetch
  /-- TRANSLATION_WALK (R359). A translation miss completes through the die cache or a walker, letting the waiting instruction issue. -/
  | translationWalk
  /-- LOAD_COMPLETE (R161). A counter-tracked or scoreboard load's data is written and its counter falls. -/
  | loadComplete
  /-- ATOMIC_RETURN (R171). A returning atomic's old value reaches the core and frees its scoreboard slot. -/
  | atomicReturn
  /-- FILL_REQUEST (R288). A fill request reaches the home slice, which sends fill data and updates the directory entry. -/
  | fillRequest
  /-- STORE_ARRIVAL (R287). A plain store or STC reaches its home slice, is applied and updates are sent to the entry's targets. -/
  | storeArrival
  /-- HOME_OPERATION_ARRIVAL (R287). An atomic, row operation or other home operation reaches its slice and is applied as one step. -/
  | homeOperationArrival
  /-- EVICTION_NOTICE (R290). An L1 eviction notice reaches the home slice and removes the pointer. -/
  | evictionNotice
  /-- CCTL_REQUEST_ARRIVAL (R174). A CCTL op 1 request reaches the home slice, which moves the entry to being evicted. -/
  | cctlRequestArrival
  /-- UPDATE_ACK_ARRIVAL (R289). A target's acknowledgement reaches the slice, which sends ACK-D or ACK-P when all are counted. -/
  | updateAckArrival
  /-- L2_VICTIM_SELECTION (R288). The slice picks a line to evict, invalidates its targets and holds new requests. -/
  | l2VictimSelection
  /-- WRITE_BACK_COMPLETE (R288). A line's write-back to backing memory completes and its entry is freed. -/
  | writeBackComplete
  /-- LINE_FETCH_RETURN (R288). A line fetched for an absent entry returns and the waiting request is processed. -/
  | lineFetchReturn
  /-- FILL_DATA (R290). Fill data reaches the core and installs the line in L1. -/
  | fillData
  /-- UPDATE (R289). An update reaches a target core, which applies it to non-pending words and acknowledges. -/
  | update
  /-- INVALIDATE (R290). An invalidate reaches a core, which drops the line and acknowledges. -/
  | invalidate
  /-- ACK_D (R287). ACK-D reaches the issuing core, making the write performed at CLUSTER and DIE scope. -/
  | ackD
  /-- ACK_P (R287). ACK-P reaches the issuing core, clearing pending marks and making the write performed at PACKAGE scope. -/
  | ackP
  /-- CCTL_ACK (R174). The acknowledgement of a CCTL op 1 reaches the core, completing that lane. -/
  | cctlAck
  /-- VERSION_NOTICE_ARRIVAL (R222). A PUBLISH version notice reaches the Lodge and increments the domain version. -/
  | versionNoticeArrival
  /-- ASYNC_COMMAND_START (R175). A queued async command starts once its predecessor completed and earlier accesses are performed. -/
  | asyncCommandStart
  /-- ASYNC_COMMAND_COMPLETE (R175). An async command completes, its counters fall and its completion pulse reaches the event matrix. -/
  | asyncCommandComplete
  /-- ENGINE_FAULT_RESUME (R185). A suspended command resumes once its fault is serviced. -/
  | engineFaultResume
  /-- ASYNC_TRAP (R232). A completion reporting a trap stops the gang before its next issue and records an asynchronous trap. -/
  | asyncTrap
  /-- TRAP_RECORD_WRITE (R234). The core writes a trap record to its ring once the next entry's VALID bit is clear, raising the trap line. -/
  | trapRecordWrite
  /-- PASS_GRANT (R266). A free CME quarter is granted to the ready entry of highest effective priority. -/
  | passGrant
  /-- PASS_COMPLETE (R199). A matrix pass writes its tiles; after the last pass the CME sends a completion pulse. -/
  | passComplete
  /-- TRELLIS_ARRIVAL (R219). A Trellis operation reaches the owning Trellis and takes effect in arrival order. -/
  | trellisArrival
  /-- TRELLIS_COMPLETE (R211). A Trellis operation's results return to the gang and the trel counter falls. -/
  | trellisComplete
  /-- RETIRE_ARRIVAL (R335). A retire entry reaches the domain queue, gets a ticket and may start a grace period. -/
  | retireArrival
  /-- FLIP_ARRIVAL (R331). A colour flip or version from the root reaches a die aggregator and is applied to its leaves. -/
  | flipArrival
  /-- LEAF_QUIET_REPORT (R331). A leaf's quiet report reaches its aggregator, which reports to the root when all 40 have. -/
  | leafQuietReport
  /-- AGGREGATOR_QUIET_ARRIVAL (R331). An aggregator's quiet report reaches the root. -/
  | aggregatorQuietArrival
  /-- GRACE_PERIOD_END (R335). All aggregators are quiet and parked old-colour holds are zero: covered entries are freed. -/
  | gracePeriodEnd
  /-- ENTRY_FREE (R336). Frees one retire entry: reopens a Glasshouse region, writes the free list, FREED and CWORD. -/
  | entryFree
  /-- FREED_ARRIVAL (R224). A new freed ticket from the Lodge reaches a core and releases satisfied GPWAITs. -/
  | freedArrival
  /-- PARK_REQUEST_ARRIVAL (R333). A saving core's hold counts reach the root, which writes a parked-hold entry and acknowledges. -/
  | parkRequestArrival
  /-- PARK_ACK_ARRIVAL (R333). The root's acknowledgement reaches the leaf, which lowers its counts. -/
  | parkAckArrival
  /-- HOLD_DECREMENT_ARRIVAL (R333). A remote hold decrement reaches the root or a forwarding leaf and lowers the hold. -/
  | holdDecrementArrival
  /-- STALE_READ_INCREMENT (R334). A stale-read increment reaches the partition's counter at the Lodge. -/
  | staleReadIncrement
  /-- GPSTAT_SERVE (R225). A GPSTAT request is served at the Lodge and its value returned. -/
  | gpstatServe
  /-- CHORE_PULSE_ARRIVAL (R242). A Lodge chore pulse reaches a core and raises its trap line. -/
  | chorePulseArrival
  /-- WAIT_CONDITION_MET (R243). A waiting instruction's condition holds and the gang resumes issue. -/
  | waitConditionMet
  /-- DOORBELL (R304). Doorbell write for a queue: checks the descriptor and maps an idle queue or rereads WRX. -/
  | doorbell
  /-- QUEUE_MAP (R304). A pending queue is mapped to a freed hardware slot in QPRIO order. -/
  | queueMap
  /-- QUEUE_UNMAP (R304). A mapped queue idle for 65,536 clocks returns to idle and frees its slot. -/
  | queueUnmap
  /-- LAUNCH_PACKET (R312). Starts a LAUNCH: snapshots and checks the header, binds regions and begins offering crews. -/
  | launchPacket
  /-- GRAPH_PACKET (R317). Starts a GRAPH: snapshots and checks the graph and starts ready nodes. -/
  | graphPacket
  /-- WAIT_PACKET (R308). Reads a signal word with acquire, completing or parking the queue. -/
  | waitPacket
  /-- SIGNAL_PACKET (R307). Adds an increment to a signal word as SIGADD does. -/
  | signalPacket
  /-- COPY_PACKET (R307). Copies bytes through the die's copy engine as ACPY does. -/
  | copyPacket
  /-- INDIRECT_PACKET (R309). Executes a buffer of packets in order, stopping at a fifth nesting level. -/
  | indirectPacket
  /-- FENCE_PACKET (R306). Waits until every earlier packet completed and its writes are performed at the named scope. -/
  | fencePacket
  /-- SIGNAL_UNIT_READ (R308). An update to a registered signal word's line makes the signal unit reread it and wake the parked queue. -/
  | signalUnitRead
  /-- CREW_OFFER (R313). A die Pergola offer opportunity chooses a slot and offers its next crew to the partition's cores. -/
  | crewOffer
  /-- GRID_RETIRE (R306). A grid's crews have ended and their writes are performed; regions are released and TAILBUF is read. -/
  | gridRetire
  /-- PACKET_COMPLETE (R306). A packet completes and the Pergola adds DINC to its DONE word. -/
  | packetComplete
  /-- KERNEL_NODE (R317). A ready KERNEL node launches its grid. -/
  | kernelNode
  /-- COPY_NODE (R317). A ready COPY node performs its copy. -/
  | copyNode
  /-- SIGNAL_NODE (R317). A ready SIGNAL node performs its add. -/
  | signalNode
  /-- WAIT_NODE (R317). A ready WAIT node waits on its signal word without parking the queue. -/
  | waitNode
  /-- TAIL_NODE (R317). A ready TAIL node reads its pair and launches that grid or completes. -/
  | tailNode
  /-- LOOP_NODE (R318). A ready LOOP node starts its body graph. -/
  | loopNode
  /-- LOOP_ITERATION_END (R318). A loop body completes; the condition word is read and the loop repeats or writes its result. -/
  | loopIterationEnd
  /-- BUDGET_WINDOW_END (R320). A die's 8,192-clock window ends; its totals and clock are sent to the Lodge and the clock may change. -/
  | budgetWindowEnd
  /-- TOTALS_ARRIVAL (R320). A die's window totals reach the Lodge and replace its latest totals for budget tests. -/
  | totalsArrival
  /-- SENSOR_SAMPLE (R397). Junction sensors are read every 1 ms, setting the package limit and thermal conditions. -/
  | sensorSample
  /-- CONTAINMENT (R393). Step 1 at the Lodge: marks the partition, disables it, stops its queues and refuses its windows. -/
  | containment
  /-- CONTAINMENT_NOTICE (R393). The containment notice reaches a core, which stops and discards the partition's crews. -/
  | containmentNotice
  /-- CONTAINMENT_COMPLETE (R393). All cores, Pergolas and Trellises have reported: DONE is set and stopped queues are notified. -/
  | containmentComplete
  /-- RESET_RELEASE (R378). Stage 0 runs the boot ROM and checks the stage-1 image. -/
  | resetRelease
  /-- STAGE_1 (R378). Trains HBM and bridges, applies repairs and accepts the Arbor image. -/
  | stage1
  /-- STAGE_2 (R378). Brings dies online in order, starts privileged slots and trains ports. -/
  | stage2
  /-- HOST_LINK_TRAINING (R362). The host link trains in PCIe or CXL mode, setting FEAT1.CXL. -/
  | hostLinkTraining
  /-- REGISTER_WRITE (R363). A host or management write to a Lodge register with no behaviour of its own. -/
  | registerWrite
  /-- FLACK (R329). Acknowledges the oldest freed entries of a domain, lowering UNACK and OCC. -/
  | flack
  /-- BIAS_TO_HOST (R369). BIASCTL with direction 1 starts a flip of the page to host bias. -/
  | biasToHost
  /-- BIAS_TO_DEVICE (R368). BIASCTL with direction 0 back-invalidates every half and returns the page to device bias. -/
  | biasToDevice
  /-- BIAS_FLIP_LINE (R369). The bridge examines one line of a flipping page, flushing dirty halves and releasing held requests. -/
  | biasFlipLine
  /-- ATTESTATION_REPORT (R387). Mailbox or DOE op 1: builds and signs an attestation report over the nonce. -/
  | attestationReport
  /-- HANDOVER_REQUEST (R383). Mailbox or DOE op 2: checks a new Arbor image and makes it pending. -/
  | handoverRequest
  /-- MGMT_READ_REGISTER (R381). Management ring op 1: the Lodge reads a BAR0 register for an agent. -/
  | mgmtReadRegister
  /-- MGMT_WRITE_REGISTER (R381). Management ring op 2: the Lodge writes a BAR0 register for an agent. -/
  | mgmtWriteRegister
  /-- CLAIM_CHORE (R382). Management ring op 3: returns the oldest unclaimed chore, or SWITCH during a hand-over. -/
  | claimChore
  /-- POST_CHORE (R382). Management ring op 4: posts a chore and returns its ticket. -/
  | postChore
  /-- SWITCH (R384). Management ring op 5: restarts the core's privileged slot at the pending image. -/
  | switch
  /-- MGMT_INVALID_OP (R381). A management request with an unlisted op stops the ring and notifies the host. -/
  | mgmtInvalidOp
  /-- HOST_READ (R367). A host read of device memory is served at the home slice. -/
  | hostRead
  /-- HOST_WRITE (R367). A host write to device memory is applied at the home slice as a home operation. -/
  | hostWrite
  /-- HOST_CXL_MEM_REQUEST (R368). A host CXL.mem request to a device-bias page starts a flip and is held. -/
  | hostCxlMemRequest
  /-- SNP_DATA (R365). A host SnpData moves a held half to shared, returning dirty data. -/
  | snpData
  /-- SNP_INV (R365). A host SnpInv moves a held half to invalid and invalidates the line in L1s. -/
  | snpInv
  /-- HOST_GRANT (R365). The host's grant for RdShared or RdOwn sets the half's state and lets the waiting fill or store proceed. -/
  | hostGrant
  /-- GO_WRITEPULL (R366). The host's GO_WritePull lets the bridge send the victim half's data and free the buffer entry. -/
  | goWritepull
  /-- BISNP_RESPONSE (R368). The host answers a back-invalidate snoop, letting a host-bias access or bias change proceed. -/
  | bisnpResponse
  /-- FLIT_RECEIVE (R370). A HilarLink flit arrives, is corrected and checked, replayed on failure, and updates flow control. -/
  | flitReceive
  /-- REMOTE_PUT_ARRIVAL (R373). An RPUT or WSIG payload arrives and is checked against a fabric window and written. -/
  | remotePutArrival
  /-- REMOTE_GET_ARRIVAL (R373). An RGET request arrives and the window's data is returned. -/
  | remoteGetArrival
  /-- REMOTE_ATOMIC_ARRIVAL (R373). A RATOM request arrives and is performed at the element's home slice. -/
  | remoteAtomicArrival
  /-- REMOTE_SIGNAL_ADD_ARRIVAL (R373). A remote signal add from WSIG, SIGADD, DONE or SIGNAL arrives and is applied. -/
  | remoteSignalAddArrival
  /-- REMOTE_RESPONSE_ARRIVAL (R180). A remote response arrives, writing data, result or status and completing the command. -/
  | remoteResponseArrival
  /-- ACCUMULATOR_MANAGEMENT_COMPLETE (R208). ACLR, ARD, AWR or RELA finishes its latency: ARD writes its registers, the tile is released for later operations, and RELA returns its tiles to the core. -/
  | accumulatorManagementComplete
  /-- MAILBOX_REQUEST_COMPLETE (R386). The attestation engine finishes a request, writes the response and moves MBSTAT from busy to done or error. -/
  | mailboxRequestComplete
  /-- PORT_DOWN (R372). A HilarLink port that was up goes down, so commands to nodes whose mask has no up port complete with status 1, and routing picks another port. -/
  | portDown
deriving DecidableEq, Repr

end Sys2Proof
end

