-- ==== Sys2Proof/Decode.lean ====
section
/-! DEFINITION. The instruction words of R72 to R81: the decoder, total on any words, and the encoder. A word with an
unassigned opcode decodes to `illegalInstruction` and a word that breaks a zero8 field, or a fixed imm8, to
`illegalOperand`; both are rows of the table. -/

namespace Sys2Proof

/-- Why a list of words or bytes gives no instruction at all. -/
inductive DecodeError where
  | truncated        -- fewer than four bytes
  | literalMissing   -- an 0xFF source field whose literal word is not there (R79)
deriving DecidableEq, Repr

/-- A parser of one word and the words after it: the instruction and the words it leaves. -/
abbrev Parser := BitVec 32 → List (BitVec 32) → Except DecodeError (Instr × List (BitVec 32))

/-- The fields of an instruction word (R76). -/
def fieldOp (w : BitVec 32) : BitVec 8 := w.extractLsb' 24 8
def fieldD (w : BitVec 32) : BitVec 8 := w.extractLsb' 16 8
def fieldA (w : BitVec 32) : BitVec 8 := w.extractLsb' 8 8
def fieldB (w : BitVec 32) : BitVec 8 := w.extractLsb' 0 8

/-- The operand specifier of R78 read as a source, for codes other than 0xFF. -/
def srcOf (c : BitVec 8) : Src :=
  if c.toNat < 0xC0 then .vec c.toNat
  else if c.toNat < 0xFC then .uni (c.toNat - 0xC0)
  else if c.toNat = 0xFC then .zero
  else if c.toNat = 0xFD then .lane
  else .resv

/-- The operand specifier of R78 written as a destination. -/
def dstOf (c : BitVec 8) : Dst :=
  if c.toNat < 0xC0 then .vec c.toNat
  else if c.toNat < 0xFC then .uni (c.toNat - 0xC0)
  else if c.toNat = 0xFC then .none
  else .bad c.toNat

/-- R79: an 0xFF source field takes the next literal word. -/
def takeSrc (c : BitVec 8) (ls : List (BitVec 32))
    (k : Src → List (BitVec 32) → Except DecodeError (Instr × List (BitVec 32))) :
    Except DecodeError (Instr × List (BitVec 32)) :=
  if c = 0xFF#8 then
    match ls with
    | [] => .error .literalMissing
    | l :: rest => k (.lit l) rest
  else k (srcOf c) ls

/-- Field kinds D, N, S (D dst, S src, N number, Z zero8; Q a 16-bit displacement). -/
def formDNS (k : Dst → BitVec 8 → Src → Instr) : Parser := fun w ls =>
  takeSrc (fieldB w) ls fun b ls => .ok (k (dstOf (fieldD w)) (fieldA w) b, ls)

/-- Field kinds D, N, Z (D dst, S src, N number, Z zero8; Q a 16-bit displacement). -/
def formDNZ (k : Dst → BitVec 8 → Instr) : Parser := fun w ls =>
  if fieldB w = 0#8 then .ok (k (dstOf (fieldD w)) (fieldA w), ls) else .ok (.illegalOperand w [], ls)

/-- Field kinds D, Q, displacement (D dst, S src, N number, Z zero8; Q a 16-bit displacement). -/
def formDQ (k : Dst → BitVec 16 → Instr) : Parser := fun w ls =>
  .ok (k (dstOf (fieldD w)) (w.extractLsb' 0 16), ls)

/-- Field kinds D, S, D (D dst, S src, N number, Z zero8; Q a 16-bit displacement). -/
def formDSD (k : Dst → Src → Dst → Instr) : Parser := fun w ls =>
  takeSrc (fieldA w) ls fun a ls => .ok (k (dstOf (fieldD w)) a (dstOf (fieldB w)), ls)

/-- Field kinds D, S, N (D dst, S src, N number, Z zero8; Q a 16-bit displacement). -/
def formDSN (k : Dst → Src → BitVec 8 → Instr) : Parser := fun w ls =>
  takeSrc (fieldA w) ls fun a ls => .ok (k (dstOf (fieldD w)) a (fieldB w), ls)

/-- Field kinds D, S, S (D dst, S src, N number, Z zero8; Q a 16-bit displacement). -/
def formDSS (k : Dst → Src → Src → Instr) : Parser := fun w ls =>
  takeSrc (fieldA w) ls fun a ls => takeSrc (fieldB w) ls fun b ls => .ok (k (dstOf (fieldD w)) a b, ls)

/-- Field kinds D, S, Z (D dst, S src, N number, Z zero8; Q a 16-bit displacement). -/
def formDSZ (k : Dst → Src → Instr) : Parser := fun w ls0 =>
  (fun ls => takeSrc (fieldA w) ls fun a ls => if fieldB w = 0#8 then .ok (k (dstOf (fieldD w)) a, ls) else .ok (.illegalOperand w (ls0.take (ls0.length - ls.length)), ls)) ls0

/-- Field kinds D, Z, N (D dst, S src, N number, Z zero8; Q a 16-bit displacement). -/
def formDZN (k : Dst → BitVec 8 → Instr) : Parser := fun w ls =>
  if fieldA w = 0#8 then .ok (k (dstOf (fieldD w)) (fieldB w), ls) else .ok (.illegalOperand w [], ls)

/-- Field kinds D, Z, Z (D dst, S src, N number, Z zero8; Q a 16-bit displacement). -/
def formDZZ (k : Dst → Instr) : Parser := fun w ls =>
  if fieldA w = 0#8 ∧ fieldB w = 0#8 then .ok (k (dstOf (fieldD w)), ls) else .ok (.illegalOperand w [], ls)

/-- Field kinds N, D, N (D dst, S src, N number, Z zero8; Q a 16-bit displacement). -/
def formNDN (k : BitVec 8 → Dst → BitVec 8 → Instr) : Parser := fun w ls =>
  .ok (k (fieldD w) (dstOf (fieldA w)) (fieldB w), ls)

/-- Field kinds N, N, N (D dst, S src, N number, Z zero8; Q a 16-bit displacement). -/
def formNNN (k : BitVec 8 → BitVec 8 → BitVec 8 → Instr) : Parser := fun w ls =>
  .ok (k (fieldD w) (fieldA w) (fieldB w), ls)

/-- Field kinds N, N, S (D dst, S src, N number, Z zero8; Q a 16-bit displacement). -/
def formNNS (k : BitVec 8 → BitVec 8 → Src → Instr) : Parser := fun w ls =>
  takeSrc (fieldB w) ls fun b ls => .ok (k (fieldD w) (fieldA w) b, ls)

/-- Field kinds N, N, Z (D dst, S src, N number, Z zero8; Q a 16-bit displacement). -/
def formNNZ (k : BitVec 8 → BitVec 8 → Instr) : Parser := fun w ls =>
  if fieldB w = 0#8 then .ok (k (fieldD w) (fieldA w), ls) else .ok (.illegalOperand w [], ls)

/-- Field kinds N, Q, displacement (D dst, S src, N number, Z zero8; Q a 16-bit displacement). -/
def formNQ (k : BitVec 8 → BitVec 16 → Instr) : Parser := fun w ls =>
  .ok (k (fieldD w) (w.extractLsb' 0 16), ls)

/-- Field kinds N, S, S (D dst, S src, N number, Z zero8; Q a 16-bit displacement). -/
def formNSS (k : BitVec 8 → Src → Src → Instr) : Parser := fun w ls =>
  takeSrc (fieldA w) ls fun a ls => takeSrc (fieldB w) ls fun b ls => .ok (k (fieldD w) a b, ls)

/-- Field kinds N, S, Z (D dst, S src, N number, Z zero8; Q a 16-bit displacement). -/
def formNSZ (k : BitVec 8 → Src → Instr) : Parser := fun w ls0 =>
  (fun ls => takeSrc (fieldA w) ls fun a ls => if fieldB w = 0#8 then .ok (k (fieldD w) a, ls) else .ok (.illegalOperand w (ls0.take (ls0.length - ls.length)), ls)) ls0

/-- Field kinds N, Z, N (D dst, S src, N number, Z zero8; Q a 16-bit displacement). -/
def formNZN (k : BitVec 8 → BitVec 8 → Instr) : Parser := fun w ls =>
  if fieldA w = 0#8 then .ok (k (fieldD w) (fieldB w), ls) else .ok (.illegalOperand w [], ls)

/-- Field kinds S, N, S (D dst, S src, N number, Z zero8; Q a 16-bit displacement). -/
def formSNS (k : Src → BitVec 8 → Src → Instr) : Parser := fun w ls =>
  takeSrc (fieldD w) ls fun d ls => takeSrc (fieldB w) ls fun b ls => .ok (k d (fieldA w) b, ls)

/-- Field kinds S, S, S (D dst, S src, N number, Z zero8; Q a 16-bit displacement). -/
def formSSS (k : Src → Src → Src → Instr) : Parser := fun w ls =>
  takeSrc (fieldD w) ls fun d ls => takeSrc (fieldA w) ls fun a ls => takeSrc (fieldB w) ls fun b ls => .ok (k d a b, ls)

/-- Field kinds S, S, Z (D dst, S src, N number, Z zero8; Q a 16-bit displacement). -/
def formSSZ (k : Src → Src → Instr) : Parser := fun w ls0 =>
  (fun ls => takeSrc (fieldD w) ls fun d ls => takeSrc (fieldA w) ls fun a ls => if fieldB w = 0#8 then .ok (k d a, ls) else .ok (.illegalOperand w (ls0.take (ls0.length - ls.length)), ls)) ls0

/-- Field kinds Z, N, Z (D dst, S src, N number, Z zero8; Q a 16-bit displacement). -/
def formZNZ (k : BitVec 8 → Instr) : Parser := fun w ls =>
  if fieldD w = 0#8 ∧ fieldB w = 0#8 then .ok (k (fieldA w), ls) else .ok (.illegalOperand w [], ls)

/-- Field kinds Z, S, N (D dst, S src, N number, Z zero8; Q a 16-bit displacement). -/
def formZSN (k : Src → BitVec 8 → Instr) : Parser := fun w ls0 =>
  (fun ls => takeSrc (fieldA w) ls fun a ls => if fieldD w = 0#8 then .ok (k a (fieldB w), ls) else .ok (.illegalOperand w (ls0.take (ls0.length - ls.length)), ls)) ls0

/-- Field kinds Z, S, S (D dst, S src, N number, Z zero8; Q a 16-bit displacement). -/
def formZSS (k : Src → Src → Instr) : Parser := fun w ls0 =>
  (fun ls => takeSrc (fieldA w) ls fun a ls => takeSrc (fieldB w) ls fun b ls => if fieldD w = 0#8 then .ok (k a b, ls) else .ok (.illegalOperand w (ls0.take (ls0.length - ls.length)), ls)) ls0

/-- Field kinds Z, S, Z (D dst, S src, N number, Z zero8; Q a 16-bit displacement). -/
def formZSZ (k : Src → Instr) : Parser := fun w ls0 =>
  (fun ls => takeSrc (fieldA w) ls fun a ls => if fieldD w = 0#8 ∧ fieldB w = 0#8 then .ok (k a, ls) else .ok (.illegalOperand w (ls0.take (ls0.length - ls.length)), ls)) ls0

/-- Field kinds Z, Z, N (D dst, S src, N number, Z zero8; Q a 16-bit displacement). -/
def formZZN (k : BitVec 8 → Instr) : Parser := fun w ls =>
  if fieldD w = 0#8 ∧ fieldA w = 0#8 then .ok (k (fieldB w), ls) else .ok (.illegalOperand w [], ls)

/-- Field kinds Z, Z, Z (D dst, S src, N number, Z zero8; Q a 16-bit displacement). -/
def formZZZ (k : Instr) : Parser := fun w ls =>
  if fieldD w = 0#8 ∧ fieldA w = 0#8 ∧ fieldB w = 0#8 then .ok (k, ls) else .ok (.illegalOperand w [], ls)

/-- Field kinds zero8, src, fixed imm8: one constructor for each listed imm8 value. -/
def formZSK (ks : List (Src → Instr)) : Parser := fun w ls0 =>
  (fun ls => takeSrc (fieldA w) ls fun a ls =>
    match ks[(fieldB w).toNat]?, decide (fieldD w = 0#8) with
    | some k, true => .ok (k a, ls)
    | _, _ => .ok (.illegalOperand w (ls0.take (ls0.length - ls.length)), ls)) ls0

/-- Field kinds zero8, zero8, fixed imm8. -/
def formZZK (ks : List Instr) : Parser := fun w ls =>
  match ks[(fieldB w).toNat]?, decide (fieldD w = 0#8 ∧ fieldA w = 0#8) with
  | some k, true => .ok (k, ls)
  | _, _ => .ok (.illegalOperand w [], ls)

/-- R80, R81: the opcode map. -/
def parserOf (op : Nat) : Parser :=
  match op with
  | 0x00 => fun w ls => .ok (.nop (w.extractLsb' 0 24), ls)
  | 0x01 => formZSZ .setm
  | 0x02 => formDZZ .getm
  | 0x03 => fun w ls => .ok (.bra (w.extractLsb' 0 24), ls)
  | 0x04 => formZSZ .brx
  | 0x05 => formNQ .brp
  | 0x06 => formZZZ .meet
  | 0x07 => formDQ .call
  | 0x08 => formDSZ .callx
  | 0x09 => formZSZ .ret
  | 0x0A => formZZZ .exit
  | 0x0B => formZZZ .done
  | 0x0C => formZZZ .yield
  | 0x0D => fun w ls => .ok (.regroup (w.extractLsb' 0 24), ls)
  | 0x0E => formDZZ .getexm
  | 0x0F => formZSZ .setexm
  | 0x10 => formZZN .trap
  | 0x11 => formZZN .bkpt
  | 0x12 => formDNZ .rdsr
  | 0x13 => formNSZ .wrsr
  | 0x14 => formDSS .iadd
  | 0x15 => formDSS .isub
  | 0x16 => formDSS .iaddc
  | 0x17 => formDSS .isubb
  | 0x18 => formDSS .imul
  | 0x19 => formDSS .imulh
  | 0x1A => formDSS .imad
  | 0x1B => formDSS .imin
  | 0x1C => formDSS .imax
  | 0x1D => formDSZ .iabs
  | 0x1E => formDSZ .ineg
  | 0x20 => formDSS .and
  | 0x21 => formDSS .or
  | 0x22 => formDSS .xor
  | 0x23 => formDSZ .not
  | 0x24 => formDSS .andn
  | 0x25 => formDSS .shl
  | 0x26 => formDSS .shr
  | 0x27 => formDSS .sar
  | 0x28 => formDSS .rotl
  | 0x29 => formDSZ .popc
  | 0x2A => formDSZ .clz
  | 0x2B => formDSZ .brev
  | 0x2C => formDSS .bfx
  | 0x2D => formDSS .bfi
  | 0x2E => formDSS .lea
  | 0x2F => formDSS .lea64
  | 0x30 => formDSZ .mov
  | 0x31 => formDSZ .movl
  | 0x32 => formDSS .sel
  | 0x33 => formDSN .cvti
  | 0x34 => formNSS .icmpeq
  | 0x35 => formNSS .icmpne
  | 0x36 => formNSS .icmplt
  | 0x37 => formNSS .icmple
  | 0x38 => formNSS .icmpltn
  | 0x39 => formNSS .icmplen
  | 0x3A => formNSS .fcmpeq
  | 0x3B => formNSS .fcmpne
  | 0x3C => formNSS .fcmplt
  | 0x3D => formNSS .fcmple
  | 0x3E => formNSS .fcmpun
  | 0x3F => formNSS .fcmpord
  | 0x40 => formNNN .pand
  | 0x41 => formNNN .por
  | 0x42 => formNNN .pxor
  | 0x43 => formNNZ .pnot
  | 0x44 => formNNZ .pmov
  | 0x45 => formDNZ .ptov
  | 0x46 => formNSZ .vtop
  | 0x48 => formNNZ .voteall
  | 0x49 => formNNZ .voteany
  | 0x4A => formDNZ .votebal
  | 0x4C => formDSS .shfl
  | 0x4D => formDSS .shflup
  | 0x4E => formDSS .shfldn
  | 0x4F => formDSS .shflx
  | 0x50 => formDSS .bcast
  | 0x51 => formDSS .movvg
  | 0x52 => formDSS .movgv
  | 0x54 => formDSZ .gredadd
  | 0x55 => formDSZ .gredmin
  | 0x56 => formDSZ .gredmax
  | 0x57 => formDSN .gscanadd
  | 0x58 => formDSS .gcntgt
  | 0x59 => formDSS .gsumgt
  | 0x5A => formDSZ .gmaxred
  | 0x5C => formDZZ .rng
  | 0x5D => formDZZ .rngf
  | 0x5E => formDSN .gmask
  | 0x60 => formDSS .fadd
  | 0x61 => formDSS .fsub
  | 0x62 => formDSS .fmul
  | 0x63 => formDSS .ffma
  | 0x64 => formDSS .ffms
  | 0x65 => formDSS .fmin
  | 0x66 => formDSS .fmax
  | 0x67 => formDSZ .fabs
  | 0x68 => formDSZ .fneg
  | 0x69 => formDSZ .fclass
  | 0x6A => formDSS .fscale
  | 0x6B => formDSZ .ffract
  | 0x6C => formDSZ .ffloor
  | 0x6D => formDSZ .fround
  | 0x70 => formDSZ .frcp
  | 0x71 => formDSZ .frsq
  | 0x72 => formDSZ .fsqrt
  | 0x73 => formDSZ .fexp2
  | 0x74 => formDSZ .flog2
  | 0x75 => formDSZ .fsin
  | 0x76 => formDSZ .fcos
  | 0x77 => formDSZ .ftanh
  | 0x78 => formDSN .cvtf
  | 0x79 => formDSN .cvtfi
  | 0x7A => formDSN .cvtif
  | 0x7B => formDSS .pack
  | 0x7C => formDSN .unpack
  | 0x80 => formDSS .hadd2
  | 0x81 => formDSS .hmul2
  | 0x82 => formDSS .hfma2
  | 0x83 => formDSS .fdot2
  | 0x84 => formDSS .fdot4
  | 0x90 => formDSS .ld
  | 0x91 => formSSS .st
  | 0x92 => formDNS .lda
  | 0x93 => formSNS .stl
  | 0x94 => formDSS .ldr
  | 0x95 => formNSS .stc
  | 0x96 => formDSS .ldg
  | 0x98 => formDSS .lds
  | 0x99 => formSSS .sts
  | 0x9A => formDSN .ldw
  | 0x9B => formDSZ .ldrow
  | 0x9C => formZSN .pref
  | 0x9D => formZSK [.cctlEvictL1, .cctlWriteBack]
  | 0x9E => formZNZ .fence
  | 0xA0 => formDSS .atadd
  | 0xA1 => formDSS .atmin
  | 0xA2 => formDSS .atmax
  | 0xA3 => formDSS .atand
  | 0xA4 => formDSS .ator
  | 0xA5 => formDSS .atxor
  | 0xA6 => formDSS .atxch
  | 0xA7 => formDSS .atcas
  | 0xA8 => formZSS .redadd
  | 0xA9 => formZSS .redmin
  | 0xAA => formZSS .redmax
  | 0xAB => formZSS .redand
  | 0xAC => formZSS .redor
  | 0xAD => formZSS .redxor
  | 0xAE => formDSN .vradd
  | 0xAF => formDSN .vrmax
  | 0xB0 => formNNN .acpy
  | 0xB1 => formNNN .acpys
  | 0xB2 => formNNS .agath
  | 0xB3 => formNNS .ascat
  | 0xB4 => formNNN .rput
  | 0xB5 => formNNN .rget
  | 0xB6 => formNNN .ratom
  | 0xB7 => formNNZ .aqfence
  | 0xB8 => formNSZ .waitc
  | 0xB9 => formNNN .wsig
  | 0xBA => formNNN .sigadd
  | 0xBB => formNSS .sigwait
  | 0xC0 => formNSZ .tset
  | 0xC1 => formDNZ .tget
  | 0xC2 => formDNS .tldsc
  | 0xC3 => formSNS .tstsc
  | 0xC4 => formNNS .mma
  | 0xC5 => formNNS .mma2
  | 0xC6 => formNNS .mmat
  | 0xC7 => formNNZ .ttrans
  | 0xC8 => formNNS .tperm
  | 0xC9 => formNNN .trsum
  | 0xCA => formNZN .aclr
  | 0xCB => formNNN .ald
  | 0xCC => formNNN .ast
  | 0xCD => formDNS .ard
  | 0xCE => formNSS .awr
  | 0xCF => formNNN .adrain
  | 0xD0 => formNDN .acqa
  | 0xD1 => formNZN .rela
  | 0xD8 => formDSN .sxopen
  | 0xD9 => formNSS .sxappend
  | 0xDA => formDSD .sxmatch
  | 0xDB => formDZN .sxstat
  | 0xDC => formZSZ .sxsave
  | 0xDD => formDSZ .sxload
  | 0xDE => formZZN .sxclose
  | 0xDF => formDSZ .sxdepth
  | 0xE0 => formZZZ .rsenter
  | 0xE1 => formZZZ .rsleave
  | 0xE2 => formSSZ .publish
  | 0xE3 => formDNZ .retire
  | 0xE4 => formZSZ .gpwait
  | 0xE5 => formDZN .gpstat
  | 0xE8 => formZZN .bararr
  | 0xE9 => formZZN .barwait
  | 0xEA => formZZN .barsync
  | 0xEB => formZSN .pbarr
  | 0xEC => formZSS .pbwait
  | 0xED => formNNN .evroute
  | 0xEE => formZZN .evpost
  | 0xEF => formZZN .evwait
  | 0xF0 => formZSZ .eret
  | 0xF1 => formZSN .tlbinv
  | 0xF2 => formDSS .ctxst
  | 0xF3 => formDSZ .ctxld
  | 0xF4 => formZZK [.haltcWaitTrapLine, .haltcHaltCrews, .haltcResumeCrews]
  | 0xF5 => formZSK [.slotcfgResume, .slotcfgSkipResume, .slotcfgKill, .slotcfgRingBase, .slotcfgTrapVector, .slotcfgStopCrew]
  | _ => fun w ls => .ok (.illegalInstruction w, ls)

/-- Decodes the first instruction of a list of words: the instruction, and how many words it takes. -/
def decode (ws : List (BitVec 32)) : Except DecodeError (Instr × Nat) :=
  match ws with
  | [] => .error .truncated
  | w :: ls =>
    match parserOf (fieldOp w).toNat w ls with
    | .error e => .error e
    | .ok (i, rest) => .ok (i, ws.length - rest.length)

/-- R2: the words of little-endian bytes; up to three trailing bytes that fill no word are left out. -/
def wordsOfBytes : List (BitVec 8) → List (BitVec 32)
  | b0 :: b1 :: b2 :: b3 :: rest =>
    BitVec.append b3 (BitVec.append b2 (BitVec.append b1 b0)) :: wordsOfBytes rest
  | _ => []

/-- R2: the bytes of a word, lowest address first. -/
def bytesOfWord (w : BitVec 32) : List (BitVec 8) :=
  [w.extractLsb' 0 8, w.extractLsb' 8 8, w.extractLsb' 16 8, w.extractLsb' 24 8]

/-- Decodes the first instruction of a list of bytes. -/
def decodeBytes (bs : List (BitVec 8)) : Except DecodeError (Instr × Nat) := decode (wordsOfBytes bs)

/-- The words of a table row whose bits are w, lowest first; literals beyond its bits are zero. -/
def tableWords (w : Nat) : List (BitVec 32) := (List.range 4).map (fun i => BitVec.ofNat 32 (w / 2 ^ (32 * i)))

/-- The instruction this decoder reads from a word numbered as spec/opcode_table.json numbers it. -/
def decodeTableWord (_nbits w : Nat) : Option Instr :=
  match decodeBytes ((tableWords w).flatMap bytesOfWord) with
  | .ok (i, _) => some i
  | .error _ => none

/-- The operand code of a source (R78). -/
def Src.code : Src → BitVec 8
  | .vec n => BitVec.ofNat 8 n
  | .uni n => BitVec.ofNat 8 (0xC0 + n)
  | .zero => 0xFC#8
  | .lane => 0xFD#8
  | .resv => 0xFE#8
  | .lit _ => 0xFF#8

/-- The literal words of a source (R79). -/
def Src.lits : Src → List (BitVec 32)
  | .lit w => [w]
  | _ => []

/-- The operand code of a destination (R78). -/
def Dst.code : Dst → BitVec 8
  | .vec n => BitVec.ofNat 8 n
  | .uni n => BitVec.ofNat 8 (0xC0 + n)
  | .none => 0xFC#8
  | .bad c => BitVec.ofNat 8 c

/-- Lays out one word (R76) and the literals behind it. -/
def assemble (op d a b : BitVec 8) (lits : List (BitVec 32)) : List (BitVec 32) :=
  BitVec.append op (BitVec.append d (BitVec.append a b)) :: lits

/-- The words of an instruction (R76, R79, R80); an event has none. -/
def encode : Instr → List (BitVec 32)
  | .nop x => [BitVec.append 0x00#8 x]
  | .setm a => assemble 0x01#8 0#8 a.code 0#8 a.lits
  | .getm d => assemble 0x02#8 d.code 0#8 0#8 []
  | .bra t => [BitVec.append 0x03#8 t]
  | .brx a => assemble 0x04#8 0#8 a.code 0#8 a.lits
  | .brp d disp => [BitVec.append 0x05#8 (BitVec.append d disp)]
  | .meet => assemble 0x06#8 0#8 0#8 0#8 []
  | .call d disp => [BitVec.append 0x07#8 (BitVec.append d.code disp)]
  | .callx d a => assemble 0x08#8 d.code a.code 0#8 a.lits
  | .ret a => assemble 0x09#8 0#8 a.code 0#8 a.lits
  | .exit => assemble 0x0A#8 0#8 0#8 0#8 []
  | .done => assemble 0x0B#8 0#8 0#8 0#8 []
  | .yield => assemble 0x0C#8 0#8 0#8 0#8 []
  | .regroup t => [BitVec.append 0x0D#8 t]
  | .getexm d => assemble 0x0E#8 d.code 0#8 0#8 []
  | .setexm a => assemble 0x0F#8 0#8 a.code 0#8 a.lits
  | .trap b => assemble 0x10#8 0#8 0#8 b []
  | .bkpt b => assemble 0x11#8 0#8 0#8 b []
  | .rdsr d a => assemble 0x12#8 d.code a 0#8 []
  | .wrsr d a => assemble 0x13#8 d a.code 0#8 a.lits
  | .iadd d a b => assemble 0x14#8 d.code a.code b.code (a.lits ++ b.lits)
  | .isub d a b => assemble 0x15#8 d.code a.code b.code (a.lits ++ b.lits)
  | .iaddc d a b => assemble 0x16#8 d.code a.code b.code (a.lits ++ b.lits)
  | .isubb d a b => assemble 0x17#8 d.code a.code b.code (a.lits ++ b.lits)
  | .imul d a b => assemble 0x18#8 d.code a.code b.code (a.lits ++ b.lits)
  | .imulh d a b => assemble 0x19#8 d.code a.code b.code (a.lits ++ b.lits)
  | .imad d a b => assemble 0x1A#8 d.code a.code b.code (a.lits ++ b.lits)
  | .imin d a b => assemble 0x1B#8 d.code a.code b.code (a.lits ++ b.lits)
  | .imax d a b => assemble 0x1C#8 d.code a.code b.code (a.lits ++ b.lits)
  | .iabs d a => assemble 0x1D#8 d.code a.code 0#8 a.lits
  | .ineg d a => assemble 0x1E#8 d.code a.code 0#8 a.lits
  | .and d a b => assemble 0x20#8 d.code a.code b.code (a.lits ++ b.lits)
  | .or d a b => assemble 0x21#8 d.code a.code b.code (a.lits ++ b.lits)
  | .xor d a b => assemble 0x22#8 d.code a.code b.code (a.lits ++ b.lits)
  | .not d a => assemble 0x23#8 d.code a.code 0#8 a.lits
  | .andn d a b => assemble 0x24#8 d.code a.code b.code (a.lits ++ b.lits)
  | .shl d a b => assemble 0x25#8 d.code a.code b.code (a.lits ++ b.lits)
  | .shr d a b => assemble 0x26#8 d.code a.code b.code (a.lits ++ b.lits)
  | .sar d a b => assemble 0x27#8 d.code a.code b.code (a.lits ++ b.lits)
  | .rotl d a b => assemble 0x28#8 d.code a.code b.code (a.lits ++ b.lits)
  | .popc d a => assemble 0x29#8 d.code a.code 0#8 a.lits
  | .clz d a => assemble 0x2A#8 d.code a.code 0#8 a.lits
  | .brev d a => assemble 0x2B#8 d.code a.code 0#8 a.lits
  | .bfx d a b => assemble 0x2C#8 d.code a.code b.code (a.lits ++ b.lits)
  | .bfi d a b => assemble 0x2D#8 d.code a.code b.code (a.lits ++ b.lits)
  | .lea d a b => assemble 0x2E#8 d.code a.code b.code (a.lits ++ b.lits)
  | .lea64 d a b => assemble 0x2F#8 d.code a.code b.code (a.lits ++ b.lits)
  | .mov d a => assemble 0x30#8 d.code a.code 0#8 a.lits
  | .movl d a => assemble 0x31#8 d.code a.code 0#8 a.lits
  | .sel d a b => assemble 0x32#8 d.code a.code b.code (a.lits ++ b.lits)
  | .cvti d a b => assemble 0x33#8 d.code a.code b a.lits
  | .icmpeq d a b => assemble 0x34#8 d a.code b.code (a.lits ++ b.lits)
  | .icmpne d a b => assemble 0x35#8 d a.code b.code (a.lits ++ b.lits)
  | .icmplt d a b => assemble 0x36#8 d a.code b.code (a.lits ++ b.lits)
  | .icmple d a b => assemble 0x37#8 d a.code b.code (a.lits ++ b.lits)
  | .icmpltn d a b => assemble 0x38#8 d a.code b.code (a.lits ++ b.lits)
  | .icmplen d a b => assemble 0x39#8 d a.code b.code (a.lits ++ b.lits)
  | .fcmpeq d a b => assemble 0x3A#8 d a.code b.code (a.lits ++ b.lits)
  | .fcmpne d a b => assemble 0x3B#8 d a.code b.code (a.lits ++ b.lits)
  | .fcmplt d a b => assemble 0x3C#8 d a.code b.code (a.lits ++ b.lits)
  | .fcmple d a b => assemble 0x3D#8 d a.code b.code (a.lits ++ b.lits)
  | .fcmpun d a b => assemble 0x3E#8 d a.code b.code (a.lits ++ b.lits)
  | .fcmpord d a b => assemble 0x3F#8 d a.code b.code (a.lits ++ b.lits)
  | .pand d a b => assemble 0x40#8 d a b []
  | .por d a b => assemble 0x41#8 d a b []
  | .pxor d a b => assemble 0x42#8 d a b []
  | .pnot d a => assemble 0x43#8 d a 0#8 []
  | .pmov d a => assemble 0x44#8 d a 0#8 []
  | .ptov d a => assemble 0x45#8 d.code a 0#8 []
  | .vtop d a => assemble 0x46#8 d a.code 0#8 a.lits
  | .voteall d a => assemble 0x48#8 d a 0#8 []
  | .voteany d a => assemble 0x49#8 d a 0#8 []
  | .votebal d a => assemble 0x4A#8 d.code a 0#8 []
  | .shfl d a b => assemble 0x4C#8 d.code a.code b.code (a.lits ++ b.lits)
  | .shflup d a b => assemble 0x4D#8 d.code a.code b.code (a.lits ++ b.lits)
  | .shfldn d a b => assemble 0x4E#8 d.code a.code b.code (a.lits ++ b.lits)
  | .shflx d a b => assemble 0x4F#8 d.code a.code b.code (a.lits ++ b.lits)
  | .bcast d a b => assemble 0x50#8 d.code a.code b.code (a.lits ++ b.lits)
  | .movvg d a b => assemble 0x51#8 d.code a.code b.code (a.lits ++ b.lits)
  | .movgv d a b => assemble 0x52#8 d.code a.code b.code (a.lits ++ b.lits)
  | .gredadd d a => assemble 0x54#8 d.code a.code 0#8 a.lits
  | .gredmin d a => assemble 0x55#8 d.code a.code 0#8 a.lits
  | .gredmax d a => assemble 0x56#8 d.code a.code 0#8 a.lits
  | .gscanadd d a b => assemble 0x57#8 d.code a.code b a.lits
  | .gcntgt d a b => assemble 0x58#8 d.code a.code b.code (a.lits ++ b.lits)
  | .gsumgt d a b => assemble 0x59#8 d.code a.code b.code (a.lits ++ b.lits)
  | .gmaxred d a => assemble 0x5A#8 d.code a.code 0#8 a.lits
  | .rng d => assemble 0x5C#8 d.code 0#8 0#8 []
  | .rngf d => assemble 0x5D#8 d.code 0#8 0#8 []
  | .gmask d a b => assemble 0x5E#8 d.code a.code b a.lits
  | .fadd d a b => assemble 0x60#8 d.code a.code b.code (a.lits ++ b.lits)
  | .fsub d a b => assemble 0x61#8 d.code a.code b.code (a.lits ++ b.lits)
  | .fmul d a b => assemble 0x62#8 d.code a.code b.code (a.lits ++ b.lits)
  | .ffma d a b => assemble 0x63#8 d.code a.code b.code (a.lits ++ b.lits)
  | .ffms d a b => assemble 0x64#8 d.code a.code b.code (a.lits ++ b.lits)
  | .fmin d a b => assemble 0x65#8 d.code a.code b.code (a.lits ++ b.lits)
  | .fmax d a b => assemble 0x66#8 d.code a.code b.code (a.lits ++ b.lits)
  | .fabs d a => assemble 0x67#8 d.code a.code 0#8 a.lits
  | .fneg d a => assemble 0x68#8 d.code a.code 0#8 a.lits
  | .fclass d a => assemble 0x69#8 d.code a.code 0#8 a.lits
  | .fscale d a b => assemble 0x6A#8 d.code a.code b.code (a.lits ++ b.lits)
  | .ffract d a => assemble 0x6B#8 d.code a.code 0#8 a.lits
  | .ffloor d a => assemble 0x6C#8 d.code a.code 0#8 a.lits
  | .fround d a => assemble 0x6D#8 d.code a.code 0#8 a.lits
  | .frcp d a => assemble 0x70#8 d.code a.code 0#8 a.lits
  | .frsq d a => assemble 0x71#8 d.code a.code 0#8 a.lits
  | .fsqrt d a => assemble 0x72#8 d.code a.code 0#8 a.lits
  | .fexp2 d a => assemble 0x73#8 d.code a.code 0#8 a.lits
  | .flog2 d a => assemble 0x74#8 d.code a.code 0#8 a.lits
  | .fsin d a => assemble 0x75#8 d.code a.code 0#8 a.lits
  | .fcos d a => assemble 0x76#8 d.code a.code 0#8 a.lits
  | .ftanh d a => assemble 0x77#8 d.code a.code 0#8 a.lits
  | .cvtf d a b => assemble 0x78#8 d.code a.code b a.lits
  | .cvtfi d a b => assemble 0x79#8 d.code a.code b a.lits
  | .cvtif d a b => assemble 0x7A#8 d.code a.code b a.lits
  | .pack d a b => assemble 0x7B#8 d.code a.code b.code (a.lits ++ b.lits)
  | .unpack d a b => assemble 0x7C#8 d.code a.code b a.lits
  | .hadd2 d a b => assemble 0x80#8 d.code a.code b.code (a.lits ++ b.lits)
  | .hmul2 d a b => assemble 0x81#8 d.code a.code b.code (a.lits ++ b.lits)
  | .hfma2 d a b => assemble 0x82#8 d.code a.code b.code (a.lits ++ b.lits)
  | .fdot2 d a b => assemble 0x83#8 d.code a.code b.code (a.lits ++ b.lits)
  | .fdot4 d a b => assemble 0x84#8 d.code a.code b.code (a.lits ++ b.lits)
  | .ld d a b => assemble 0x90#8 d.code a.code b.code (a.lits ++ b.lits)
  | .st d a b => assemble 0x91#8 d.code a.code b.code (d.lits ++ a.lits ++ b.lits)
  | .lda d a b => assemble 0x92#8 d.code a b.code b.lits
  | .stl d a b => assemble 0x93#8 d.code a b.code (d.lits ++ b.lits)
  | .ldr d a b => assemble 0x94#8 d.code a.code b.code (a.lits ++ b.lits)
  | .stc d a b => assemble 0x95#8 d a.code b.code (a.lits ++ b.lits)
  | .ldg d a b => assemble 0x96#8 d.code a.code b.code (a.lits ++ b.lits)
  | .lds d a b => assemble 0x98#8 d.code a.code b.code (a.lits ++ b.lits)
  | .sts d a b => assemble 0x99#8 d.code a.code b.code (d.lits ++ a.lits ++ b.lits)
  | .ldw d a b => assemble 0x9A#8 d.code a.code b a.lits
  | .ldrow d a => assemble 0x9B#8 d.code a.code 0#8 a.lits
  | .pref a b => assemble 0x9C#8 0#8 a.code b a.lits
  | .cctlEvictL1 a => assemble 0x9D#8 0#8 a.code 0#8 a.lits
  | .cctlWriteBack a => assemble 0x9D#8 0#8 a.code 1#8 a.lits
  | .fence a => assemble 0x9E#8 0#8 a 0#8 []
  | .atadd d a b => assemble 0xA0#8 d.code a.code b.code (a.lits ++ b.lits)
  | .atmin d a b => assemble 0xA1#8 d.code a.code b.code (a.lits ++ b.lits)
  | .atmax d a b => assemble 0xA2#8 d.code a.code b.code (a.lits ++ b.lits)
  | .atand d a b => assemble 0xA3#8 d.code a.code b.code (a.lits ++ b.lits)
  | .ator d a b => assemble 0xA4#8 d.code a.code b.code (a.lits ++ b.lits)
  | .atxor d a b => assemble 0xA5#8 d.code a.code b.code (a.lits ++ b.lits)
  | .atxch d a b => assemble 0xA6#8 d.code a.code b.code (a.lits ++ b.lits)
  | .atcas d a b => assemble 0xA7#8 d.code a.code b.code (a.lits ++ b.lits)
  | .redadd a b => assemble 0xA8#8 0#8 a.code b.code (a.lits ++ b.lits)
  | .redmin a b => assemble 0xA9#8 0#8 a.code b.code (a.lits ++ b.lits)
  | .redmax a b => assemble 0xAA#8 0#8 a.code b.code (a.lits ++ b.lits)
  | .redand a b => assemble 0xAB#8 0#8 a.code b.code (a.lits ++ b.lits)
  | .redor a b => assemble 0xAC#8 0#8 a.code b.code (a.lits ++ b.lits)
  | .redxor a b => assemble 0xAD#8 0#8 a.code b.code (a.lits ++ b.lits)
  | .vradd d a b => assemble 0xAE#8 d.code a.code b a.lits
  | .vrmax d a b => assemble 0xAF#8 d.code a.code b a.lits
  | .acpy d a b => assemble 0xB0#8 d a b []
  | .acpys d a b => assemble 0xB1#8 d a b []
  | .agath d a b => assemble 0xB2#8 d a b.code b.lits
  | .ascat d a b => assemble 0xB3#8 d a b.code b.lits
  | .rput d a b => assemble 0xB4#8 d a b []
  | .rget d a b => assemble 0xB5#8 d a b []
  | .ratom d a b => assemble 0xB6#8 d a b []
  | .aqfence d a => assemble 0xB7#8 d a 0#8 []
  | .waitc d a => assemble 0xB8#8 d a.code 0#8 a.lits
  | .wsig d a b => assemble 0xB9#8 d a b []
  | .sigadd d a b => assemble 0xBA#8 d a b []
  | .sigwait d a b => assemble 0xBB#8 d a.code b.code (a.lits ++ b.lits)
  | .tset d a => assemble 0xC0#8 d a.code 0#8 a.lits
  | .tget d a => assemble 0xC1#8 d.code a 0#8 []
  | .tldsc d a b => assemble 0xC2#8 d.code a b.code b.lits
  | .tstsc d a b => assemble 0xC3#8 d.code a b.code (d.lits ++ b.lits)
  | .mma d a b => assemble 0xC4#8 d a b.code b.lits
  | .mma2 d a b => assemble 0xC5#8 d a b.code b.lits
  | .mmat d a b => assemble 0xC6#8 d a b.code b.lits
  | .ttrans d a => assemble 0xC7#8 d a 0#8 []
  | .tperm d a b => assemble 0xC8#8 d a b.code b.lits
  | .trsum d a b => assemble 0xC9#8 d a b []
  | .aclr d b => assemble 0xCA#8 d 0#8 b []
  | .ald d a b => assemble 0xCB#8 d a b []
  | .ast d a b => assemble 0xCC#8 d a b []
  | .ard d a b => assemble 0xCD#8 d.code a b.code b.lits
  | .awr d a b => assemble 0xCE#8 d a.code b.code (a.lits ++ b.lits)
  | .adrain d a b => assemble 0xCF#8 d a b []
  | .acqa d a b => assemble 0xD0#8 d a.code b []
  | .rela d b => assemble 0xD1#8 d 0#8 b []
  | .sxopen d a b => assemble 0xD8#8 d.code a.code b a.lits
  | .sxappend d a b => assemble 0xD9#8 d a.code b.code (a.lits ++ b.lits)
  | .sxmatch d a b => assemble 0xDA#8 d.code a.code b.code a.lits
  | .sxstat d b => assemble 0xDB#8 d.code 0#8 b []
  | .sxsave a => assemble 0xDC#8 0#8 a.code 0#8 a.lits
  | .sxload d a => assemble 0xDD#8 d.code a.code 0#8 a.lits
  | .sxclose b => assemble 0xDE#8 0#8 0#8 b []
  | .sxdepth d a => assemble 0xDF#8 d.code a.code 0#8 a.lits
  | .rsenter => assemble 0xE0#8 0#8 0#8 0#8 []
  | .rsleave => assemble 0xE1#8 0#8 0#8 0#8 []
  | .publish d a => assemble 0xE2#8 d.code a.code 0#8 (d.lits ++ a.lits)
  | .retire d a => assemble 0xE3#8 d.code a 0#8 []
  | .gpwait a => assemble 0xE4#8 0#8 a.code 0#8 a.lits
  | .gpstat d b => assemble 0xE5#8 d.code 0#8 b []
  | .bararr b => assemble 0xE8#8 0#8 0#8 b []
  | .barwait b => assemble 0xE9#8 0#8 0#8 b []
  | .barsync b => assemble 0xEA#8 0#8 0#8 b []
  | .pbarr a b => assemble 0xEB#8 0#8 a.code b a.lits
  | .pbwait a b => assemble 0xEC#8 0#8 a.code b.code (a.lits ++ b.lits)
  | .evroute d a b => assemble 0xED#8 d a b []
  | .evpost b => assemble 0xEE#8 0#8 0#8 b []
  | .evwait b => assemble 0xEF#8 0#8 0#8 b []
  | .eret a => assemble 0xF0#8 0#8 a.code 0#8 a.lits
  | .tlbinv a b => assemble 0xF1#8 0#8 a.code b a.lits
  | .ctxst d a b => assemble 0xF2#8 d.code a.code b.code (a.lits ++ b.lits)
  | .ctxld d a => assemble 0xF3#8 d.code a.code 0#8 a.lits
  | .haltcWaitTrapLine => assemble 0xF4#8 0#8 0#8 0#8 []
  | .haltcHaltCrews => assemble 0xF4#8 0#8 0#8 1#8 []
  | .haltcResumeCrews => assemble 0xF4#8 0#8 0#8 2#8 []
  | .slotcfgResume a => assemble 0xF5#8 0#8 a.code 0#8 a.lits
  | .slotcfgSkipResume a => assemble 0xF5#8 0#8 a.code 1#8 a.lits
  | .slotcfgKill a => assemble 0xF5#8 0#8 a.code 2#8 a.lits
  | .slotcfgRingBase a => assemble 0xF5#8 0#8 a.code 3#8 a.lits
  | .slotcfgTrapVector a => assemble 0xF5#8 0#8 a.code 4#8 a.lits
  | .slotcfgStopCrew a => assemble 0xF5#8 0#8 a.code 5#8 a.lits
  | .illegalInstruction w => [w]
  | .illegalOperand w lits => w :: lits
  | .fairnessSwitch => []
  | .gangSlotRetire => []
  | .scratchpadCleared => []
  | .binTimerExpire => []
  | .fillLaunch => []
  | .gangReady => []
  | .blockFetch => []
  | .translationWalk => []
  | .loadComplete => []
  | .atomicReturn => []
  | .fillRequest => []
  | .storeArrival => []
  | .homeOperationArrival => []
  | .evictionNotice => []
  | .cctlRequestArrival => []
  | .updateAckArrival => []
  | .l2VictimSelection => []
  | .writeBackComplete => []
  | .lineFetchReturn => []
  | .fillData => []
  | .update => []
  | .invalidate => []
  | .ackD => []
  | .ackP => []
  | .cctlAck => []
  | .versionNoticeArrival => []
  | .asyncCommandStart => []
  | .asyncCommandComplete => []
  | .engineFaultResume => []
  | .asyncTrap => []
  | .trapRecordWrite => []
  | .passGrant => []
  | .passComplete => []
  | .trellisArrival => []
  | .trellisComplete => []
  | .retireArrival => []
  | .flipArrival => []
  | .leafQuietReport => []
  | .aggregatorQuietArrival => []
  | .gracePeriodEnd => []
  | .entryFree => []
  | .freedArrival => []
  | .parkRequestArrival => []
  | .parkAckArrival => []
  | .holdDecrementArrival => []
  | .staleReadIncrement => []
  | .gpstatServe => []
  | .chorePulseArrival => []
  | .waitConditionMet => []
  | .doorbell => []
  | .queueMap => []
  | .queueUnmap => []
  | .launchPacket => []
  | .graphPacket => []
  | .waitPacket => []
  | .signalPacket => []
  | .copyPacket => []
  | .indirectPacket => []
  | .fencePacket => []
  | .signalUnitRead => []
  | .crewOffer => []
  | .gridRetire => []
  | .packetComplete => []
  | .kernelNode => []
  | .copyNode => []
  | .signalNode => []
  | .waitNode => []
  | .tailNode => []
  | .loopNode => []
  | .loopIterationEnd => []
  | .budgetWindowEnd => []
  | .totalsArrival => []
  | .sensorSample => []
  | .containment => []
  | .containmentNotice => []
  | .containmentComplete => []
  | .resetRelease => []
  | .stage1 => []
  | .stage2 => []
  | .hostLinkTraining => []
  | .registerWrite => []
  | .flack => []
  | .biasToHost => []
  | .biasToDevice => []
  | .biasFlipLine => []
  | .attestationReport => []
  | .handoverRequest => []
  | .mgmtReadRegister => []
  | .mgmtWriteRegister => []
  | .claimChore => []
  | .postChore => []
  | .switch => []
  | .mgmtInvalidOp => []
  | .hostRead => []
  | .hostWrite => []
  | .hostCxlMemRequest => []
  | .snpData => []
  | .snpInv => []
  | .hostGrant => []
  | .goWritepull => []
  | .bisnpResponse => []
  | .flitReceive => []
  | .remotePutArrival => []
  | .remoteGetArrival => []
  | .remoteAtomicArrival => []
  | .remoteSignalAddArrival => []
  | .remoteResponseArrival => []
  | .accumulatorManagementComplete => []
  | .mailboxRequestComplete => []
  | .portDown => []

end Sys2Proof
end

