-- ==== Sys2Proof/Machine/Numeric.lean ====
section
/-! DEFINITION. Number formats, rounding and exact values (R47 to R60, R71). A real result is held exactly, or between two
neighbours of a fine grid (sticky) when it is irrational; RoundTo is the one place where precision is lost. -/

namespace Sys2Proof.Machine

/-- NSTAT flags (R39). -/
abbrev Flags := BitVec 32
def flagNV : Flags := 0x01#32
def flagDZ : Flags := 0x02#32
def flagOF : Flags := 0x04#32
def flagUF : Flags := 0x08#32
def flagNX : Flags := 0x10#32
def flagSCOVF : Flags := 0x20#32
def flagSATF : Flags := 0x40#32

/-- A value an element can take: the magnitude of fin is mag·2^e, plus less than one unit of mag when sticky. -/
inductive FVal where
  | nan (sig : Bool)
  | inf (neg : Bool)
  | zero (neg : Bool)
  | fin (neg : Bool) (mag : Nat) (e : Int) (sticky : Bool)
deriving DecidableEq, Repr

/-- A binary floating-point format (R49): exponent and fraction widths, bias, and whether it has infinities. -/
structure Fmt where
  eb : Nat
  fb : Nat
  bias : Nat
  hasInf : Bool
deriving DecidableEq, Repr

def fmtFP32 : Fmt := ⟨8, 23, 127, true⟩
def fmtFP16 : Fmt := ⟨5, 10, 15, true⟩
def fmtBF16 : Fmt := ⟨8, 7, 127, true⟩
def fmtE4 : Fmt := ⟨4, 3, 7, false⟩
def fmtE5 : Fmt := ⟨5, 2, 15, true⟩

/-- The float format of an ETYPE code (R30, R49). -/
def fmtOf (etype : Nat) : Option Fmt :=
  match etype with
  | 7 => some fmtE4
  | 8 => some fmtE5
  | 10 => some fmtBF16
  | 11 => some fmtFP16
  | 12 => some fmtFP32
  | _ => none

/-- Exponent of the unit of the smallest subnormal. -/
def Fmt.qmin (f : Fmt) : Int := 1 - (f.bias : Int) - (f.fb : Int)

/-- Bit pattern of the largest finite magnitude (R49). -/
def Fmt.maxBits (f : Fmt) : Nat :=
  if f.hasInf then (2 ^ f.eb - 1) * 2 ^ f.fb - 1 else 2 ^ (f.eb + f.fb) - 2

/-- Bit pattern of plus infinity, or of the canonical NaN where the format has none (R53). -/
def Fmt.infBits (f : Fmt) : Nat :=
  if f.hasInf then (2 ^ f.eb - 1) * 2 ^ f.fb else 2 ^ (f.eb + f.fb) - 1

/-- The canonical NaN (R50). -/
def Fmt.nanBits (f : Fmt) : Nat :=
  if f.hasInf then (2 ^ f.eb - 1) * 2 ^ f.fb + 2 ^ (f.fb - 1) else 2 ^ (f.eb + f.fb) - 1

/-- Width of the format in bits. -/
def Fmt.width (f : Fmt) : Nat := 1 + f.eb + f.fb

/-- Adds the sign bit to a magnitude pattern. -/
def Fmt.signed (f : Fmt) (neg : Bool) (bits : Nat) : Nat := if neg then bits + 2 ^ (f.eb + f.fb) else bits

/-- ElementValue of a float pattern (R49, R50, R71). -/
def Fmt.value (f : Fmt) (bits : Nat) : FVal :=
  let neg := bits / 2 ^ (f.eb + f.fb) % 2 = 1
  let ex := bits / 2 ^ f.fb % 2 ^ f.eb
  let fr := bits % 2 ^ f.fb
  if f.hasInf ∧ ex = 2 ^ f.eb - 1 then
    if fr = 0 then .inf neg else .nan (fr < 2 ^ (f.fb - 1))
  else if ¬ f.hasInf ∧ ex = 2 ^ f.eb - 1 ∧ fr = 2 ^ f.fb - 1 then .nan false
  else if ex = 0 then
    if fr = 0 then .zero neg else .fin neg fr f.qmin false
  else .fin neg (2 ^ f.fb + fr) (f.qmin + (ex - 1 : Int)) false

/-- 2 to an integer power, for non-negative powers. -/
def pow2 (e : Int) : Nat := 2 ^ e.toNat

/-- The larger of two integers. -/
def imax (a b : Int) : Int := if a < b then b else a

/-- R53 step 1: the magnitude on the grid whose unit is 2^q, given the rounding code (0 RNE, 1 RTZ, 2 RUP, 3 RDN, 4 RNA);
answers the rounded count and whether it is inexact. -/
def roundMag (rnd : Nat) (neg : Bool) (mag : Nat) (e : Int) (sticky : Bool) (q : Int) : Nat × Bool :=
  let s := q - e
  if s ≤ 0 then (mag * pow2 (-s) + (if sticky ∧ ((rnd = 2 ∧ ¬ neg) ∨ (rnd = 3 ∧ neg)) then 1 else 0), sticky)
  else
    let u := pow2 s
    let m := mag / u
    let r := mag % u
    let inexact := r ≠ 0 ∨ sticky
    let twice := 2 * r
    let above := twice > u ∨ (twice = u ∧ sticky)
    let tie := twice = u ∧ ¬ sticky
    let up :=
      match rnd with
      | 1 => false
      | 2 => decide inexact && !neg
      | 3 => decide inexact && neg
      | 4 => decide (above ∨ tie)
      | _ => decide (above ∨ (tie ∧ m % 2 = 1))
    (if up then m + 1 else m, inexact)

/-- R55: the stochastic choice between the two neighbours, with the w-bit slice u. -/
def roundMagSR (wbits u : Nat) (neg : Bool) (mag : Nat) (e : Int) (q : Int) : Nat × Bool :=
  let s := q - e
  if s ≤ 0 then (mag * pow2 (-s), false)
  else
    let un := pow2 s
    let m := mag / un
    let r := mag % un
    if r = 0 then (m, false)
    else if neg then
      let t := 2 ^ wbits * (un - r) / un
      (if u < t then m else m + 1, true)
    else
      let t := 2 ^ wbits * r / un
      (if u < t then m + 1 else m, true)

/-- How a conversion rounds: a code of R30, or SR with its slice (R55). -/
inductive Rnd where
  | mode (code : Nat)
  | sr (wbits u : Nat)
deriving DecidableEq, Repr

/-- The mode that decides an overflow: SR as RNE (R55). -/
def Rnd.code : Rnd → Nat
  | .mode c => if c = 5 then 0 else c
  | .sr _ _ => 0

/-- R53 step 2: the overflow result. -/
def Fmt.overflow (f : Fmt) (neg : Bool) (rnd : Nat) (sat : Bool) : Nat × Flags :=
  if sat then (f.signed neg f.maxBits, flagSATF ||| flagNX)
  else
    let toInf := match rnd with
      | 1 => false
      | 2 => !neg
      | 3 => neg
      | _ => true
    if toInf then (if f.hasInf then f.signed neg f.infBits else f.nanBits, flagOF ||| flagNX)
    else (f.signed neg f.maxBits, flagOF ||| flagNX)

/-- RoundTo (R53, R55): the pattern and the flags. A NaN gives the canonical NaN; a signalling one sets NV. -/
def roundTo (f : Fmt) (x : FVal) (rnd : Rnd) (sat : Bool) : Nat × Flags :=
  match x with
  | .nan sig => (f.nanBits, if sig then flagNV else 0)
  | .zero neg => (f.signed neg 0, 0)
  | .inf neg =>
    if sat ∨ ¬ f.hasInf then f.overflow neg rnd.code sat else (f.signed neg f.infBits, 0)
  | .fin neg mag e sticky =>
    let q := imax (e + (Nat.log2 mag : Int) - (f.fb : Int)) f.qmin
    let (m, inexact) := match rnd with
      | .mode c => roundMag (if c = 5 then 0 else c) neg mag e sticky q
      | .sr wb u => roundMagSR wb u neg mag e q
    let bits := (q - f.qmin).toNat * 2 ^ f.fb + m
    if m ≠ 0 ∧ bits > f.maxBits then f.overflow neg rnd.code sat
    else if m = 0 then (f.signed neg 0, if inexact then flagNX ||| flagUF else 0)
    else (f.signed neg bits,
      (if inexact then flagNX else 0) ||| (if inexact ∧ bits < 2 ^ f.fb then flagUF else 0))

/-- RoundToFP32 (R53). (log 18, DEDUCED) -/
def roundToFP32 (x : FVal) (rnd : Nat) : Nat × Flags := roundTo fmtFP32 x (.mode rnd) false

/-! ### Exact arithmetic (R9, R50, R136) -/

/-- The exact value of an integer. -/
def FVal.ofInt (n : Int) : FVal := if n = 0 then .zero false else .fin (n < 0) n.natAbs 0 false

/-- A signalling NaN. -/
def FVal.isSig : FVal → Bool
  | .nan s => s
  | _ => false

def FVal.isNan : FVal → Bool
  | .nan _ => true
  | _ => false

/-- The value with its sign inverted. -/
def FVal.neg : FVal → FVal
  | .nan s => .nan s
  | .inf n => .inf !n
  | .zero n => .zero !n
  | .fin n m e s => .fin (!n) m e s

/-- The exact product, and whether it is the invalid 0 × ∞ (R136). -/
def FVal.mul (a b : FVal) : FVal × Bool :=
  match a, b with
  | .nan s, .nan t => (.nan (s || t), false)
  | .nan s, _ => (.nan s, false)
  | _, .nan s => (.nan s, false)
  | .inf _, .zero _ => (.nan false, true)
  | .zero _, .inf _ => (.nan false, true)
  | .inf n, .inf m => (.inf (n != m), false)
  | .inf n, .fin m _ _ _ => (.inf (n != m), false)
  | .fin n _ _ _, .inf m => (.inf (n != m), false)
  | .zero n, .zero m => (.zero (n != m), false)
  | .zero n, .fin m _ _ _ => (.zero (n != m), false)
  | .fin n _ _ _, .zero m => (.zero (n != m), false)
  | .fin n x e s, .fin m y g t => (.fin (n != m) (x * y) (e + g) (s || t), false)

/-- The exponent of a finite term, for aligning a sum. -/
def FVal.expo : FVal → Option Int
  | .fin _ _ e _ => some e
  | _ => none

/-- The smallest exponent of a list of terms. -/
def minExpo : List FVal → Int → Int
  | [], e => e
  | x :: rest, e => minExpo rest (match x.expo with | some g => if g < e then g else e | none => e)

/-- A finite term as an integer count of 2^e. -/
def FVal.scaled (e : Int) : FVal → Int
  | .fin n m g _ => let k : Nat := m * pow2 (g - e); if n then -(k : Int) else k
  | _ => 0

/-- The exact sum of terms (R50, R67, R136): the value, and whether it met +∞ and −∞ together, beside a NaN as well. rnd decides
the sign of an exact zero. -/
def sumV (rnd : Nat) (xs : List FVal) : FVal × Bool :=
  let pos := xs.any (fun x => x = .inf false)
  let neg := xs.any (fun x => x = .inf true)
  if xs.any (·.isNan) then (.nan (xs.any (·.isSig)), pos && neg)
  else
    if pos ∧ neg then (.nan false, true)
    else if pos then (.inf false, false)
    else if neg then (.inf true, false)
    else
      let e := minExpo xs 0
      let t := xs.foldl (fun (acc : Int) x => acc + x.scaled e) 0
      if t = 0 then
        if xs.all (fun x => x = .zero true) ∧ xs ≠ [] then (.zero true, false)
        else if xs.all (fun x => x = .zero false) then (.zero false, false)
        else (.zero (rnd = 3), false)
      else (.fin (t < 0) t.natAbs e false, false)

/-- Exact comparison of two values that are not NaN; −0 equals +0. -/
def FVal.cmp (a b : FVal) : Ordering :=
  let rank : FVal → Int := fun x => match x with
    | .inf true => -2
    | .inf false => 2
    | .zero _ => 0
    | .fin true _ _ _ => -1
    | .fin false _ _ _ => 1
    | .nan _ => 0
  let ra := rank a
  let rb := rank b
  if ra < rb then .lt
  else if rb < ra then .gt
  else
    let e := minExpo [a, b] 0
    let x := a.scaled e
    let y := b.scaled e
    if x < y then .lt else if y < x then .gt else .eq

/-- The order of R138: as cmp, with −0 below +0. -/
def FVal.cmpZ (a b : FVal) : Ordering :=
  match a, b with
  | .zero true, .zero false => .lt
  | .zero false, .zero true => .gt
  | _, _ => a.cmp b

/-! ### Integers (R47, R48, R100) -/

/-- The integer view of an ETYPE (R99): width and signedness. -/
def intView (etype : Nat) : Nat × Bool :=
  match etype with
  | 0 => (8, true)
  | 1 => (8, false)
  | 2 => (16, true)
  | 3 => (16, false)
  | 4 => (32, true)
  | 5 => (32, false)
  | 6 => (64, true)
  | _ => (32, true)

/-- The low w bits of an unsigned pattern, read under a view. -/
def readInt (w : Nat) (signed : Bool) (bits : Nat) : Int :=
  let b := bits % 2 ^ w
  if signed ∧ b ≥ 2 ^ (w - 1) then (b : Int) - (2 ^ w : Nat) else b

/-- The ends of the range of a view (R47). -/
def intLo (w : Nat) (signed : Bool) : Int := if signed then -((2 ^ (w - 1) : Nat) : Int) else 0
def intHi (w : Nat) (signed : Bool) : Int := if signed then ((2 ^ (w - 1) : Nat) : Int) - 1 else ((2 ^ w : Nat) : Int) - 1

/-- The element of an exact integer modulo 2^w. -/
def wrapBits (w : Nat) (x : Int) : Nat := (x % ((2 ^ w : Nat) : Int)).toNat

/-- R48: an element as it stands in a register word or pair: sign-filled for a signed view, else zero-filled. -/
def fillBits (w : Nat) (signed : Bool) (bits : Nat) : Nat :=
  let full := if w = 64 then 64 else 32
  wrapBits full (readInt w signed bits)

/-- IntResult (R100): the filled element and its flag. -/
def intResult (x : Int) (w : Nat) (signed sat : Bool) : Nat × Flags :=
  if intLo w signed ≤ x ∧ x ≤ intHi w signed then (fillBits w signed (wrapBits w x), 0)
  else if sat then
    (fillBits w signed (wrapBits w (if x < intLo w signed then intLo w signed else intHi w signed)), flagSATF)
  else (fillBits w signed (wrapBits w x), 0)

/-- Rounds an exact value to an integer (R58): the integer and whether it is inexact. -/
def roundToInt (neg : Bool) (mag : Nat) (e : Int) (rnd : Rnd) : Int × Bool :=
  let (m, inexact) := match rnd with
    | .mode c => roundMag (if c = 5 then 0 else c) neg mag e false 0
    | .sr wb u => roundMagSR wb u neg mag e 0
  (if neg then -(m : Int) else m, inexact)

/-! ### DP8 (R51, R52, R59) -/

/-- The value of a DP8 code in units of 2^-6. -/
def dp8Units (code : Nat) : Int :=
  let term := fun (s a : Nat) => if a = 7 then (0 : Int) else (if s = 1 then -1 else 1) * ((2 ^ (6 - a) : Nat) : Int)
  term (code / 128 % 2) (code / 16 % 8) + term (code / 8 % 2) (code % 8)

/-- The codes in the order of preference of R51: zero, single powers, ±2, sums, differences. -/
def dp8Codes : List Nat :=
  let as := List.range 7
  [0x77] ++ (as.flatMap fun a => [16 * a + 7, 128 + 16 * a + 7]) ++ [0x00, 0x88]
    ++ (as.flatMap fun a => as.flatMap fun b => if a < b then [16 * a + b, 128 + 16 * a + 8 + b] else [])
    ++ (as.flatMap fun a => as.flatMap fun b => if a < b then [16 * a + 8 + b, 128 + 16 * a + b] else [])

/-- The canonical encoding of a value in units of 2^-6 (R51). -/
def dp8Encode (u : Int) : Nat := (dp8Codes.find? (fun c => dp8Units c = u)).getD 0x77

/-- The exact value of a DP8 code. -/
def dp8Value (code : Nat) : FVal :=
  let u := dp8Units code
  if u = 0 then .zero false else .fin (u < 0) u.natAbs (-6) false

/-- Largest DP8 value at or below, and smallest at or above, the exact value n/d in units of 2^-6 (d positive). -/
def dp8Neighbours (n : Int) (d : Nat) : Int × Int :=
  dp8Codes.foldl (fun (p : Int × Int) c =>
    let u := dp8Units c
    (if u * d ≤ n ∧ p.1 < u then u else p.1, if n ≤ u * d ∧ u < p.2 then u else p.2)) (-128, 128)

/-- RoundToDP8 (R59). -/
def roundToDP8 (x : FVal) (rnd : Rnd) (sat : Bool) : Nat × Flags :=
  let big := fun (neg : Bool) => ((if neg then 0x88 else 0x00), flagNX ||| (if sat then flagSATF else flagOF))
  match x with
  | .nan _ => (0x77, flagNV)
  | .inf neg => big neg
  | .zero _ => (0x77, 0)
  | .fin neg mag e _ =>
    -- |x| in units of 2^-6 is num/den
    let num := mag * pow2 (e + 6)
    let den := pow2 (-(e + 6))
    if num > 128 * den then big neg
    else
      let n : Int := if neg then -(num : Int) else num
      let (lo, hi) := dp8Neighbours n den
      if lo = hi then (dp8Encode lo, 0)
      else
        let toLo : Int := n - lo * den
        let toHi : Int := hi * den - n
        let pick : Int := match rnd with
          | .sr wb u => if (u : Int) < (2 ^ wb : Nat) * toLo / ((hi - lo) * den) then hi else lo
          | .mode 1 => if neg then hi else lo
          | .mode 2 => hi
          | .mode 3 => lo
          | .mode c =>
            if toLo < toHi then lo else if toHi < toLo then hi
            else if c = 4 then (if lo.natAbs < hi.natAbs then hi else lo)
            else (if lo.natAbs < hi.natAbs then lo else hi)
        (dp8Encode pick, flagNX ||| (if num < den then flagUF else 0))

/-! ### Elements (R71) -/

/-- Width in bits of an element of an ETYPE (R107, with BITS as 32). -/
def elemBits (etype : Nat) : Nat :=
  match etype with
  | 0 | 1 | 7 | 8 | 9 => 8
  | 2 | 3 | 10 | 11 => 16
  | 6 => 64
  | _ => 32

/-- Size in bytes of an element (R107). -/
def elemSize (etype : Nat) : Nat := elemBits etype / 8

/-- ElementValue (R71): the exact value of a stored element. -/
def elementValue (etype bits : Nat) : FVal :=
  let b := bits % 2 ^ elemBits etype
  match fmtOf etype with
  | some f => f.value b
  | none => if etype = 9 then dp8Value b else let (w, sg) := intView etype; .ofInt (readInt w sg b)

/-- An exact value converted to an element of a type (R58, R59): pattern, filled under R48, and flags. -/
def convertTo (etype : Nat) (x : FVal) (rnd : Rnd) (sat : Bool) : Nat × Flags :=
  match fmtOf etype with
  | some f => roundTo f x rnd sat
  | none =>
    if etype = 9 then roundToDP8 x rnd sat
    else
      let (w, sg) := intView etype
      let out := fun (i : Int) (fl : Flags) => (fillBits w sg (wrapBits w i), fl)
      match x with
      | .nan _ => out 0 flagNV
      | .zero _ => out 0 0
      | .inf neg => out (if neg then intLo w sg else intHi w sg) (if sat then flagSATF else flagNV)
      | .fin neg mag e _ =>
        let (i, inexact) := roundToInt neg mag e rnd
        let nx : Flags := if inexact then flagNX else 0
        if intLo w sg ≤ i ∧ i ≤ intHi w sg then out i nx
        else
          let frac := (roundMag 1 neg mag e false 0).2
          out (if i < intLo w sg then intLo w sg else intHi w sg)
            ((if sat then flagSATF else flagNV) ||| (if frac then flagNX else 0))

/-! ### The generator (R56) -/

/-- RandWord (R56). -/
def randWord (key wid : BitVec 64) (c : BitVec 32) : BitVec 64 :=
  let x0 := (wid ^^^ key) + (c.setWidth 64) * 0x9E3779B97F4A7C15#64
  let round := fun (x : BitVec 64) => (x ^^^ (x >>> 31)) * 0xA3B195E6D1C74F2B#64
  let x3 := round (round (round x0))
  x3 ^^^ (x3 >>> 29)

/-! ### CRC-32C (R388) -/

/-- One bit of the reflected CRC-32C of polynomial 0x1EDC_6F41. -/
def crcStep (c : BitVec 32) : BitVec 32 := if c.getLsbD 0 then (c >>> 1) ^^^ 0x82F63B78#32 else c >>> 1

/-- One byte of the CRC. -/
def crcByte (c : BitVec 32) (b : BitVec 8) : BitVec 32 :=
  let x := c ^^^ b.setWidth 32
  crcStep (crcStep (crcStep (crcStep (crcStep (crcStep (crcStep (crcStep x)))))))

/-- CRC-32C of bytes in order (R388). -/
def crc32c (bs : List (BitVec 8)) : BitVec 32 := (bs.foldl crcByte 0xFFFFFFFF#32) ^^^ 0xFFFFFFFF#32

end Sys2Proof.Machine
end

