-- ==== Sys2Proof/Config.lean ====
section
/-! DEFINITION. What the manual names and gives no value of: constants without a body, so that nothing can be proved of
the values they take. Each is named in the assumption log. -/

namespace Sys2Proof.Config

/-- SHAKE256 to n bytes (R378, R387): the manual names the function and does not define it. (log 9, DESIGN CHOICE) -/
opaque shake256 : Nat → List (BitVec 8) → List (BitVec 8)

/-- Ed448 verification of an image against the fused key hash (R378, R383). (log 9, DESIGN CHOICE) -/
opaque ed448Accepts : List (BitVec 8) → Bool

/-- The Ed448 public key of a 57-byte seed (R387). (log 9, DESIGN CHOICE) -/
opaque ed448Public : List (BitVec 8) → List (BitVec 8)

/-- The Ed448 signature of a message under a seed (R387). (log 9, DESIGN CHOICE) -/
opaque ed448Sign : List (BitVec 8) → List (BitVec 8) → List (BitVec 8)

/-- The fused device secret (R387). (log 9, DESIGN CHOICE) -/
opaque deviceSecret : List (BitVec 8)

/-- The bytes of the boot ROM (R378). (log 9, DESIGN CHOICE) -/
opaque bootRom : List (BitVec 8)

/-- The port hash of R372, which the manual does not define: the weight of a port for a node, core and queue.
(log 10, DESIGN CHOICE) -/
opaque portHash : Nat → Nat → Nat → Nat → Nat

/-- The forward error correction of R370, which the manual does not define: the flit corrected, or none.
(log 11, DESIGN CHOICE) -/
opaque fecCorrect : List (BitVec 8) → Option (List (BitVec 8))

/-- The Glasshouse refresh phase at clock 0 of a die (R40 ties it to no event). (log 12, DESIGN CHOICE) -/
opaque ghPhase : Nat → Nat

/-- The block offset from its code base at which an Arbor image starts (R44, R378): the manual gives the image no layout.
(log 13, DESIGN CHOICE) -/
opaque arborEntry : List (BitVec 8) → Nat

/-- The version an Arbor image carries (R387). (log 13, DESIGN CHOICE) -/
opaque arborVersion : List (BitVec 8) → BitVec 32

/-- The kind of a chore that the hardware posts, bytes 0 and 1 of its entry (R382): the manual lists the reasons, which the argument
numbers, and gives no codes for them. (log 14, DESIGN CHOICE) -/
opaque choreKind : Nat → BitVec 16

/-- The arguments of such a chore, bytes 8 to 23: the list names what it concerns. (log 14, DESIGN CHOICE) -/
opaque choreArgs : Nat → List Nat → BitVec 128

/-- Bytes 2 to 7 of such an entry, of which R382 says nothing. (log 14, DESIGN CHOICE) -/
opaque choreRest : Nat → List Nat → BitVec 48

/-- The acknowledged sequence that a flit carries in its bytes 224 to 235 (R370 gives no places within them).
(log 11, DESIGN CHOICE) -/
opaque flitAck : List (BitVec 8) → Nat

/-- The XOFF bits that a flit carries in its bytes 224 to 235, one for each virtual lane. (log 11, DESIGN CHOICE) -/
opaque flitXoff : List (BitVec 8) → BitVec 8

/-- A flit asks for what has not been acknowledged to be sent again (R370 gives the request no place). (log 11, DESIGN CHOICE) -/
opaque flitNak : List (BitVec 8) → Bool

/-- Bytes 224 to 235 of a flit to be sent: the sequence acknowledged, the XOFF bits, and whether a flit is asked for again.
(log 11, DESIGN CHOICE) -/
opaque flitControl : Nat → BitVec 8 → Bool → BitVec 96

/-- The FEC parity of the bytes before it (R370). (log 11, DESIGN CHOICE) -/
opaque fecParity : List (BitVec 8) → BitVec 128

/-- The kind of a flit of a virtual lane (R370 gives no codes). (log 11, DESIGN CHOICE) -/
opaque flitKind : Nat → BitVec 5

/-- How many flits a packet takes, by the numbers in its header and its data, and byte j of the payload of its flit i
(R370: packet headers and data). (log 11, DESIGN CHOICE) -/
opaque packetFlits : List Nat → List (BitVec 8) → Nat
opaque packetByte : List Nat → List (BitVec 8) → Nat → Nat → BitVec 8

/-- The node that the payload of a flit forwarded for another module is meant for (R371). (log 11, DESIGN CHOICE) -/
opaque forwardNode : List (BitVec 8) → Nat

end Sys2Proof.Config
end

