-- ==== Sys2Proof/Machine/Maps.lean ====
section
/-! DEFINITION. Finite maps as plain data: a list of (key, value) pairs with strictly rising keys. With a default value
the list holds no entry equal to the default, so that equal maps are equal lists. Memory, register files and the tables
of the package are all held this way. -/

namespace Sys2Proof.Machine

/-- A finite map from Nat keys, as a list with strictly rising keys. -/
abbrev SMap (α : Type) := List (Nat × α)

/-- The value listed at a key. -/
def mfind {α : Type} : SMap α → Nat → Option α
  | [], _ => none
  | (k, v) :: rest, i => if k = i then some v else if i < k then none else mfind rest i

/-- Lists a value at a key, in its place. -/
def minsert {α : Type} : SMap α → Nat → α → SMap α
  | [], i, x => [(i, x)]
  | (k, v) :: rest, i, x =>
    if i < k then (i, x) :: (k, v) :: rest
    else if i = k then (i, x) :: rest
    else (k, v) :: minsert rest i x

/-- Removes a key. -/
def merase {α : Type} : SMap α → Nat → SMap α
  | [], _ => []
  | (k, v) :: rest, i => if k = i then rest else if i < k then (k, v) :: rest else (k, v) :: merase rest i

/-- Reads a key; an unlisted key reads as the default d. -/
def mget {α : Type} (d : α) (m : SMap α) (i : Nat) : α := (mfind m i).getD d

/-- Writes a key in canonical form: the default value is never listed. -/
def mput {α : Type} [DecidableEq α] (d : α) (m : SMap α) (i : Nat) (x : α) : SMap α :=
  if x = d then merase m i else minsert m i x

/-- The part of a map from a key on. -/
def mfrom {α : Type} (m : SMap α) (i : Nat) : SMap α := m.dropWhile (fun e => e.1 < i)

/-- The values of n keys from a first one on. -/
def mrange {α : Type} (d : α) (m : SMap α) (i n : Nat) : List α :=
  let rest := mfrom m i
  (List.range n).map (fun j => mget d rest (i + j))

/-- Every key of m is above i. -/
def mabove {α : Type} (i : Nat) : SMap α → Bool
  | [] => true
  | (k, _) :: _ => decide (i < k)

/-- Keys rise strictly. -/
def msorted {α : Type} : SMap α → Bool
  | [] => true
  | (k, _) :: rest => mabove k rest && msorted rest

/-- The canonical form: keys rise strictly and no entry holds the default. -/
def mcanon {α : Type} [DecidableEq α] (d : α) (m : SMap α) : Bool :=
  msorted m && m.all (fun e => decide (e.2 ≠ d))

/-- Writes one key after another. -/
def mputs {α : Type} [DecidableEq α] (d : α) (m : SMap α) : List (Nat × α) → SMap α
  | [] => m
  | (k, x) :: rest => mputs d (mput d m k x) rest

/-- The keys of a map. -/
def mkeys {α : Type} (m : SMap α) : List Nat := m.map (·.1)

/-- The element at a position of a list, removed. -/
def takeAt {α : Type} : List α → Nat → Option (α × List α)
  | [], _ => none
  | x :: rest, 0 => some (x, rest)
  | x :: rest, n + 1 => (takeAt rest n).map (fun p => (p.1, x :: p.2))

/-- Replaces every element that satisfies p. -/
def replaceIf {α : Type} (p : α → Bool) (f : α → α) (xs : List α) : List α := xs.map (fun x => if p x then f x else x)

end Sys2Proof.Machine
end

