-- ==== Sys2Proof/Machine/State.lean ====
section
/-! DEFINITION. The state of the E9400 package as plain data, and the state right after reset. A field of a unit that has
not come into being is not listed in its map; every register reads as its reset value. -/

namespace Sys2Proof.Machine

/-! ### Lanes and gangs (R21 to R46) -/

/-- The lane states of R33. -/
inductive LaneSt where
  | run | held | wait | gone | empty
deriving DecidableEq, Repr

/-- Where a result lands: a lane of a vector register, a uniform register, a lane of a predicate, a descriptor (R21). -/
inductive Loc where
  | v (r lane : Nat)
  | g (r : Nat)
  | p (r lane : Nat)
  | t (r : Nat)
deriving DecidableEq, Repr

/-- A fixed-latency write that has not landed (R84): its landing point and its place in program order; full tells that every
lane of the gang is active in its instruction (R28). -/
structure PWrite where
  land : Nat
  seq : Nat
  loc : Loc
  val : BitVec 128
  full : Bool := false
deriving DecidableEq, Repr

/-- Where a reader hold stands (R333, R348). -/
inductive HoldAt where
  | nowhere
  | parked (k : Nat)
  | leaf (core : Nat)
deriving DecidableEq, Repr

/-- A reservation (R43, R167): the element, and which write each of its bytes held when LDR read it
(none known before the load numbered load has been served). -/
structure Resv where
  load : Nat := 0
  pa : Nat
  z : Nat
  stamps : List Nat
deriving DecidableEq, Repr

/-- The hidden state of a lane (R43) and its WID (R36). -/
structure Lane where
  st : LaneSt := .empty
  fblock : Nat := 0
  wid : BitVec 64 := 0
  rngctr : BitVec 32 := 0
  nest : Nat := 0
  colour : Bool := false
  holdAt : HoldAt := .nowhere
  rsver : BitVec 32 := 0
  resv : Option Resv := none
  handle : BitVec 32 := 0
  bindValid : Bool := false
  marks : BitVec 16 := 0
deriving DecidableEq, Repr

/-- A physical range that a party reads or writes at its home; spl is the DELTA of the SPL page in which it lies (R274). -/
structure Spot where
  a : Nat
  n : Nat
  spl : Option Nat := none
deriving DecidableEq, Repr

/-- What a waiting instruction waits for (R183, R173, R184, R224, R227, R228, R231, R241, R251). -/
inductive WaitCond where
  | counter (path t : Nat)
  | performed (scope seq : Nat)
  | signal (spot : Spot) (thr : BitVec 64) (scope seq : Nat)
  | ticket (dom : Nat) (t : BitVec 32)
  | bar (n : Nat)
  | phase (off : Nat) (bit : Bool)
  | event (e : Nat)
  | trapLine (consume : Bool)
deriving DecidableEq, Repr

/-- A gang held in a waiting instruction: the instruction's length and stall code, and the clock the wait began. met says
that a write or a pulse has satisfied the wait for good (R228, R231). -/
structure Held where
  cond : WaitCond
  len : Nat
  stall : Nat
  since : Nat
  met : Bool := false
deriving DecidableEq, Repr

/-- The resume record of a fairness switch made in a held wait (R257). -/
structure Resume where
  block : Nat
  slot : Nat
  lanes : BitVec 32
deriving DecidableEq, Repr

/-- A BARSYNC that was left while it waited, by a save or a fairness switch (R257, R262, R351): its place, its barrier, the
phase in which its lanes arrived, and those lanes. -/
structure Resync where
  block : Nat
  slot : Nat
  bar : Nat
  ph : Bool
  lanes : BitVec 32
deriving DecidableEq, Repr

/-- An operation counted on an in-flight path (R88), in program order; locs are the destinations its data still owns. -/
structure Flight where
  seq : Nat
  path : Nat
  done : Bool
  locs : List Loc
deriving DecidableEq, Repr

/-- Destinations a later instruction waits for: a scoreboard slot (R89), or an ARD (R203) when slot is false. -/
structure Claim where
  seq : Nat
  slot : Bool
  locs : List Loc
deriving DecidableEq, Repr

/-- One gang in a slot of a core (R21, R29 to R46, R255 to R257). vregs is keyed 32·r + lane, uregs by register,
preds by predicate (bit l for lane l), tdescs by descriptor; packed lists the vector registers in compressed form (R28). fetchedAt is where the gang's block has been fetched from, once an
instruction of it has issued (R75, R360); opStop tells a stop by SLOTCFG from one by a trap (R238, R347). -/
structure Gang where
  crew : Nat := 0
  role : Nat := 0
  vcount : Nat := 64
  ucount : Nat := 60
  tcount : Nat := 16
  mode : BitVec 32 := 0x00000C00#32
  block : Nat := 0
  slot : Nat := 1
  fetchedAt : Option Nat := none
  coded : Nat := 0
  seq : Nat := 0
  pend : List PWrite := []
  lanes : SMap Lane := []
  vregs : SMap (BitVec 32) := []
  uregs : SMap (BitVec 32) := []
  preds : SMap (BitVec 32) := []
  tdescs : SMap (BitVec 128) := []
  packed : List Nat := []
  nstat : BitVec 32 := 0
  cychi : BitVec 32 := 0
  fc : Nat := 0
  ec : Nat := 0
  resume : Option Resume := none
  resync : List Resync := []
  held : Option Held := none
  yieldFor : List Nat := []
  yieldLeft : Nat := 0
  ready : Bool := true
  stopped : Bool := false
  faultStop : Bool := false
  opStop : Bool := false
  saving : Bool := false
  retiring : Bool := false
  ended : BitVec 32 := 0
  barPend : BitVec 16 := 0
  barPhase : BitVec 16 := 0
  flights : List Flight := []
  claims : List Claim := []
  acquiring : List Nat := []
deriving DecidableEq, Repr

/-! ### Crews (R226, R229, R244 to R261) -/

/-- A crew barrier (R226). The arrived set is the marks of the lanes. -/
structure Bar where
  cnt : Nat := 0
  exp : Nat := 0
  ph : Bool := false
deriving DecidableEq, Repr

/-- An event line (R229). -/
structure EvLine where
  src : Nat := 0
  sink : Nat := 0
  cnt : Nat := 0
deriving DecidableEq, Repr

/-- A lane held in a regroup bin, with what it carries (R126) and the uniforms of its depositor (R46). -/
structure BinLane where
  lane : Lane
  preds : BitVec 96
  live : List (BitVec 32)
  uregs : SMap (BitVec 32)
  tdescs : SMap (BitVec 128)
deriving DecidableEq, Repr

/-- A regroup bin (R259 to R261): its lanes in order; fixed lists the sizes of the fills, oldest first, that are full or
expired and wait for a slot; the timer of the current fill stood at base when the clock was since. -/
structure Bin where
  block : Nat
  role : Nat
  vcount : Nat
  lanes : List BinLane := []
  fixed : List Nat := []
  base : Nat := 0
  since : Nat := 0
deriving DecidableEq, Repr

/-- A save that is under way (R350 to R353): the physical ranges of its area, the number of its writes, and the place of its
CTXST in the privileged slot's program. -/
structure Saving where
  spots : List Spot
  id : Nat
  seq : Nat
deriving DecidableEq, Repr

/-- A crew on its core (R244 to R247, R36). tiles is keyed 16384·tile + 128·row + column; slots lists the SLOTNO of
each of the crew's slots in crew-position order, the spare slot last. parking tells how far a save has moved the crew's
holds: 1 requested, 2 answered with parkRef, 3 the area written but for its MAGIC, 4 all of it written (R333, R352).
(rngk: log 2, DESIGN CHOICE) -/
structure Crew where
  num : Nat := 0
  grid : Nat := 0
  part : Nat := 0
  dom : Nat := 0
  prio : Nat := 0
  modeb : Nat := 0x80
  codeBase : BitVec 64 := 0
  vcount : Nat := 8
  ucount : Nat := 4
  tcount : Nat := 0
  slots : List Nat := []
  roleOf : List Nat := []
  vOf : List Nat := []
  sc : Nat := 0
  spadBase : Nat := 0
  spad : SMap (BitVec 8) := []
  nbars : Nat := 0
  bars : SMap Bar := []
  held : BitVec 24 := 0
  tiles : SMap (BitVec 32) := []
  busy : List (Nat × Nat) := []
  events : SMap EvLine := []
  bins : SMap Bin := []
  rgto : Nat := 0
  liveLo : Nat := 255
  liveHi : Nat := 0
  karg : BitVec 64 := 0
  rngk : BitVec 64 := 0
  regions : List Nat := []
  barSlots : List Nat := []
  index : Nat := 0
  killed : Bool := false
  parking : Nat := 0
  parkRef : Option Nat := none
  saving : Option Saving := none
deriving DecidableEq, Repr

/-! ### Engines and queues of a core (R175 to R186, R199 to R206) -/

/-- The kinds of async command (R176, R182, R204, R205). -/
inductive ACmdKind where
  | copy | copyRows | gather | scatter | rput | rget | ratom | wsig | sigadd | fence | ald | ast | drain
deriving DecidableEq, Repr

/-- A place that an engine moves bytes from or to: memory through the command's translation, the crew's scratchpad, or
the command's own buffer. -/
inductive Place where
  | mem (va : BitVec 64)
  | spad (off : Nat)
  | buf (off : Nat)
deriving DecidableEq, Repr

/-- Bytes that an engine has still to move, one after another (R178, R179). -/
structure Seg where
  src : Place
  dst : Place
  n : Nat
deriving DecidableEq, Repr

/-- An async command as posted (R175 to R182, R204, R205): the descriptor words, flags, mode and tile captured at issue;
idx the per-lane row index of AGATH and ASCAT; before the commands a fence entry waits for; after the gang's earlier
accesses that were not yet performed at PACKAGE scope. stage is 0 as posted, 1 while it gathers or moves its bytes, 2 when
they have moved, 3 when its signal has been added, 4 when its status has been written, 5 while it writes what another
place has answered; todo is what is still to be moved, done the blocks that a drain has written, buf what has come for it
or goes with it, out the scratchpad bytes that its completion writes; await says that a response of another module is to
come. -/
structure ACmd where
  id : Nat
  slot : Nat
  crew : Nat
  part : Nat
  seq : Nat
  kind : ACmdKind
  flags : Nat := 0
  words : List (BitVec 32) := []
  idx : SMap (BitVec 32) := []
  mode : BitVec 32 := 0
  desc : BitVec 128 := 0
  tileNo : Nat := 0
  tile : SMap (BitVec 32) := []
  active : BitVec 32 := 0
  nbv : Bool := true
  block : Nat := 0
  slotNo : Nat := 1
  before : List Nat := []
  after : List Nat := []
  stage : Nat := 0
  todo : List Seg := []
  done : Nat := 0
  buf : List (BitVec 8) := []
  out : SMap (BitVec 8) := []
  suspended : Bool := false
  await : Bool := false
  remote : Bool := false
  err : Option Nat := none
  errAddr : BitVec 64 := 0
  status : Nat := 0
  flagsOut : BitVec 32 := 0
deriving DecidableEq, Repr

/-- One lane or element of a load, atomic or ARD in flight: where its value goes, the bytes it reads, and the value once
it has been served. -/
structure LoadPart where
  lane : Nat := 0
  locs : List Loc
  addr : Nat := 0
  z : Nat := 4
  signed : Bool := false
  unit : Nat := 0
  usize : Nat := 128
  val : Option (BitVec 512) := none
  stamps : List Nat := []
deriving DecidableEq, Repr

/-- What completes a load record. -/
inductive LoadKind where
  | cached | home | shared | ghl | atomic | stc | tile | status
deriving DecidableEq, Repr

/-- A load, returning atomic, STC or ARD in flight (R161 to R168, R171, R203), or an instruction whose status is to be
written (R89). -/
structure LoadOp where
  id : Nat
  slot : Nat
  seq : Nat
  kind : LoadKind
  reserve : Bool := false
  failed : Bool := false
  parts : List LoadPart
deriving DecidableEq, Repr

/-- An accumulator-tile operation in its latency (R201 to R203, R208): the tiles it holds. -/
structure AccOp where
  id : Nat
  slot : Nat
  crew : Nat
  tiles : List Nat
  release : Bool := false
deriving DecidableEq, Repr

/-- A translation held by a core or die cache (R359): root (64 is Arbor), page base, size, target and rights. -/
structure Tlb where
  root : Nat
  va : Nat
  size : Nat
  dpa : Nat
  write : Bool
  exec : Bool
  spl : Bool := false
  delta : Nat := 0
deriving DecidableEq, Repr

/-- A line or sector held in an L1 (R285, R287): its home slice, each byte with the write it
came from, the pending words of the core's own stores (operation, address, size), and the sectors whose carried check value does
not match (R389). -/
structure L1Line where
  unit : Nat
  usize : Nat
  home : Nat := 0
  bytes : List (BitVec 8 × Nat)
  pend : List (Nat × Nat × Nat) := []
  bad : List Nat := []
deriving DecidableEq, Repr

/-- The leaf counters and copies of one domain (R331). -/
structure Leaf where
  cnt0 : Nat := 0
  cnt1 : Nat := 0
  colour : Bool := false
  version : BitVec 32 := 0
  quiet : Bool := true
deriving DecidableEq, Repr

/-- A trap record on its way to the ring (R233, R234), with the descriptor of the command that an asynchronous trap reports (R185). -/
structure TrapRec where
  cause : Nat
  lane : Nat := 0
  addr : BitVec 64 := 0
  info : Nat := 0
  async : Bool := false
  priv : Bool := false
  slotno : Nat
  block : Nat
  slot : Nat
  word : BitVec 32
  crew : Nat
  part : Nat
  desc : List (BitVec 32) := []
deriving DecidableEq, Repr

/-- An asynchronous trap that a completion reports (R185, R217, R218); desc is the descriptor of the command, for which the record of
R233 has no field. (addr, desc: log 80, DEDUCED) -/
structure AsyncTrap where
  gang : Nat
  cause : Nat
  info : Nat
  lane : Nat := 0
  addr : BitVec 64 := 0
  desc : List (BitVec 32) := []
  block : Nat := 0
  slot : Nat := 0
deriving DecidableEq, Repr

/-- Registers a predecessor left on this core for a chain successor (R44, R45), keyed 192·position + register. -/
structure ChainRegs where
  grid : Nat
  index : Nat
  regs : SMap (BitVec 32)
deriving DecidableEq, Repr

/-- A core (R12, R25, R36, R41, R234 to R242, R250, R331). slots is keyed by SLOTNO; 64 is the privileged slot; ptrs holds the
pointer of each scheduler, and privLast tells that the privileged slot made the last issue of scheduler 0; roots are the
translation roots as the core last took them up (R357).
saveLost lists, by its place in the privileged slot's program, each CTXST whose save containment has abandoned (R353).
(trapVec, ringBase, ringIdx: log 2, DESIGN CHOICE; rngk, what the privileged slot reads and writes as RNGK: log 81, DESIGN CHOICE) -/
structure Core where
  online : Bool := false
  slots : SMap Gang := []
  crews : SMap Crew := []
  privCode : List Host.Cell := []
  handler : Bool := false
  trapVec : Nat := 0
  fatal : Bool := false
  halted : Bool := false
  sctl : BitVec 32 := 0
  rngk : BitVec 64 := 0
  cyc0 : Nat := 0
  privLast : Bool := false
  ptrs : SMap Nat := []
  spads : List (Nat × Nat × Bool) := []
  l1 : List L1Line := []
  l1i : List Nat := []
  fills : List (Nat × Nat × Nat) := []
  tlb : List Tlb := []
  roots : SMap (BitVec 64) := []
  queues : SMap (List ACmd) := []
  loads : List LoadOp := []
  accs : List AccOp := []
  leafs : SMap Leaf := []
  freed : SMap (BitVec 32) := []
  ringBase : BitVec 64 := 0
  ringIdx : Nat := 0
  trapQ : List TrapRec := []
  asyncQ : List AsyncTrap := []
  trapLine : Nat := 0
  saveLost : List Nat := []
  chains : List ChainRegs := []
deriving DecidableEq, Repr

/-! ### Memory system (R270 to R290) -/

/-- What a memory operation does at its home (R171, R172, R193, R222, R287); read and block serve the named lanes of
a load. -/
inductive OpKind where
  | store
  | stc
  | atomic (op ty : Nat) (cmp : BitVec 64)
  | row (max : Bool)
  | bytes
  | publish (dom : Nat)
  | cctl (op : Nat)
  | read (lanes : List Nat)
  | block (tr : Bool) (lanes : List Nat)
deriving DecidableEq, Repr

/-- A range that an operation acts on: its bytes, the size of its coherence units, the DELTA of the SPL page in which units of 32 bytes
lie (R274), and which of its bytes are written (all of them when mask is empty). -/
structure Span where
  addr : Nat
  usize : Nat := 128
  delta : Nat := 0
  data : List (BitVec 8) := []
  mask : List Bool := []
deriving DecidableEq, Repr

/-- A store, atomic or other home operation of a gang or engine, until ACK-P reaches its core (R173, R287): expect holds the
writes that an STC's reservation stands on; ackD and ackP say what the slice has sent, gotV and gotD what the core has
received; waitD and waitP list the acknowledgements still to come, by 256·unit + core; whole marks a block, whose L1 copies change
as one (R193, R206); lost marks an operation of an instruction that has no effect (R390). -/
structure MemOp where
  id : Nat
  core : Nat
  slot : Nat := 255
  seq : Nat := 0
  lane : Nat := 0
  part : Nat := 0
  grid : Nat := 0
  kind : OpKind
  spans : List Span
  slice : Nat := 0
  load : Option Nat := none
  expect : Option (List Nat) := none
  applied : Bool := false
  gotV : Bool := false
  gotD : Bool := false
  waitD : List Nat := []
  waitP : List Nat := []
  ackD : Bool := false
  ackP : Bool := false
  whole : Bool := false
  lost : Bool := false
deriving DecidableEq, Repr

/-- The message kinds of R286. -/
inductive MsgKind where
  | fillReq | store | homeOp | evict | cctl | ackUpdate | ackInval
  | fillData | update | inval | ackD | ackP | cctlAck
deriving DecidableEq, Repr

/-- A message between a core and a home slice (R286): slice is 64·die + slice, op the operation or request it belongs
to; an update for a write lists in behind the target's own stores that it comes after (its override marks); bad lists the sectors
among its bytes whose check value does not match (R389); nocache marks a fill that leaves no copy in the L1, or a fill request that
asks for none; upto bounds the numbers of the loads that had been issued when a fill left; part is the partition that a request is charged
to. A message of size 0 carries the value or the acknowledgement of an operation. Core 160 and above stands for the
port of an engine, a Pergola, the Lodge or the bridge. -/
structure Msg where
  kind : MsgKind
  core : Nat
  slice : Nat
  unit : Nat
  usize : Nat
  op : Nat := 0
  part : Nat := 64
  bytes : List (BitVec 8 × Nat) := []
  behind : List Nat := []
  bad : List Nat := []
  nocache : Bool := false
  upto : Nat := 0
deriving DecidableEq, Repr

/-- The states of a directory entry (R285). -/
inductive DirSt where
  | idle | ptrs | coarse | evicting
deriving DecidableEq, Repr

/-- A directory entry of a home slice (R285, R288); dirty lists its 64-byte halves that have been written, low half first; part is
the partition whose request brought the line, soiler the one that wrote it last; waitRoom tells that the line still waits for room in
the slice (R12), and want that a line which the device does not cache has been asked for by a party other than a core. -/
structure DirEntry where
  usize : Nat := 128
  st : DirSt := .idle
  ptrs : List Nat := []
  clusters : BitVec 40 := 0
  dirty : List Nat := []
  part : Nat := 64
  soiler : Nat := 64
  waitRoom : Bool := false
  want : Bool := false
  fetching : Bool := false
  waitInv : List Nat := []
  keep : Bool := false
  slice : Nat := 0
  writeBack : Bool := false
  queued : List Msg := []
  cctls : List Nat := []
deriving DecidableEq, Repr

/-! ### Cluster matrix engines (R194 to R200, R265 to R268) -/

/-- The product and structure operations (R196, R200). -/
inductive MxKind where
  | mma | mma2 | mmat | ttrans | tperm | trsum
deriving DecidableEq, Repr

/-- An entry of a reservation table (R199, R349): place is the slot of its crew that issued it, xlat the translations made for it, after the gang's earlier accesses that
were not yet performed at PACKAGE scope. -/
structure MxEntry where
  id : Nat
  core : Nat
  slot : Nat
  crew : Nat
  part : Nat
  seq : Nat
  kind : MxKind
  word : BitVec 32
  place : Nat := 0
  tile : Nat
  fw : BitVec 32
  descs : List (BitVec 128)
  xlat : List Tlb := []
  after : List Nat := []
  idx : SMap (BitVec 32) := []
  active : BitVec 32
  sat : Bool := false
  strict : Bool := false
  kdone : Nat := 0
  flags : BitVec 32 := 0
  prio : Nat := 0
  since : Nat := 0
  running : Bool := false
deriving DecidableEq, Repr

/-- A cluster matrix engine: its table in entry order, and the entry that each busy quarter runs (R265). -/
structure Cme where
  table : List MxEntry := []
  quarters : SMap Nat := []
deriving DecidableEq, Repr

/-! ### Trellis (R210 to R219, R322 to R328) -/

/-- A Trellis record: history by position, buckets keyed 2^20·class + bucket. -/
structure TRec where
  gen : Nat
  part : Nat
  cap : Nat
  minl : Nat
  seed : BitVec 64
  dtab : BitVec 32
  n : Nat := 0
  hist : SMap (BitVec 32) := []
  index : SMap (List Nat) := []
deriving DecidableEq, Repr

/-- The Trellis of a die: open records and the generation counter of each index.
(gens: log 30, DESIGN CHOICE) -/
structure Trel where
  recs : SMap TRec := []
  gens : SMap Nat := []
deriving DecidableEq, Repr

/-- The Trellis operations (R211). -/
inductive TKind where
  | opn | bind | append | matchOp | stat (k : Nat) | depth | save | load | close (k : Nat)
deriving DecidableEq, Repr

/-- A Trellis operation in flight: one entry of args for each lane it uses (lane, handle, two operands); bytes is the image
that a save still writes from done on. -/
structure TOp where
  id : Nat
  core : Nat
  slot : Nat
  crew : Nat
  part : Nat
  seq : Nat
  kind : TKind
  args : List (Nat × BitVec 32 × BitVec 32 × BitVec 32)
  words : List (BitVec 32) := []
  addr : BitVec 64 := 0
  dest : Dst := .none
  dest2 : Dst := .none
  pdst : Nat := 0
  active : BitVec 32 := 0
  block : Nat := 0
  slotNo : Nat := 1
  arrived : Bool := false
  suspended : Bool := false
  bytes : List (BitVec 8) := []
  done : Nat := 0
  writes : List (Loc × BitVec 32) := []
  binds : List (Nat × BitVec 32 × Bool) := []
  trap : Option (Nat × Nat) := none
  trapAddr : BitVec 64 := 0
deriving DecidableEq, Repr

/-! ### The Lodge (R319, R329 to R339, R363, R378 to R393) -/

/-- A retire-queue entry (R223, R335); region is the Glasshouse region it matched (R339). -/
structure Retired where
  ticket : BitVec 32
  base : BitVec 64
  size : BitVec 32
  kind : Nat
  region : Option Nat := none
deriving DecidableEq, Repr

/-- An RCU domain (R329, R335, R336): waiting and covered entries, entries whose period has ended and the step that freeing
the first of them has reached, and the aggregators that have reported quiet. -/
structure Dom where
  cword : BitVec 64 := 0
  flist : BitVec 64 := 0
  en : Bool := false
  version : BitVec 32 := 0
  freed : BitVec 32 := 0
  last : BitVec 32 := 0
  unack : Nat := 0
  occ : Nat := 0
  run : Bool := false
  colour : Bool := false
  waiting : List Retired := []
  covered : List Retired := []
  freeing : List Retired := []
  quiet : List Nat := []
  count : Nat := 0
  step : Nat := 0
deriving DecidableEq, Repr

/-- A parked-hold entry (R332). -/
structure Parked where
  dom : Nat
  part : Nat
  cnt1 : Nat
  cnt0 : Nat
deriving DecidableEq, Repr

/-- A Glasshouse region (R337). -/
structure Region where
  bcnt : Nat := 0
  state : Nat := 0
  die : Nat := 0
  size : Nat := 0
  base : Nat := 0
deriving DecidableEq, Repr

/-- A partition record (R319). -/
structure Part where
  cmask : BitVec 160 := 0
  power : Nat := 0
  hbmsh : Nat := 0
  cores : Nat := 0
  en : Bool := false
deriving DecidableEq, Repr

/-- A fabric window (R373). -/
structure Window where
  base : BitVec 64 := 0
  size : BitVec 64 := 0
  part : Nat := 0
  atomics : Bool := false
  write : Bool := false
  en : Bool := false
deriving DecidableEq, Repr

/-- A chore (R382): its ticket and the 24 bytes of its entry. -/
structure Chore where
  ticket : Nat
  bytes : List (BitVec 8)
deriving DecidableEq, Repr

/-- An image of the boot flash or of a hand-over (R378, R383). -/
structure Image where
  bytes : List (BitVec 8) := []
deriving DecidableEq, Repr

/-- A message between cores, aggregators and the Lodge (R222, R223, R225, R242, R320, R331, R333, R334, R393). -/
inductive LMsg where
  | version (dom : Nat)
  | retire (core id dom : Nat) (entry : Retired)
  | flip (die dom : Nat) (colour : Bool)
  | newVersion (die dom : Nat) (v : BitVec 32)
  | leafQuiet (core dom : Nat)
  | aggQuiet (die dom : Nat)
  | freed (core dom : Nat) (f : BitVec 32)
  | park (core crew dom part cnt0 cnt1 : Nat)
  | parkAck (core crew dom cnt0 cnt1 : Nat) (entry : Option Nat)
  | holdDec (target : HoldAt) (dom : Nat) (colour : Bool)
  | stale (part : Nat)
  | gpstat (core id dom part k : Nat)
  | chorePulse (core : Nat)
  | totals (die : Nat) (clock19 : Bool) (counts : SMap Nat)
  | contain (core part : Nat)
deriving DecidableEq, Repr

/-- An Arbor management ring (R381): the requests served, and the op and the number of a response that is being written. -/
structure Ring where
  served : Nat := 0
  stopped : Bool := false
  op : Nat := 0
  after : Option Nat := none
deriving DecidableEq, Repr

/-- The Lodge registers and tables, and by 4·domain + die the leaves that each aggregator has heard quiet (R331); asks lists the
management rings by their unserved requests, in the order in which these came (R381); requests are
those that wait for the attestation engine, true for the DOE path, doeOut the objects that have been answered with their codes, engine the one it answers with its code (R386) (R302, R319, R329 to R339, R357, R363, R372, R373, R378 to R392).
(staged: log 60, DEDUCED; claimed: log 58, DESIGN CHOICE; repairs: log 64, DESIGN CHOICE) -/
structure Lodge where
  stage : Nat := 0
  fail : Bool := false
  fcause : Nat := 0
  dies : BitVec 4 := 0
  hoip : Bool := false
  cxl : Bool := false
  qtbase : BitVec 64 := 0
  nodeid : BitVec 32 := 0
  mgmtvec : BitVec 32 := 0
  parts : SMap Part := []
  stale : SMap (BitVec 64) := []
  roots : SMap (BitVec 64) := []
  doms : SMap Dom := []
  aggs : SMap (List Nat) := []
  parked : SMap Parked := []
  regions : SMap Region := []
  windows : SMap Window := []
  routes : SMap (BitVec 64) := []
  staged : SMap (BitVec 32) := []
  chores : List Chore := []
  claimed : List (Nat × Chore) := []
  nextTicket : Nat := 1
  rings : SMap Ring := []
  asks : List Nat := []
  flash1 : Image := {}
  repairs : List (Nat × Nat × Nat) := []
  committed : Option Image := none
  pending : Option Image := none
  switched : List Nat := []
  mbReq : SMap (BitVec 8) := []
  mbResp : List (BitVec 8) := []
  mbState : Nat := 0
  mbCode : Nat := 0
  requests : List (Bool × List (BitVec 8)) := []
  engine : Option (Bool × Nat × List (BitVec 8)) := none
  doeOut : List (Nat × List (BitVec 8)) := []
  msgs : List LMsg := []
  contain : List Nat := []
  reported : SMap (List Nat) := []
  logSeq : Nat := 0
deriving DecidableEq, Repr

/-! ### Pergola (R302 to R318) -/

/-- An INDIRECT buffer that a queue executes (R309): its address, the packets started and their count, and the run of its
packet. -/
structure Frame where
  base : BitVec 64
  pos : Nat
  count : Nat
  owner : Nat
deriving DecidableEq, Repr

/-- A packet that has started and not completed (R306): its type, the RDX of the ring packet that it belongs to, its own
address and bytes, the run of the INDIRECT around it, the number of its writes, and how far it has come. -/
structure PRun where
  id : Nat
  ty : Nat
  index : Nat
  addr : BitVec 64
  bytes : List (BitVec 8)
  parent : Nat := 0
  seq : Nat := 0
  stage : Nat := 0
  dispatched : Bool := false
  finished : Bool := false
deriving DecidableEq, Repr

/-- The Pergola's side of a software queue (R302 to R309): state is 0 while it waits for a hardware slot, 1 mapped, 2
parked, 3 and above stopped; adds lists the adds to DONE words that are not performed yet (R306); told is false while the host has still
to learn of a stop. -/
structure Queue where
  state : Nat := 0
  slot : Option Nat := none
  die : Nat := 0
  part : Nat := 0
  prio : Nat := 0
  ring : Nat := 0
  logn : Nat := 4
  vec : BitVec 32 := 0
  rdx : Nat := 0
  wrx : Nat := 0
  frames : List Frame := []
  runs : List PRun := []
  adds : List Nat := []
  idleSince : Nat := 0
  lastWin : Nat := 0
  park : Option (Spot × BitVec 64) := none
  told : Bool := true
deriving DecidableEq, Repr

/-- A grid in flight (R306, R310 to R315). run and node name the packet or graph node it belongs to, parent the grid whose
tail it is; snap is memory as it stood when its launch was taken up, which is where its code is fetched from (R271). -/
structure Grid where
  id : Nat
  queue : Nat
  run : Nat
  node : Option (Nat × Nat) := none
  hdr : List (BitVec 8)
  karg : BitVec 64
  tailbuf : BitVec 64 := 0
  next : Nat := 0
  total : Nat := 1
  live : List Nat := []
  snap : List Host.Cell
  lastCore : Option Nat := none
  parent : Option Nat := none
deriving DecidableEq, Repr

/-- The progress of a graph node (R317); a running node waits for the writes numbered seq, or for something else when
seq is 0. -/
inductive NodeSt where
  | waiting
  | running (seq : Nat)
  | complete
deriving DecidableEq, Repr

/-- A graph in progress (R316 to R318): its 64-byte nodes as read; for the body of a LOOP node, that node and the iteration. -/
structure GraphRun where
  id : Nat
  queue : Nat
  run : Nat
  pkg : Bool := false
  karg : BitVec 64
  nodes : List (List (BitVec 8))
  st : List NodeSt
  iter : Nat := 0
  parent : Option (Nat × Nat) := none
deriving DecidableEq, Repr

/-- What belongs to a saved crew and has no place in its area (R345 to R349): its grid and regions, the uniforms of the
depositors of its bins, the lanes and modes of its matrix entries, and by crew slot the BARSYNCs that lanes of a gang were left in (R262). -/
structure SavedCrew where
  crew : Crew
  mx : List MxEntry
  resyncs : SMap (List Resync) := []
deriving DecidableEq, Repr

/-- An add to a word of another module that a packet of a queue awaits (R307): its number and the node. -/
structure FarAdd where
  id : Nat
  queue : Nat
  node : Nat
deriving DecidableEq, Repr

/-- The Pergolas and the signal unit of the Lodge (R304, R308, R313, R314, R319 to R321). pendq lists the queues that wait
for a hardware slot of each die; saved is keyed by crew number;
remote lists the adds to other modules that have not been answered, bells the queues whose doorbell waits to read their descriptor.
(nextCrew: log 8, DESIGN CHOICE; lastSlot: log 45, DESIGN CHOICE; saved: log 38, DESIGN CHOICE) -/
structure Pergola where
  queues : SMap Queue := []
  pendq : SMap (List Nat) := []
  grids : SMap Grid := []
  graphs : SMap GraphRun := []
  signals : List Nat := []
  bells : List Nat := []
  remote : List FarAdd := []
  lastSlot : SMap Nat := []
  nextCrew : Nat := 1
  saved : SMap SavedCrew := []
deriving DecidableEq, Repr

/-! ### Host link and fabric (R362 to R373) -/

/-- The coherence state of one half of a host line (R365). -/
inductive HalfSt where
  | inv | shared | excl | modif
deriving DecidableEq, Repr

/-- A page that is changing bias (R368, R369): the next line to examine and the halves not yet written. -/
structure Flip where
  page : Nat
  toHost : Bool
  line : Nat := 0
  snoops : List Nat := []
  heldReqs : List (Nat × Bool × List (BitVec 8)) := []
deriving DecidableEq, Repr

/-- The host link and the bridge (R362 to R369): half states keyed by 64-byte half, halves with a request outstanding,
the victim buffer (half, data, snooped), the halves given up by CleanEvictNoData, pages in host bias, back-invalidate snoops
sent and answered (true for BISnpInv), the posted writes that no completed read stands behind (core, slot, place in program order);
notices are the interrupts for the host, each behind the writes of a number.
(notices: log 56, DEDUCED) -/
structure HostLink where
  halves : SMap HalfSt := []
  asked : List (Nat × Bool) := []
  victims : List (Nat × List (BitVec 8) × Bool) := []
  cleanEvicts : List Nat := []
  hostBias : List Nat := []
  flips : List Flip := []
  snoops : List (Nat × Bool) := []
  answered : List (Nat × Bool) := []
  posted : List (Nat × Nat × Nat) := []
  replies : List (Nat × List (BitVec 8)) := []
  notices : List (Nat × BitVec 32) := []
deriving DecidableEq, Repr

/-- A HilarLink port (R370, R371): up, next sequence expected, payloads of the flits buffered for each virtual lane, XOFF set and
received, and whether a flit is asked for again; told holds the XOFF bits and the asking as a flit last carried them, and owes that a
flit has been taken since; sendSeq is the next sequence to send, sent the replay buffer, by sequence, and wire
what has been put on the link. -/
structure Port where
  up : Bool := false
  nextSeq : Nat := 0
  buffered : SMap (List (List (BitVec 8))) := []
  xoff : BitVec 8 := 0
  peerXoff : BitVec 8 := 0
  acked : Nat := 0
  replay : Bool := false
  told : BitVec 8 × Bool := (0#8, false)
  owes : Bool := false
  sendSeq : Nat := 0
  sent : List (Nat × List (BitVec 8)) := []
  wire : List (List (BitVec 8)) := []
deriving DecidableEq, Repr

/-- A remote command or response on its way out of the module (R180, R370, R372): the number of the writes that must be
performed before it leaves, the status of a response, the offset at the destination, the length that it asks for, its
data, and the partition that its flits are charged to. (log 11, DESIGN CHOICE) -/
structure RemoteOut where
  port : Nat
  node : Nat
  vl : Nat
  core : Nat
  queue : Nat
  part : Nat := 64
  after : Nat := 0
  status : Nat := 0
  off : Nat := 0
  len : Nat := 0
  bytes : List (BitVec 8)
deriving DecidableEq, Repr

/-- The fabric side of the module. -/
structure Fabric where
  ports : SMap Port := []
  out : List RemoteOut := []
deriving DecidableEq, Repr

/-! ### Power and temperature (R320, R396 to R398) -/

/-- Activity counters of the current window keyed 16·(64·die + partition) + event, the latest totals of each die keyed
16·partition + event, the dies whose latest totals ran at 1.2 GHz, temperatures, dies that have reached 105 °C and fallen below
100 °C, the dies that run at 1.2 GHz now, and the package limit.
(temps: log 2, DESIGN CHOICE) -/
structure Power where
  counts : SMap Nat := []
  latest : SMap (SMap Nat) := []
  slowRan : List Nat := []
  temps : SMap Nat := []
  hot : List Nat := []
  cool : List Nat := []
  slow : List Nat := []
  limit : Nat := 3000
  tripped : Bool := false
deriving DecidableEq, Repr

/-! ### The package -/

/-- Who owns a word of an array (R391): a crew's partition, a Trellis record, nobody, all partitions together (a Belvedere
counter, parked entry, retire queue, region table or partition record), or the privileged slot of a core. -/
inductive UpsetOwner where
  | crew (part : Nat)
  | record (handle : BitVec 32)
  | nobody
  | everyone
  | priv (core : Nat)
deriving DecidableEq, Repr

/-- A soft error that the next read of its word finds (R391): unit and class of R392, core, address, whether it can be
corrected, and the word's owner. Soft errors come from outside, as what is on the agenda does. (log 77, DESIGN CHOICE) -/
structure Upset where
  unit : Nat
  cls : Nat
  core : Nat := 0xFFFFFFFF
  addr : Nat := 0
  corrected : Bool := true
  owner : UpsetOwner := .nobody
deriving DecidableEq, Repr

/-- What an event of the table acts on: the core, slot, crew, message, queue, unit or address it names, and the bytes an
outside party brings. -/
structure EvArg where
  a : Nat := 0
  b : Nat := 0
  c : Nat := 0
  flag : Bool := false
  x : BitVec 64 := 0
  y : BitVec 64 := 0
  bytes : List (BitVec 8) := []
  nats : List Nat := []
deriving DecidableEq, Repr

/-- The instruction being issued: the core and slot that issue it, its length in words, its stall code and its word, and the gangs of
its scheduler that are ready in this clock (R249, R251). -/
structure Cur where
  core : Nat := 0
  slot : Nat := 64
  len : Nat := 1
  stall : Nat := 0
  word : BitVec 32 := 0
  ready : List Nat := []
deriving DecidableEq, Repr

/-- The state of the module. mem is every byte of the device physical address space of R272 by address; stamps names the
last write applied to a byte; bad lists the check value of a 32-byte sector that does not match its bytes (R388). clock
counts steps. agenda is what outside parties and the scheduler of events have chosen to happen next; turnEv says whether
the next step of its own is an event, and turn which scheduler it starts from, 4·core + scheduler.
(mem: log 1, DESIGN CHOICE; clock: log 4, DESIGN CHOICE; agenda, arg, turn: log 5, DESIGN CHOICE; nextId, cur, stamps: log 6, DESIGN CHOICE; upsets, bad: log 77, DESIGN CHOICE) -/
structure State where
  clock : Nat := 0
  nextId : Nat := 1
  agenda : List (Instr × EvArg) := []
  upsets : List Upset := []
  arg : EvArg := {}
  cur : Cur := {}
  turnEv : Bool := false
  turn : Nat := 0
  mem : List Host.Cell := []
  stamps : SMap Nat := []
  bad : SMap (BitVec 32) := []
  cores : SMap Core := []
  dir : SMap DirEntry := []
  net : List Msg := []
  ops : List MemOp := []
  cmes : SMap Cme := []
  trels : SMap Trel := []
  tops : List TOp := []
  dieTlbs : SMap (List Tlb) := []
  lodge : Lodge := {}
  pergola : Pergola := {}
  host : HostLink := {}
  fabric : Fabric := {}
  power : Power := {}
deriving DecidableEq, Repr

/-- Why the machine stops. -/
inductive Fault where
  /-- Raised by the meaning of every encoded instruction when the slot named in State.cur holds no gang: such a state is
  no state of the part. Safe: the step does not go on. -/
  | noGang
deriving DecidableEq, Repr

/-- Why an instruction has no meaning. -/
inductive Refusal where
  /-- An arm of exec without a meaning yet; no arm answers with it. Safe. -/
  | notModelled (mnemonic : String)
deriving DecidableEq, Repr

/-- The module right after reset release, before stage 0 has done its work (R378, R379): no die online, nothing in
memory, every Lodge register zero. (log 1, DESIGN CHOICE) -/
def State.reset : State := {}

end Sys2Proof.Machine
end

