-- ==== Sys2Proof/Machine/Home.lean ====
section
/-! DEFINITION. Cores, messages and memory at its home: the bytes and their check values (R276, R388 to R390), the
directory's targets (R285, R288), the waits that the host link imposes (R364 to R369), the updates and acknowledgements of
a write (R287, R289), writes that other units make at the home, and the event log (R392). -/

namespace Sys2Proof.Machine

/-- The outcome of one step. -/
abbrev Out := Host.Outcome State Fault Refusal

/-! ### Cores, gangs, crews -/

def State.core (s : State) (c : Nat) : Core := mget {} s.cores c
def State.setCore (s : State) (c : Nat) (x : Core) : State := { s with cores := minsert s.cores c x }
def State.modCore (s : State) (c : Nat) (f : Core → Core) : State := s.setCore c (f (s.core c))

/-- The gang in a slot of a core, when the slot holds one. -/
def State.gang? (s : State) (c k : Nat) : Option Gang := mfind (s.core c).slots k
def Core.setGang (x : Core) (k : Nat) (g : Gang) : Core := { x with slots := minsert x.slots k g }
def State.setGang (s : State) (c k : Nat) (g : Gang) : State := s.modCore c (fun x => x.setGang k g)
def State.modGang (s : State) (c k : Nat) (f : Gang → Gang) : State :=
  match s.gang? c k with
  | some g => s.setGang c k (f g)
  | none => s

/-- A crew on a core; number 0 stands for the crew-owned registers that the privileged slot reads. -/
def Core.crew (x : Core) (n : Nat) : Crew := mget { modeb := 0 } x.crews n
def State.crew (s : State) (c n : Nat) : Crew := (s.core c).crew n
def Core.setCrew (x : Core) (n : Nat) (w : Crew) : Core := { x with crews := minsert x.crews n w }
def State.modCrew (s : State) (c n : Nat) (f : Crew → Crew) : State :=
  match mfind (s.core c).crews n with
  | some w => s.modCore c (fun x => x.setCrew n (f w))
  | none => s

def State.modLodge (s : State) (f : Lodge → Lodge) : State := { s with lodge := f s.lodge }

/-- Puts a message on its way between cores, aggregators and the Lodge. -/
def State.sendL (s : State) (m : LMsg) : State := s.modLodge (fun l => { l with msgs := l.msgs ++ [m] })

/-- Puts a message on its way between a core and a home slice. -/
def State.sendM (s : State) (m : Msg) : State := { s with net := s.net ++ [m] }

/-- A function works that needs a stage of start (R379, R380). -/
def State.worksFrom (s : State) (stage : Nat) : Bool := stage = 0 || (decide (stage ≤ s.lodge.stage) && ! s.lodge.fail)

/-- A fresh identifier. (log 6, DESIGN CHOICE) -/
def State.bump (s : State) : State := { s with nextId := s.nextId + 1 }

/-! ### Memory at its home (R272, R276, R388 to R390) -/

def State.byte (s : State) (a : Nat) : BitVec 8 := mget 0#8 s.mem a

/-- The bytes of a range. -/
def State.bytes (s : State) (a n : Nat) : List (BitVec 8) := mrange 0#8 s.mem a n

/-- The bytes of a range, each with the write it came from. -/
def State.stamped (s : State) (a n : Nat) : List (BitVec 8 × Nat) :=
  (s.bytes a n).zip (mrange 0 s.stamps a n)

/-- Bytes as a little-endian number. -/
def leNat : List (BitVec 8) → Nat
  | [] => 0
  | b :: rest => b.toNat + 256 * leNat rest

/-- The low n bytes of a number, lowest first. -/
def leBytes : Nat → Nat → List (BitVec 8)
  | 0, _ => []
  | n + 1, x => BitVec.ofNat 8 x :: leBytes n (x / 256)

def State.word32 (s : State) (a : Nat) : BitVec 32 := BitVec.ofNat 32 (leNat (s.bytes a 4))
def State.word64 (s : State) (a : Nat) : BitVec 64 := BitVec.ofNat 64 (leNat (s.bytes a 8))

/-- The sectors of a range. -/
def sectorsOf (a n : Nat) : List Nat := (List.range ((a + n + 31) / 32 - a / 32)).map (fun i => a / 32 + i)

/-- A sector matches its check value: the CRC-32C of its bytes, unless a fault has left another (R388). -/
def State.sectorOk (s : State) (q : Nat) : Bool :=
  match mfind s.bad q with
  | none => true
  | some v => v = crc32c (s.bytes (32 * q) 32)

/-- The sectors of a range that do not match their check values (R389). -/
def State.badSectors (s : State) (a n : Nat) : List Nat :=
  if n = 0 then [] else (sectorsOf a n).filter (fun q => ! s.sectorOk q)

/-- Every sector of a range matches its check value. -/
def State.rangeOk (s : State) (a n : Nat) : Bool := s.badSectors a n = []

/-- Writes bytes with no check, as one write numbered w. -/
def State.pokes (s : State) (a : Nat) (w : Nat) (bs : List (BitVec 8)) : State :=
  let ix := (List.range bs.length).map (fun i => a + i)
  { s with mem := mputs 0#8 s.mem (ix.zip bs), stamps := mputs 0 s.stamps (ix.map (fun i => (i, w))) }

/-- Bytes that come from the host: their sectors take fresh check values (R389). -/
def State.ingress (s : State) (a : Nat) (bs : List (BitVec 8)) : State :=
  { s.pokes a 0 bs with bad := s.bad.filter (fun e => ! decide (e.1 ∈ sectorsOf a bs.length)) }

/-- A sector of a range that the range covers whole. -/
def covers (a n q : Nat) : Bool := a ≤ 32 * q && 32 * q + 32 ≤ a + n

/-- Applies a write at its home: false when a sector that it writes in part fails its check, in which case that sector
stays as stored (R389, R390). Every sector written takes a fresh check value. -/
def State.apply (s : State) (a : Nat) (w : Nat) (bs : List (BitVec 8)) : State × Bool :=
  let n := bs.length
  let qs := sectorsOf a n
  if qs.all (fun q => covers a n q || s.sectorOk q) || n = 0 then
    ({ s.pokes a w bs with bad := s.bad.filter (fun e => ! decide (e.1 ∈ qs)) }, true)
  else (s, false)

/-! ### Targets of a physical address (R272) -/

/-- What a device physical address names (R272). -/
inductive Target where
  | hbm | glass | host | nothing
deriving DecidableEq, Repr

def targetOf (dpa : Nat) : Target :=
  if dpa < 0x8000000000 then .hbm
  else if dpa ≤ 0x805FFFFFFF then .glass
  else if 2 ^ 51 ≤ dpa ∧ dpa < 2 ^ 52 then .host
  else .nothing

/-- The die of a core (R13). -/
def dieOf (c : Nat) : Nat := c / 40

/-- XOR of the six-bit chunks of a granule index. -/
def xorChunks : Nat → Nat → Nat
  | 0, _ => 0
  | n + 1, g => (g % 64) ^^^ xorChunks n (g / 64)

/-- Home die and home slice of an HBM-backed or host address in a page without SPL (R273). -/
def homeOf (dpa : Nat) : Nat × Nat :=
  if dpa < 2 ^ 51 then (dpa / 2 ^ 37 % 4, xorChunks 5 (dpa / 1024 % 2 ^ 27))
  else
    let g := dpa / 1024 % 2 ^ 41
    ((g % 4) ^^^ (g / 256 % 4), xorChunks 7 g)

/-- Home die and slice of a sector of an SPL page (R274). -/
def splHome (dpa delta : Nat) : Nat × Nat :=
  let g := (dpa / 32 + 2 ^ 29 - delta % 2 ^ 29) % 2 ^ 29
  (g / 2 ^ 27, xorChunks 5 (g % 2 ^ 27))

/-- The home slice of a unit, 64·die + slice; spl is the DELTA of its SPL page (R273, R274). -/
def sliceOf (spl : Option Nat) (u : Nat) : Nat :=
  let h := match spl with
    | some d => splHome u d
    | none => homeOf u
  64 * h.1 + h.2

/-- The unit and class of R392 of a sector in memory. (log 33, DESIGN CHOICE) -/
def memUnit (dpa : Nat) : Nat × Nat :=
  match targetOf dpa with
  | .glass => ((dpa - 0x8000000000) / 0x18000000, 4)
  | .nothing => (4, 3)
  | _ => ((homeOf dpa).1, 3)

/-! ### Units, spans and entries (R285) -/

/-- The directory's key of a coherence unit. -/
def dirKey (unit usize : Nat) : Nat := 2 * unit + (if usize = 32 then 1 else 0)

/-- The coherence units of a range. -/
def unitsOf (addr n usize : Nat) : List Nat :=
  (List.range ((addr + n + usize - 1) / usize - addr / usize)).map (fun i => (addr / usize + i) * usize)

/-- The size of the coherence units of a range, and the units. -/
def Spot.usize (x : Spot) : Nat := if x.spl.isSome then 32 else 128
def Spot.units (x : Spot) : List Nat := unitsOf x.a x.n x.usize

/-- A range as an address and a length. -/
def Spot.range (x : Spot) : Nat × Nat := (x.a, x.n)

/-- The bytes that a span writes. -/
def Span.cells (x : Span) : List (Nat × BitVec 8) :=
  let ix := (List.range x.data.length).filter (fun i => x.mask = [] || (x.mask.getD i false))
  ix.map (fun i => (x.addr + i, x.data.getD i 0#8))

/-- The units of an operation: their keys, and their home slices (R273, R274). -/
def MemOp.homes (o : MemOp) : List (Nat × Nat) :=
  o.spans.flatMap (fun x => (unitsOf x.addr x.data.length x.usize).map (fun u =>
    (dirKey u x.usize, sliceOf (if x.usize = 32 then some x.delta else none) u)))

/-- The keys of the units of an operation. -/
def MemOp.keys (o : MemOp) : List Nat := o.homes.map (·.1)

/-- An operation touches bytes of a range. -/
def MemOp.touches (o : MemOp) (addr n : Nat) : Bool :=
  o.spans.any (fun x => decide (x.addr < addr + n ∧ addr < x.addr + x.data.length))

/-- Cores that an entry names as targets: its pointers, or every core of its clusters (R288). -/
def DirEntry.targets (e : DirEntry) : List Nat :=
  match e.st with
  | .idle => []
  | .ptrs => e.ptrs
  | .coarse => (List.range 160).filter (fun c => e.clusters.getLsbD (c / 4))
  | .evicting => e.waitInv

/-- A core becomes a target of an entry (R288). -/
def DirEntry.add (e : DirEntry) (c : Nat) : DirEntry :=
  match e.st with
  | .idle => { e with st := .ptrs, ptrs := [c] }
  | .ptrs =>
    if c ∈ e.ptrs then e
    else if e.ptrs.length < 4 then { e with ptrs := e.ptrs ++ [c] }
    else { e with st := .coarse, ptrs := []
                  clusters := (c :: e.ptrs).foldl (fun m p => m ||| (1#40 <<< (p / 4))) 0#40 }
  | .coarse => { e with clusters := e.clusters ||| (1#40 <<< (c / 4)) }
  | .evicting => e

/-- A core leaves an entry: only a pointer is removed (R288). -/
def DirEntry.drop (e : DirEntry) (c : Nat) : DirEntry :=
  match e.st with
  | .ptrs =>
    let ps := e.ptrs.filter (· ≠ c)
    if ps = [] then { e with st := .idle, ptrs := [] } else { e with ptrs := ps }
  | _ => e

def State.entry? (s : State) (key : Nat) : Option DirEntry := mfind s.dir key
def State.setEntry (s : State) (key : Nat) (e : DirEntry) : State := { s with dir := minsert s.dir key e }

/-- The size of the unit of a directory key, and its address. -/
def keySize (key : Nat) : Nat := if key % 2 = 1 then 32 else 128
def keyUnit (key : Nat) : Nat := key / 2

/-- The unit of an entry meets a list of bytes. -/
def keyMeets (key : Nat) (cs : List (Nat × BitVec 8)) : Bool :=
  cs.any (fun x => decide (keyUnit key ≤ x.1 ∧ x.1 < keyUnit key + keySize key))

/-! ### Host pages (R364 to R369) -/

def halfOf (a : Nat) : Nat := a / 64
def pageOf (a : Nat) : Nat := a / 4096

/-- The halves of a range. -/
def halvesOf (a n : Nat) : List Nat := (List.range ((a + n + 63) / 64 - a / 64)).map (fun i => a / 64 + i)

/-- A page of HBM under host bias (R368). -/
def State.hostBiased (s : State) (a : Nat) : Bool :=
  s.lodge.cxl && decide (targetOf a = .hbm) && decide (pageOf a ∈ s.host.hostBias)

/-- A page on its way to host bias (R369). -/
def State.flipping (s : State) (a : Nat) : Bool := s.host.flips.any (fun f => f.toHost && f.page = pageOf a)

/-- Host memory in PCIe mode, and pages in host bias, are not cached by the device (R364, R368). -/
def State.uncached (s : State) (a : Nat) : Bool := (decide (targetOf a = .host) && ! s.lodge.cxl) || s.hostBiased a

/-- A half is present for a read, or for a write (R365). -/
def State.halfOk (s : State) (write : Bool) (h : Nat) : Bool :=
  match mget .inv s.host.halves h with
  | .inv => false
  | .shared => ! write
  | _ => true

/-- Adds what is not yet in a list. -/
def joinNew {α : Type} [DecidableEq α] (xs ys : List α) : List α := xs ++ ys.filter (fun y => ¬ y ∈ xs)

/-- A half in host bias may be touched: the host has answered a BISnpInv, or for a read a BISnpData (R368). (log 66, DEDUCED) -/
def State.snooped (s : State) (write : Bool) (h : Nat) : Bool :=
  decide ((h, true) ∈ s.host.answered) || (! write && decide ((h, false) ∈ s.host.answered))

/-- Whether an access to a range may be served at its home now; what it needs of the host is asked for when it may not: a
grant of a half of a host line (R365), or the answer to a back-invalidate snoop of a half in host bias (R368). An access
to a flipping page waits (R369). -/
def State.gate (s : State) (write : Bool) (a n : Nat) : State × Bool :=
  if ! s.lodge.cxl then (s, true)
  else match targetOf a with
    | .host =>
      let need := (halvesOf a n).filter (fun h => ! s.halfOk write h)
      if need = [] then (s, true)
      else
        let ask := (need.filter (fun h => ! s.host.victims.any (fun v => v.1 = h))).map (fun h => (h, write))
        ({ s with host := { s.host with asked := joinNew s.host.asked ask } }, false)
    | .hbm =>
      if (halvesOf a n).any (fun h => s.flipping (64 * h)) then (s, false)
      else
        let need := (halvesOf a n).filter (fun h => s.hostBiased (64 * h) && ! s.snooped write h)
        if need = [] then (s, true)
        else ({ s with host := { s.host with snoops := joinNew s.host.snoops (need.map (fun h => (h, write))) } }, false)
    | _ => (s, true)

/-- The bytes that a slice holds: its entries, less those that wait for room (R12). -/
def State.sliceUse (s : State) (slice : Nat) : Nat :=
  ((s.dir.filter (fun (e : Nat × DirEntry) => e.2.slice = slice && ! e.2.waitRoom)).map (fun e => keySize e.1)).foldl (· + ·) 0

/-- A slice of 1.5 MiB has room for a unit of some size (R12). (log 87, DESIGN CHOICE) -/
def State.sliceRoom (s : State) (slice usize : Nat) : Bool := s.sliceUse slice + usize ≤ 1572864

/-- An absent line is fetched from its backing memory for a request that reads its bytes, or changes some; host lines in CXL mode and
pages in host bias are left to their grants, and a posted write does without (R288, R364). -/
def State.backed (s : State) (reads : Bool) (a : Nat) : Bool :=
  if targetOf a = .host then ! s.lodge.cxl && reads else ! s.hostBiased a

/-- The entry of a unit that a request finds absent: allocated in I, and its line fetched once the slice has room (R12, R288). -/
def State.fresh (s : State) (reads : Bool) (slice u usize part : Nat) : DirEntry :=
  let room := s.uncached u || s.sliceRoom slice usize
  { usize := usize, slice := slice, part := part, waitRoom := ! room, fetching := room && s.backed reads u }

/-- The entry of a directory meets a range. -/
def overlaps (key a n : Nat) : Bool := decide (keyUnit key < a + n) && decide (a < keyUnit key + keySize key)

/-- The lines that an engine, a Pergola, the Lodge or the bridge finds absent come into their slices as for any other request (R288);
nothing is kept of one that the device does not cache, but until it has been read. -/
def State.present (s : State) (write : Bool) (x : Spot) (part : Nat) : State :=
  x.units.foldl (fun (s : State) u =>
    if (targetOf u = .hbm || targetOf u = .host) && (! s.uncached u || s.backed (! write) u) &&
        ! s.dir.any (fun (e : Nat × DirEntry) => overlaps e.1 u x.usize) then
      s.setEntry (dirKey u x.usize) { s.fresh (! write) (sliceOf x.spl u) u x.usize part with want := s.uncached u }
    else s) s

/-- The lines of a range are neither on their way into their slices nor on their way out, and no earlier request waits for them: an
engine, a Pergola, the Lodge or the bridge goes behind what stands at the slice (R288). -/
def State.linesQuiet (s : State) (a n : Nat) : Bool :=
  s.dir.all (fun (e : Nat × DirEntry) =>
    ! overlaps e.1 a n || (! e.2.fetching && decide (e.2.st ≠ .evicting) && ! e.2.waitRoom && decide (e.2.queued = [])))

/-- Whether an access of such a party to a range may be served at its home now; its lines are asked for where the slices do not hold
them, for the partition that it is charged to (R288, R320). -/
def State.access (s : State) (write : Bool) (x : Spot) (part : Nat := 64) : State × Bool :=
  let t := s.present write x part
  if t.linesQuiet x.a x.n then t.gate write x.a x.n else (t, false)

/-- The slices and the host let every one of some ranges be served. (log 67, DEDUCED) -/
def State.accessAll (s : State) (write : Bool) (ps : List Spot) (part : Nat := 64) : State × Bool :=
  ps.foldl (fun (r : State × Bool) p => let g := r.1.access write p part; (g.1, r.2 && g.2)) (s, true)

/-- A range that is read and then written in one step. -/
def State.accessBoth (s : State) (x : Spot) (part : Nat := 64) : State × Bool :=
  let g := s.access false x part
  if g.2 then g.1.access true x part else g

/-- An access to a range has been served: the answers it used are spent, and halves of host lines that it wrote are
modified (R365, R368). Nothing is kept of a line that the device does not cache. -/
def State.served (s : State) (write : Bool) (a n : Nat) : State :=
  let s : State := { s with dir := s.dir.filter (fun (e : Nat × DirEntry) =>
    ! (e.2.want && overlaps e.1 a n && s.uncached (keyUnit e.1) && ! e.2.fetching && decide (e.2.st = .idle) && decide (e.2.queued = []))) }
  if ! s.lodge.cxl then s
  else
    let hs := halvesOf a n
    let host := { s.host with answered := s.host.answered.filter (fun x => ¬ x.1 ∈ hs) }
    { s with host := if write && decide (targetOf a = .host) then
        { host with halves := hs.foldl (fun m h => minsert m h HalfSt.modif) host.halves } else host }

/-- Reads of some ranges have been served (R365, R368). -/
def State.servedAll (s : State) (ps : List Spot) : State := ps.foldl (fun (s : State) p => s.served false p.a p.n) s

/-- The sectors that hold some bytes. -/
def cellSectors (cs : List (Nat × BitVec 8)) : List Nat :=
  cs.foldl (fun qs x => if x.1 / 32 ∈ qs then qs else x.1 / 32 :: qs) []

/-- A sector is written whole. -/
def cellsCover (cs : List (Nat × BitVec 8)) (q : Nat) : Bool :=
  (List.range 32).all (fun i => cs.any (fun x => x.1 = 32 * q + i))

/-- Writes bytes at their home as one write numbered w, unless a sector written in part fails its check (R389, R390). -/
def State.applyCells (s : State) (w : Nat) (cs : List (Nat × BitVec 8)) : State × Bool :=
  let qs := cellSectors cs
  if qs.all (fun q => s.sectorOk q || cellsCover cs q) then
    ({ s with
        mem := mputs 0#8 s.mem cs
        stamps := mputs 0 s.stamps (cs.map (fun x => (x.1, w)))
        bad := s.bad.filter (fun e => ! decide (e.1 ∈ qs)) }, true)
  else (s, false)

/-! ### Updates and acknowledgements (R287, R289) -/

/-- The halves of an entry that a partition's bytes meet are dirty (R288, R320, R365). -/
def DirEntry.soil (e : DirEntry) (key part : Nat) (cs : List (Nat × BitVec 8)) : DirEntry :=
  { e with soiler := part, dirty := (halvesOf (keyUnit key) (keySize key)).filter (fun h =>
      decide (h ∈ e.dirty) || cs.any (fun x => decide (halfOf x.1 = h))) }

/-- Changes the operation with a number. -/
def State.modOp (s : State) (id : Nat) (f : MemOp → MemOp) : State :=
  { s with ops := s.ops.map (fun o => if o.id = id then f o else o) }

/-- A core's own stores applied at a unit whose ACK-P has not been sent: an update sent now comes after them (R287).
(log 22, DEDUCED) -/
def State.overrides (s : State) (c unit usize : Nat) : List Nat :=
  (s.ops.filter (fun o => decide (o.kind = .store) && o.core = c && o.applied && ! o.ackP && o.touches unit usize)).map (·.id)

/-- The update of a unit for a core, as the unit now stands. -/
def State.updateMsg (s : State) (o : MemOp) (key c slice : Nat) : Msg :=
  { kind := .update, core := c, slice := slice, unit := keyUnit key, usize := keySize key, op := o.id
    bytes := s.stamped (keyUnit key) (keySize key), behind := s.overrides c (keyUnit key) (keySize key)
    bad := s.badSectors (keyUnit key) (keySize key) }

/-- Sends ACK-D and ACK-P of an operation once nothing is awaited, and the version notice of a PUBLISH with ACK-P (R222,
R287). An operation of an engine's port ends here. -/
def State.acks (s : State) (id : Nat) : State :=
  match s.ops.find? (fun o => o.id = id) with
  | none => s
  | some o =>
    if ! o.applied then s
    else if o.core ≥ 160 then
      if o.waitP = [] then { s with ops := s.ops.filter (fun p => p.id ≠ id) } else s
    else
      let msg := fun (k : MsgKind) => ({ kind := k, core := o.core, slice := o.slice, unit := 0, usize := 128, op := id } : Msg)
      let s := if o.waitD = [] && ! o.ackD then (s.sendM (msg .ackD)).modOp id (fun p => { p with ackD := true }) else s
      if o.waitP = [] && ! o.ackP then
        let s := (s.sendM (msg .ackP)).modOp id (fun p => { p with ackP := true })
        match o.kind with
        | .publish dom => s.sendL (.version dom)
        | _ => s
      else s

/-- Sends the updates of a write to the targets of every entry it meets, and waits for the acknowledgements it counts. skip
is the storing core; own is a core whose update travels with its value. -/
def State.spread (s : State) (o : MemOp) (cs : List (Nat × BitVec 8)) : State :=
  let met := s.dir.filter (fun (e : Nat × DirEntry) => keyMeets e.1 cs)
  let all : List (Nat × Nat × Nat) :=
    met.flatMap (fun (e : Nat × DirEntry) => e.2.targets.map (fun c => (e.1, c, e.2.slice)))
  let own : List (Nat × Nat × Nat) := if o.core < 160 && decide (o.kind ≠ .store) then all.filter (fun x => x.2.1 = o.core) else []
  let others : List (Nat × Nat × Nat) := all.filter (fun x => x.2.1 ≠ o.core)
  let s : State := { s with dir := s.dir.map (fun (e : Nat × DirEntry) => if keyMeets e.1 cs then (e.1, e.2.soil e.1 o.part cs) else e) }
  let s : State := { s with net := s.net ++ (own ++ others).map (fun x => s.updateMsg o x.1 x.2.1 x.2.2) }
  s.modOp o.id (fun p => { p with
    applied := true
    waitD := (others.filter (fun x => o.core < 160 && dieOf x.2.1 = dieOf o.core)).map (fun x => 256 * keyUnit x.1 + x.2.1)
    waitP := others.map (fun x => 256 * keyUnit x.1 + x.2.1) })

/-- A write that an engine, a Pergola, the Lodge or the bridge makes at the home in one step: port tells the writers
apart and seq what it belongs to (R175, R287, R367). Answers whether the check values let it through. -/
def State.homeWrite (s : State) (port seq : Nat) (a : Nat) (bs : List (BitVec 8)) (part : Nat := 64) : State × Bool :=
  if bs = [] then (s, true)
  else
    let id := s.nextId
    let o : MemOp := { id := id, core := port, seq := seq, part := part, kind := .bytes, spans := [{ addr := a, data := bs }] }
    let r := s.apply a id bs
    if ! r.2 then (s, false)
    else
      let t := { r.1.bump with ops := r.1.ops ++ [o] }
      (((t.served true a bs.length).spread o ((List.range bs.length).zipWith (fun i b => (a + i, b)) bs)).acks id, true)

/-- The block of a drain and its record, written at their home as one (R206, R283). -/
def State.homeBlock (s : State) (port seq : Nat) (ps : List (Nat × List (BitVec 8))) (part : Nat := 64) : State × Bool :=
  let id := s.nextId
  let o : MemOp := { id := id, core := port, seq := seq, part := part, kind := .bytes, whole := true
                     spans := ps.map (fun p => { addr := p.1, data := p.2 }) }
  let cs := o.spans.flatMap Span.cells
  let r := s.applyCells id cs
  if ! r.2 then (s, false)
  else
    let t := { r.1.bump with ops := r.1.ops ++ [o] }
    let t := ps.foldl (fun (t : State) p => t.served true p.1 p.2.length) t
    ((t.spread o cs).acks id, true)

/-- Ports other than cores: the engine of a core, a die Pergola, the Lodge, the host bridge, a HilarLink port. -/
def enginePort (c : Nat) : Nat := 160 + c
def pergolaPort (die : Nat) : Nat := 320 + die
def lodgePort : Nat := 330
def hostPort : Nat := 331
def linkPort : Nat := 332

/-- Every write made under a number by a port is performed at PACKAGE scope. (log 56, DEDUCED) -/
def State.settled (s : State) (port seq : Nat) : Bool := ! s.ops.any (fun o => o.core = port && o.seq = seq)

/-! ### Containment raised, and the event log (R390 to R393) -/

/-- Raises containment of a partition for the Lodge to begin (R390, R391, R393); 64 and above stands for no partition.
(log 44, DEDUCED) -/
def State.raiseContain (s : State) (part : Nat) : State :=
  if 64 ≤ part then s
  else s.modLodge (fun l => { l with contain := if part ∈ l.contain then l.contain else l.contain ++ [part] })

/-- An operation of such a party that waits at its slices takes its place behind what stands there, as a home operation (R288). -/
def State.queueOp (s : State) (kind : OpKind) (port seq a : Nat) (bs : List (BitVec 8)) (spl : Option Nat := none) : State :=
  let id := s.nextId
  let x : Spot := { a := a, n := bs.length, spl := spl }
  let u := x.units.headD 0
  let o : MemOp := { id := id, core := port, seq := seq, kind := kind, slice := sliceOf spl u
                     spans := [{ addr := a, usize := x.usize, delta := spl.getD 0, data := bs }] }
  let m : Msg := { kind := .homeOp, core := port, slice := sliceOf spl u, unit := u, usize := x.usize, op := id }
  let t : State := { s.bump with ops := s.ops ++ [o] }
  x.units.foldl (fun (t : State) u =>
    let e := (t.entry? (dirKey u x.usize)).getD (t.fresh false (sliceOf spl u) u x.usize 64)
    t.setEntry (dirKey u x.usize) { e with queued := e.queued ++ [m] }) t

/-- A write that is made at its home at once where the slice and the host let it, and waits there where they do not. -/
def State.sendWrite (s : State) (port seq a : Nat) (bs : List (BitVec 8)) (spl : Option Nat := none) : State :=
  let g := if bs = [] then (s, true) else s.access true { a := a, n := bs.length, spl := spl }
  if g.2 then (g.1.homeWrite port seq a bs).1 else g.1.queueOp .bytes port seq a bs spl

/-- Writes an entry of the event log (R392): kind, partition, unit, class, core and address. (log 33, DESIGN CHOICE) -/
def State.logEvent (s : State) (kind part unit cls core dpa : Nat) : State :=
  let n := s.lodge.logSeq
  let bytes := leBytes 8 (n + 1) ++ leBytes 1 kind ++ leBytes 1 part ++ leBytes 1 unit ++ leBytes 1 cls ++ leBytes 4 core ++
    leBytes 8 dpa ++ leBytes 8 0
  (s.modLodge (fun l => { l with logSeq := n + 1 })).sendWrite lodgePort 0 (0x7FFFFC1000 + 32 * (n % 256)) bytes

/-- A read finds a sector that does not match its check value: it is logged with the unit and the class of the array, and
containment is raised for the partition that owns the access (R390). (log 33, DESIGN CHOICE) (log 36, DEDUCED) -/
def State.mismatchAt (s : State) (part core : Nat) (unit : Nat × Nat) (q : Nat) : State :=
  (s.logEvent 1 (if 64 ≤ part then 0xFF else part) unit.1 unit.2 core (32 * q)).raiseContain part

/-- The same for a read served at the home. -/
def State.mismatch (s : State) (part core q : Nat) : State := s.mismatchAt part core (memUnit (32 * q)) q

/-- The first sector of some ranges that does not match. -/
def State.firstBad (s : State) (rs : List (Nat × Nat)) : Option Nat := (rs.flatMap (fun r => s.badSectors r.1 r.2)).head?

/-- The first sector that a write of some ranges finds not to match, and does not cover (R389). -/
def State.writeBad (s : State) (ps : List (Nat × Nat)) : Option Nat :=
  ps.findSome? (fun p => (s.badSectors p.1 p.2).find? (fun q => ! covers p.1 p.2 q))

/-- A write of the Lodge, of a Pergola or of the host: a sector that it would change in part and that does not match stays as
stored, and only the event log records it (R390). (log 44, DEDUCED) -/
def State.ownWrite (s : State) (port seq a : Nat) (bs : List (BitVec 8)) (spl : Option Nat := none) : State :=
  let g := if bs = [] then (s, true) else s.access true { a := a, n := bs.length, spl := spl }
  match if g.2 then s.writeBad [(a, bs.length)] else none with
  | some q => g.1.mismatch 64 0xFFFFFFFF q
  | none => s.sendWrite port seq a bs spl

/-- An add of such a party to a 64-bit word, in one step at its home (R390, R392). -/
def State.ownAdd (s : State) (port seq a inc : Nat) : State :=
  let g := s.accessBoth { a := a, n := 8 }
  if ! g.2 then g.1.queueOp (.atomic 0 6 0#64) port seq a (leBytes 8 inc)
  else match g.1.firstBad [(a, 8)] with
    | some q => g.1.mismatch 64 0xFFFFFFFF q
    | none => (g.1.homeWrite port seq a (leBytes 8 (leNat (s.bytes a 8) + inc))).1

/-! ### Activity counters (R19, R320) -/

/-- Counts n of an event for a partition on a die; the privileged slot's partition, 64, is charged nothing. -/
def State.count (s : State) (die part ev n : Nat) : State :=
  if 64 ≤ part then s
  else
    let k := 16 * (64 * die + part) + ev
    { s with power := { s.power with counts := mput 0 s.power.counts k (mget 0 s.power.counts k + n) } }

/-- The halves of a range that lie in pages in host bias, which the slice does not hold: each access to one takes a transfer of its own
(R320, R368). (log 53, DESIGN CHOICE) -/
def State.countDirect (s : State) (part a n : Nat) : State :=
  (halvesOf a n).foldl (fun (s : State) h => if s.hostBiased (64 * h) then s.count (homeOf (64 * h)).1 part 1 1 else s) s

/-- The accesses of an engine to a range are counted (R320): one for each unit at its home slice, and one for each 512 bytes that it reads
of a Glasshouse bank. (log 53, DESIGN CHOICE) -/
def State.charge (s : State) (part : Nat) (read : Bool) (x : Spot) : State :=
  if targetOf x.a = .glass then if read then s.count (memUnit x.a).1 part 4 (unitsOf x.a x.n 512).length else s
  else (x.units.foldl (fun (s : State) u => s.count (sliceOf x.spl u / 64) part 3 1) s).countDirect part x.a x.n

/-- The accesses of an engine to some ranges are counted. -/
def State.chargeAll (s : State) (part : Nat) (read : Bool) (ps : List Spot) : State :=
  ps.foldl (fun (s : State) p => s.charge part read p) s

/-! ### Reads that must be served before something else can be known -/

/-- How far such reads have come: served, waiting, or turned away by a sector that does not match (R389). -/
inductive Served where
  | ready | wait | bad (sector : Nat)
deriving DecidableEq, Repr

/-- The state of a party that waits: s as it was, with what it has asked of the slices and the host in t; answers that it has had and has
not come to use stay good. (log 66, DEDUCED) -/
def State.asked (s t : State) : State :=
  { s with
    host := { t.host with answered := s.host.answered }
    dir := s.dir.foldl (fun (d : SMap DirEntry) e => if e.2.want && (mfind d e.1).isNone then minsert d e.1 e.2 else d) t.dir }

/-- The first sector of some ranges that does not match. -/
def State.spotBad (s : State) (ps : List Spot) : Option Nat := s.firstBad (ps.map Spot.range)

/-- Reads ranges at their homes for a partition (R288, R320, R365, R389). -/
def State.readAll (s : State) (part : Nat) (ps : List Spot) : State × Served :=
  if ps = [] then (s, .ready)
  else
    let g := s.accessAll false ps part
    if ! g.2 then (g.1, .wait)
    else match g.1.spotBad ps with
      | some q => (g.1, .bad q)
      | none => ((g.1.chargeAll part true ps).servedAll ps, .ready)

end Sys2Proof.Machine
end

