-- ==== Sys2Proof/Machine/Ops.lean ====
section
/-! DEFINITION. The named operations over the state: cores, gangs, lanes, registers, landing of results (R84, R88), pulses and barriers (R226, R229), reader holds (R220, R333), the lane states and frontier
steps (R35, R117, R253 to R257), and taking a trap and resuming (R232 to R238). -/

namespace Sys2Proof.Machine

/-- The privileged slot's SLOTNO (R36). -/
def privSlot : Nat := 64

/-- Crew slots of a core in SLOTNO order that hold a gang of a crew. -/
def Core.gangsOf (x : Core) (crew : Nat) : List (Nat × Gang) :=
  x.slots.filter (fun e => e.1 ≠ privSlot ∧ e.2.crew = crew)

/-- Applies a function to every gang of a crew on its core. -/
def Core.modGangsOf (x : Core) (crew : Nat) (f : Gang → Gang) : Core :=
  { x with slots := x.slots.map (fun e => if e.1 ≠ privSlot ∧ e.2.crew = crew then (e.1, f e.2) else e) }

/-- The partition of a slot of a core; 64, no partition, for the privileged slot. -/
def State.partOf (s : State) (c k : Nat) : Nat :=
  if k = privSlot then 64
  else match s.gang? c k with
    | some g => (s.crew c g.crew).part
    | none => 64

/-- What issuing an instruction in a slot leads to, with the issue and n register-bank accesses counted for the slot's partition
(R320); s is the state before it. (log 53, DESIGN CHOICE) (log 59, DESIGN CHOICE) -/
def State.issued (s : State) (c k n : Nat) (t : State) : Out :=
  .next ((t.count (dieOf c) (s.partOf c k) 5 1).count (dieOf c) (s.partOf c k) 6 n)

/-! ### Lanes and masks (R31, R33, R34) -/

def allLanes : List Nat := List.range 32
def Gang.lane (g : Gang) (l : Nat) : Lane := mget {} g.lanes l
def Gang.setLane (g : Gang) (l : Nat) (x : Lane) : Gang := { g with lanes := mput {} g.lanes l x }
def Gang.modLane (g : Gang) (l : Nat) (f : Lane → Lane) : Gang := g.setLane l (f (g.lane l))
def Gang.modLanes (g : Gang) (ls : List Nat) (f : Lane → Lane) : Gang := ls.foldl (fun g l => g.modLane l f) g

/-- The lanes in a state, in increasing order. -/
def Gang.lanesIn (g : Gang) (st : LaneSt) : List Nat := allLanes.filter (fun l => (g.lane l).st = st)

/-- A set of lanes as a 32-bit mask. -/
def maskOf (ls : List Nat) : BitVec 32 := ls.foldl (fun m l => m ||| (1#32 <<< l)) 0#32

/-- EXM (R33, R34). -/
def Gang.exm (g : Gang) : List Nat := g.lanesIn .run

/-- MODE fields (R29). -/
def Gang.guardIx (g : Gang) : Nat := g.mode.toNat % 128
def Gang.gneg (g : Gang) : Bool := g.mode.getLsbD 7
def Gang.etype (g : Gang) : Nat := g.mode.toNat / 256 % 16
def Gang.rnd (g : Gang) : Nat := g.mode.toNat / 4096 % 8
def Gang.sat (g : Gang) : Bool := g.mode.getLsbD 15
def Gang.strict (g : Gang) : Bool := g.mode.getLsbD 16

/-- A predicate of a lane; p0 reads true (R23). -/
def Gang.pred (g : Gang) (p l : Nat) : Bool := p = 0 || (mget 0#32 g.preds p).getLsbD l

/-- The active lanes (R31). -/
def Gang.active (g : Gang) : List Nat := g.exm.filter (fun l => g.pred g.guardIx l != g.gneg)

/-! ### Registers, landing and claims (R21, R84, R88, R89) -/

def Gang.v (g : Gang) (r l : Nat) : BitVec 32 := mget 0#32 g.vregs (32 * r + l)
def Gang.u (g : Gang) (r : Nat) : BitVec 32 := mget 0#32 g.uregs r
def Gang.t (g : Gang) (r : Nat) : BitVec 128 := mget 0#128 g.tdescs r

/-- The code of a register, for the checks that go by register and not by lane. -/
def Loc.reg : Loc → Nat
  | .v r _ => r
  | .g r => 256 + r
  | .p r _ => 512 + r
  | .t r => 1024 + r

/-- One bit of a mask set or cleared. -/
def setBit (m : BitVec 32) (l : Nat) (b : Bool) : BitVec 32 :=
  if b then m ||| (1#32 <<< l) else m &&& ~~~(1#32 <<< l)

/-- Stores a value in a register; p0 is never written (R23). -/
def Gang.store (g : Gang) (x : Loc) (val : BitVec 128) : Gang :=
  match x with
  | .v r l => { g with vregs := mput 0#32 g.vregs (32 * r + l) (val.setWidth 32) }
  | .g r => { g with uregs := mput 0#32 g.uregs r (val.setWidth 32) }
  | .p r l => if r = 0 then g else { g with preds := mput 0#32 g.preds r (setBit (mget 0#32 g.preds r) l (val.getLsbD 0)) }
  | .t r => { g with tdescs := mput 0#128 g.tdescs r val }

/-- Takes a location from every operation issued before n, whose data is then discarded there (R88). -/
def Gang.disown (g : Gang) (n : Nat) (x : Loc) : Gang :=
  { g with
    flights := g.flights.map (fun f => if f.seq < n then { f with locs := f.locs.filter (· ≠ x) } else f)
    claims := g.claims.map (fun f => if f.seq < n then { f with locs := f.locs.filter (· ≠ x) } else f) }

/-- A write by instruction n takes effect (R88). -/
def Gang.write (g : Gang) (n : Nat) (w : Loc × BitVec 128) : Gang := (g.disown n w.1).store w.1 w.2

/-- Files a pending write behind every one that lands no later (R84). -/
def pendInsert (w : PWrite) : List PWrite → List PWrite
  | [] => [w]
  | x :: rest => if w.land < x.land then w :: x :: rest else x :: pendInsert w rest

/-- The lanes of the gang: those that are not EMPTY (R33). -/
def Gang.members (g : Gang) : List Nat := allLanes.filter (fun l => (g.lane l).st ≠ .empty)

/-- The vector register of a location. -/
def Loc.vec? : Loc → Option Nat
  | .v r _ => some r
  | _ => none

/-- The 32 lane values of a vector register are equal. -/
def Gang.flat (g : Gang) (r : Nat) : Bool := match mrange 0#32 g.vregs (32 * r) 32 with
  | x :: rest => rest.all (· = x)
  | [] => false

/-- Of some writes in their order, the vector registers written, each with what its last write says. -/
def lastWrites (ws : List (Loc × Bool)) : SMap Bool :=
  ws.foldl (fun m w => match w.1.vec? with
    | some r => minsert m r w.2
    | none => m) []

/-- Written vector registers are compressed when every lane of the gang was active in their last write and all 32 values are equal, and
expanded otherwise (R28); ws tells in order which locations were written, and of each whether every lane was active. (log 88, DEDUCED) -/
def Gang.repack (g : Gang) (ws : List (Loc × Bool)) : Gang :=
  let rs := lastWrites ws
  { g with packed := (rs.filter (fun r => r.2 && g.flat r.1)).map (·.1) ++ g.packed.filter (fun r => ¬ r ∈ mkeys rs) }

/-- Pending writes take effect one after another. -/
def Gang.landing (g : Gang) (ws : List PWrite) : Gang := ws.foldl (fun g w => g.write w.seq (w.loc, w.val)) g

/-- The locations of pending writes, each with what repack asks of it. -/
def packsOf (ws : List PWrite) : List (Loc × Bool) := ws.map (fun w => (w.loc, w.full))

/-- The pending writes that have landed by coded clock c take effect in landing order (R84). -/
def Gang.land (g : Gang) (c : Nat) : Gang :=
  let due := g.pend.filter (fun w => w.land ≤ c)
  (Gang.landing { g with pend := g.pend.filter (fun w => ¬ w.land ≤ c) } due).repack (packsOf due)

/-- Every pending write lands. -/
def Gang.landAll (g : Gang) : Gang := (Gang.landing { g with pend := [] } g.pend).repack (packsOf g.pend)

/-- The lanes that are active are all the lanes of the gang (R28). -/
def Gang.whole (g : Gang) : Bool := g.active = g.members

/-- Schedules the results of the instruction that the gang is issuing, with fixed latency lat (R84). (log 3, DESIGN CHOICE) -/
def Gang.schedule (g : Gang) (lat : Nat) (ws : List (Loc × BitVec 128)) : Gang :=
  { g with pend := ws.foldl (fun ps w => pendInsert ⟨g.coded + lat, g.seq, w.1, w.2, g.whole⟩ ps) g.pend }

/-- Data of operation n arrives: an earlier fixed-latency write that has not landed lands first, and locations that a
later write has taken are left alone (R88). A write that lands so is pending no more for R86. (log 103, DESIGN CHOICE) -/
def Gang.arrive (g : Gang) (n : Nat) (owned : List Loc) (ws : List (Loc × BitVec 128)) : Gang :=
  let there := ws.filter (fun w => w.1 ∈ owned)
  let one := there.filter (fun w => w.1.vec? = there.head?.bind (fun x => x.1.vec?))
  (ws.foldl (fun g w =>
    if w.1 ∈ owned then
      let g := { g with pend := g.pend.filter (fun p => ¬ (p.loc = w.1 ∧ p.seq < n)) }
      g.write n w
    else g) g).repack (there.map (fun w => (w.1, decide (g.members.length ≤ one.length))))

/-- The register-bank accesses of an instruction that reads some registers: one for a compressed vector register, 32 for any other
(R28, R320). (log 53, DESIGN CHOICE) -/
def Gang.bankReads (g : Gang) (reads : List Nat) : Nat :=
  (reads.map (fun r => if 256 ≤ r then 0 else if r ∈ g.packed then 1 else 32)).foldl (· + ·) 0

/-- The locations that operation n still owns. -/
def Gang.owned (g : Gang) (n : Nat) : List Loc :=
  (g.flights.filter (fun f => f.seq = n)).flatMap (·.locs) ++ (g.claims.filter (fun f => f.seq = n)).flatMap (·.locs)

/-- The oldest finished operations of a path leave the list (R88). -/
def dropDone (path : Nat) : List Flight → List Flight
  | [] => []
  | f :: rest => if f.path = path then (if f.done then dropDone path rest else f :: rest) else f :: dropDone path rest

/-- An operation on a path is complete; the counter falls past it once every older one is (R88). -/
def Gang.finishFlight (g : Gang) (n path : Nat) : Gang :=
  { g with flights := dropDone path (g.flights.map (fun f =>
      if f.seq = n ∧ f.path = path then { f with done := true, locs := [] } else f)) }

/-- A scoreboard slot or ARD wait is freed (R89, R203). -/
def Gang.freeClaim (g : Gang) (n : Nat) : Gang := { g with claims := g.claims.filter (fun f => f.seq ≠ n) }

/-- An in-flight counter (R88). -/
def Gang.count (g : Gang) (path : Nat) : Nat := (g.flights.filter (fun f => f.path = path)).length

/-- Raises a counter for the instruction being issued. -/
def Gang.raise (g : Gang) (path : Nat) (locs : List Loc) : Gang :=
  { g with flights := g.flights ++ [⟨g.seq, path, false, locs⟩] }

/-- Claims a scoreboard slot, or an ARD wait, for the instruction being issued. -/
def Gang.claim (g : Gang) (slot : Bool) (locs : List Loc) : Gang :=
  { g with claims := g.claims ++ [⟨g.seq, slot, locs⟩] }

/-- Sets NSTAT flags (R39). (log 31, DEDUCED) -/
def Gang.setFlags (g : Gang) (f : Flags) : Gang := { g with nstat := g.nstat ||| f }

/-! ### Pulses and barriers (R226, R229, R258) -/

/-- The gang of a crew that the next pulse of an event line releases: the first in SLOTNO order of those that wait on it and have
not been released (R231). -/
def Core.waiter (x : Core) (crew e : Nat) : Option (Nat × Gang) :=
  (x.gangsOf crew).find? (fun y => ! y.2.stopped && y.2.held.any (fun h => h.cond = .event e && ! h.met))

/-- The wait of a gang is satisfied for good (R228, R231). -/
def Gang.release (g : Gang) : Gang := { g with held := g.held.map (fun h => { h with met := true }) }

/-- A pulse on an event line of a crew releases a gang that waits on the line, which takes the pulse; with none it adds one to the
count, and at 65,535 it is lost (R229, R231). -/
def Core.eventAdd (x : Core) (crew e : Nat) : Core :=
  match x.waiter crew e with
  | some y => x.setGang y.1 y.2.release
  | none =>
    match mfind x.crews crew with
    | some w =>
      let l := mget {} w.events e
      x.setCrew crew { w with events := minsert w.events e { l with cnt := min (l.cnt + 1) 65535 } }
    | none => x

/-- A pulse from a source goes to each event line of the crew that is routed to it (R229). -/
def Core.pulse (x : Core) (crew src : Nat) : Core :=
  ((x.crew crew).events.filter (fun e => src ≠ 0 ∧ e.2.src = src)).foldl (fun x e => x.eventAdd crew e.1) x

def State.pulse (s : State) (c crew src : Nat) : State := s.modCore c (·.pulse crew src)

/-- Clears a barrier mark of a lane. -/
def Lane.unmark (n : Nat) (x : Lane) : Lane := { x with marks := x.marks &&& ~~~(1#16 <<< n) }

/-- Clears a barrier mark in every lane of a gang. -/
def Gang.unmark (n : Nat) (g : Gang) : Gang := g.modLanes allLanes (Lane.unmark n)

/-- Completes a phase of a crew barrier when enough lanes have arrived (R226). -/
def State.barCheck (s : State) (c crew n : Nat) : State :=
  let w := s.crew c crew
  let b := mget {} w.bars n
  if 1 ≤ b.cnt ∧ b.exp ≤ b.cnt then
    let w : Crew := { w with
      bars := minsert w.bars n { b with cnt := 0, ph := !b.ph }
      bins := w.bins.map (fun (e : Nat × Bin) =>
        (e.1, { e.2 with lanes := e.2.lanes.map (fun (x : BinLane) => { x with lane := x.lane.unmark n }) })) }
    s.modCore c (fun x => ((x.setCrew crew w).modGangsOf crew (Gang.unmark n)).pulse crew (16 + n))
  else s

/-- A lane whose marks are given leaves the expectation of every barrier of its crew (R226). -/
def State.barExit (s : State) (c crew : Nat) (marks : BitVec 16) : State :=
  (List.range (s.crew c crew).nbars).foldl (fun s n =>
    let s := s.modCrew c crew (fun w =>
      let b := mget {} w.bars n
      { w with bars := minsert w.bars n { b with exp := b.exp - 1, cnt := if marks.getLsbD n then b.cnt - 1 else b.cnt } })
    s.barCheck c crew n) s

/-! ### Reader holds (R220, R331, R333, R334) -/

/-- The hold count of a colour. -/
def Leaf.cnt (x : Leaf) (colour : Bool) : Nat := if colour then x.cnt1 else x.cnt0
def Leaf.setCnt (x : Leaf) (colour : Bool) (n : Nat) : Leaf := if colour then { x with cnt1 := n } else { x with cnt0 := n }

/-- A leaf that has applied a flip reports quiet once its old-colour count is zero (R331). -/
def State.leafCheck (s : State) (c dom : Nat) : State :=
  let x := mget {} (s.core c).leafs dom
  if ¬ x.quiet ∧ x.cnt (!x.colour) = 0 then
    (s.modCore c (fun k => { k with leafs := minsert k.leafs dom { x with quiet := true } })).sendL (.leafQuiet c dom)
  else s

/-- Lowers a hold count of a leaf. -/
def State.leafLower (s : State) (c dom : Nat) (colour : Bool) (n : Nat) : State :=
  let s := s.modCore c (fun k =>
    let x := mget {} k.leafs dom
    { k with leafs := minsert k.leafs dom (x.setCnt colour (x.cnt colour - n)) })
  s.leafCheck c dom

/-- Releases a lane's hold wherever it stands, with the stale-read check of R220 when asked for. -/
def State.releaseHold (s : State) (c dom part : Nat) (x : Lane) (check : Bool) : State :=
  let s := match x.holdAt with
    | .nowhere => s
    | .leaf k => if k = c then s.leafLower c dom x.colour 1 else s.sendL (.holdDec (.leaf k) dom x.colour)
    | .parked k => s.sendL (.holdDec (.parked k) dom x.colour)
  if check ∧ (mget {} (s.core c).leafs dom).version ≠ x.rsver then s.sendL (.stale part) else s

/-! ### Leaving (R123, R124) -/

/-- What a lane does as it exits: its hold is released and the barriers of its crew no longer expect it. -/
def State.laneExit (s : State) (c : Nat) (w : Crew) (x : Lane) (check : Bool) : State :=
  let s := if x.nest = 0 then s else s.releaseHold c w.dom w.part x check
  s.barExit c w.num x.marks

/-- The lane itself after an exit. -/
def Lane.exited (st : LaneSt) (x : Lane) : Lane :=
  { x with st := st, resv := none, bindValid := false, nest := 0, holdAt := .nowhere, marks := 0#16 }

/-- The per-lane actions of R123 for lanes of a gang, in increasing lane number. -/
def State.exitLanes (s : State) (c k : Nat) (ls : List Nat) (st : LaneSt) : State :=
  ls.foldl (fun s l =>
    match s.gang? c k with
    | none => s
    | some g =>
      let x := g.lane l
      ((s.setGang c k (g.setLane l (x.exited st))).laneExit c (s.crew c g.crew) x true)) s

/-! ### Frontier steps (R35, R117, R253 to R257) -/

/-- MEET (R122), which is also the implicit meet of R35. -/
def Gang.meet (g : Gang) : Gang :=
  g.modLanes allLanes (fun x => match x.st with
    | .gone => { x with st := .empty }
    | .held => { x with st := .run }
    | _ => x)

/-- Where a frontier step leads. -/
inductive Flow where
  | stay                        -- an implicit meet: the next slot follows
  | retired                     -- no lane is left
  | to (block slot : Nat) (switch : Bool)
deriving DecidableEq, Repr

/-- The smallest element of a list. -/
def minNat : List Nat → Option Nat
  | [] => none
  | x :: rest => match minNat rest with
    | none => some x
    | some y => some (if x < y then x else y)

/-- The gang's slot is to be retired (R117). -/
def Gang.retire (g : Gang) : Gang :=
  { (g.modLanes (g.lanesIn .gone) (fun x => { x with st := .empty })) with retiring := true, resume := none, fc := 0 }

/-- A frontier step after the running lanes have been moved to WAIT (R117, R253, R257). from is the block of the
instruction that runs it; ran and waited are the lanes in RUN and in WAIT before it; forced is the case of a held wait. -/
def Gang.frontier (g : Gang) (src : Nat) (ran waited : List Nat) (forced : Bool) : Gang × Flow :=
  let waiting := g.lanesIn .wait
  if waiting = [] then
    if g.lanesIn .held = [] then (g.retire, .retired) else ({ g.meet with fc := 0 }, .stay)
  else
    let before := waiting.filter (· ∈ waited)
    let fair := before ≠ [] ∧ (forced ∨ (g.fc ≥ 4096 ∧ g.ec = 0 ∧ g.resume = none))
    let pool := if fair then before else waiting
    let blocks := pool.map (fun l => (g.lane l).fblock)
    let above := blocks.filter (src < ·)
    let sel := (minNat (if fair ∧ above ≠ [] then above else blocks)).getD 0
    let there := pool.filter (fun l => (g.lane l).fblock = sel)
    let rec? : Option Resume := if forced then none else g.resume.filter (fun r => r.block = sel)
    let mine : List Nat := match rec? with
      | some r => waiting.filter (fun l => r.lanes.getLsbD l)
      | none => []
    let chosen := if mine = [] then there else mine
    let at_ : Nat := match rec? with
      | some r => if mine = [] then 1 else r.slot
      | none => 1
    let g : Gang := { g.modLanes chosen (fun x => { x with st := .run }) with
      resume := if rec?.isSome then none else g.resume }
    let left : List Nat := g.lanesIn .wait
    let switch := left.any (· ∈ ran)
    let g := if switch then { g.modLanes allLanes (fun x => { x with resv := none }) with fc := 0 } else g
    let g := if left = [] then { g with fc := 0 } else g
    (g, .to sel at_ switch)

/-- The run of R84 ends and every write lands; the gang goes on at a block and slot (R254). -/
def Gang.jump (g : Gang) (block slot : Nat) : Gang :=
  { g.landAll with coded := 0, block := block, slot := slot, fetchedAt := none }

/-- Every running lane waits at its next block. -/
def Gang.park (g : Gang) (next : Nat → Nat) : Gang :=
  (g.exm).foldl (fun g l => g.modLane l (fun x => { x with st := .wait, fblock := next l })) g

/-! ### The counts of R255 and R256 at an issue -/

/-- The gang as its instruction begins: results that have landed are in place, and the fairness and exemption counts and
the place in program order have moved on. (log 3, DESIGN CHOICE) -/
def Gang.begin (g : Gang) : Gang :=
  let g := g.land g.coded
  { g with
    seq := g.seq + 1
    ec := g.ec - 1
    fc := if g.lanesIn .wait = [] then 0 else min (g.fc + 1) 4096 }

/-! ### Traps (R232 to R238) -/

/-- What a trap reports (R233). -/
structure Trap where
  cause : Nat
  lane : Nat := 0
  addr : BitVec 64 := 0
  info : Nat := 0
deriving DecidableEq, Repr

/-- The privileged slot as it starts (R25, R44): every register zero, EXM 1. (log 8, DESIGN CHOICE) -/
def startGang (block : Nat) : Gang := { vcount := 64, ucount := 60, tcount := 16, block := block, lanes := [(0, { st := .run })] }

/-- An asynchronous trap has reached the gang of a slot: the gang stops before its next issue (R232), and its slot stays its
own until the record is made. (log 79, DEDUCED) -/
def Core.trapDue (x : Core) (k : Nat) : Bool := x.asyncQ.any (fun t => t.gang = k)

/-- A completion reports a trap to the gang that posted the operation, while it stands in its slot (R232). -/
def State.reportTrap (s : State) (c crew : Nat) (t : AsyncTrap) : State :=
  if (s.gang? c t.gang).any (fun g => g.crew = crew) then s.modCore c (fun x => { x with asyncQ := x.asyncQ ++ [t] }) else s

/-- An operation of a slot that is gone belongs to no slot any more. -/
def State.forgetSlot (s : State) (c k : Nat) : State :=
  let s := s.modCore c (fun x => { x with
    loads := x.loads.filter (fun l => l.slot ≠ k)
    accs := x.accs.map (fun a => if a.slot = k then { a with slot := 255 } else a) })
  { s with
    host := { s.host with posted := s.host.posted.map (fun p => if p.1 = c ∧ p.2.1 = k then (c, 255, p.2.2) else p) }
    ops := s.ops.map (fun o => if o.core = c ∧ o.slot = k then { o with slot := 255, load := none } else o)
    cmes := s.cmes.map (fun (m : Nat × Cme) => (m.1, { m.2 with table := m.2.table.map (fun e =>
      if e.core = c ∧ e.slot = k then { e with slot := 255 } else e) })) }

/-- A pulse of the Lodge goes to every core (R242). -/
def State.pulseCores (s : State) : State := (List.range 160).foldl (fun s c => s.sendL (.chorePulse c)) s

/-- Posts a chore of 24 bytes, and pulses every core (R242, R382). -/
def State.postEntry (s : State) (bytes : List (BitVec 8)) : State :=
  let t := s.lodge.nextTicket
  (s.modLodge (fun l => { l with nextTicket := t + 1, chores := l.chores ++ [⟨t, bytes⟩] })).pulseCores

/-- A chore that the hardware posts, by its reason: 1 a page-fault record, 2 a suspended fault of an engine, 3 freed
entries of a domain, 4 a containment, 5 an attestation request, 6 a hand-over step (R382): its kind in bytes 0 and 1, its arguments
in bytes 8 to 23. (log 14, DESIGN CHOICE) -/
def State.postChore (s : State) (reason : Nat) (args : List Nat) : State :=
  s.postEntry (leBytes 2 (Config.choreKind reason).toNat ++ leBytes 6 (Config.choreRest reason args).toNat ++
    leBytes 16 (Config.choreArgs reason args).toNat)

/-- A core starts its privileged slot at an Arbor image's entry (R44, R378, R384).
(log 13, DESIGN CHOICE) (log 37, DESIGN CHOICE) -/
def State.startArbor (s : State) (c : Nat) (img : Image) : State :=
  (s.forgetSlot c privSlot).modCore c (fun x =>
    { x with
      slots := minsert x.slots privSlot (startGang (Config.arborEntry img.bytes))
      privCode := mputs 0#8 [] ((List.range img.bytes.length).zip img.bytes)
      handler := false, fatal := false, saveLost := [], rngk := 0#64 })

/-- The hand-over under way is abandoned (R385): switched agents restart at the committed image, and their chores are
posted again under their tickets, each with its pulse to every core (R242). -/
def State.abandonHandover (s : State) : State :=
  let l := s.lodge
  let back := l.claimed.filter (fun p => p.1 ∈ l.switched)
  let s := match l.committed with
    | some img => l.switched.foldl (fun (s : State) c => s.startArbor c img) s
    | none => s
  let s := back.foldl (fun (s : State) _ => s.pulseCores) s
  s.modLodge (fun l => { l with
    chores := back.map (fun (p : Nat × Chore) => p.2) ++ l.chores
    claimed := l.claimed.filter (fun p => ¬ p.1 ∈ l.switched)
    pending := none, switched := [], hoip := false })

/-- A core-fatal condition (R237, R385, R392): the slot stops, the Lodge logs it, the partitions of the core's crews are to be
contained, and a hand-over that this core had switched to is abandoned. (log 33, DESIGN CHOICE) -/
def State.coreFatal (s : State) (c : Nat) : State :=
  let parts := ((s.core c).crews.filter (fun e => e.1 ≠ 0)).map (·.2.part)
  let s := s.modCore c (fun x => { x with fatal := true })
  let s := s.logEvent 3 0xFF (dieOf c) 0 c 0
  let s := parts.foldl (fun s p => s.raiseContain p) s
  if s.lodge.hoip && decide (c ∈ s.lodge.switched) then s.abandonHandover else s

/-- The privileged slot enters the handler state at its trap vector; a trap in that state is core-fatal (R237). -/
def State.enterHandler (s : State) (c : Nat) : State :=
  if (s.core c).handler then
    (s.modGang c privSlot (fun g => { g with stopped := true })).coreFatal c
  else
    let vec := (s.core c).trapVec
    (s.modCore c (fun x => { x with handler := true })).modGang c privSlot (fun g =>
      let g := g.modLanes allLanes (fun x => { x with st := .empty })
      let g := g.modLane 0 (fun x => { x with st := .run })
      { g.jump vec 1 with mode := 0x00000C00#32, held := none, resume := none, fc := 0, ec := 0, acquiring := [] })

/-- The record of a trap that the gang in a slot takes where it stands (R233). -/
def State.trapRecord (s : State) (c k : Nat) (g : Gang) (t : Trap) (async : Bool) (word : BitVec 32) : TrapRec :=
  let w := s.crew c g.crew
  { cause := t.cause, lane := t.lane, addr := t.addr, info := t.info, async := async, priv := decide (k = privSlot)
    slotno := k, block := g.block, slot := g.slot, word := word, crew := w.num, part := w.part }

/-- A gang takes a trap (R232, R237): no effect of its instruction stands, it stops, and a record is on its way to the
ring. A page fault stops every gang of its crew. The privileged slot enters its handler. -/
def State.takeTrap (s : State) (c k : Nat) (t : Trap) : State :=
  match s.gang? c k with
  | none => s
  | some g =>
    let r := s.trapRecord c k g t false s.cur.word
    let s : State := s.modCore c (fun x => { x with trapQ := x.trapQ ++ [r] })
    if k = privSlot then s.enterHandler c
    else
      let s := if t.cause = 0x10 then
          s.modCore c (fun x => x.modGangsOf g.crew (fun h =>
            if h.stopped then h else { h with stopped := true, faultStop := true }))
        else s
      s.modGang c k (fun g => { g with stopped := true, faultStop := t.cause = 0x10 })

end Sys2Proof.Machine
end

