-- ==== Sys2Proof/Machine/Translate.lean ====
section
/-! DEFINITION. Address translation (R155, R157, R272 to R274, R357 to R360): the walk, the core and die translation
caches, and the targets of R157. -/

namespace Sys2Proof.Machine

/-- A canonical local virtual address (R155): bits 63 to 57 equal bit 56. -/
def canonical (va : BitVec 64) : Bool :=
  let top := va.toNat / 2 ^ 56
  top = 0 || top = 255

/-- Base of a die's part of the Glasshouse aperture (R272). -/
def glassBase (die : Nat) : Nat := 0x8000000000 + die * 0x18000000

/-- First address of a region's aperture (R337). -/
def Region.start (r : Region) : Nat := glassBase r.die + r.base * 65536

/-- The present region that holds an aperture address (R337). -/
def State.regionAt (s : State) (dpa : Nat) : Option (Nat × Region) :=
  s.lodge.regions.find? (fun e => e.2.state ≠ 0 ∧ e.2.start ≤ dpa ∧ dpa < e.2.start + e.2.size * 65536)

/-- Why a walk gives no translation: a page fault, or a malformed walk or missing right (R358). -/
inductive XlFail where
  | page | access
deriving DecidableEq, Repr

/-- Bits of a table entry. -/
def entryBit (e : Nat) (i : Nat) : Bool := e / 2 ^ i % 2 = 1

/-- The DPA that a leaf names (R358). -/
def leafDpa (e : Nat) : Nat := if entryBit e 5 then e / 256 % 2 ^ 27 * 4096 else e / 4096 % 2 ^ 40 * 4096

/-- A reserved bit is set (R358). -/
def entryReserved (e : Nat) : Bool :=
  e / 64 % 4 ≠ 0 || (! entryBit e 5 && (e / 256 % 16 ≠ 0 || e / 2 ^ 52 ≠ 0))

/-- The 16 entries that a C64 entry must agree with (R358). -/
def c64Ok (s : State) (table ix : Nat) (e : Nat) : Bool :=
  let first := ix / 16 * 16
  let base := leafDpa (s.word64 (table + 8 * first)).toNat
  base % 65536 = 0 && (List.range 16).all (fun i =>
    let x := (s.word64 (table + 8 * (first + i))).toNat
    x % 256 = e % 256 && leafDpa x = base + 4096 * i && ! entryReserved x)

/-- A range meets the memory reserved to Arbor, which no entry for a crew partition may name (R381). -/
def arborReserved (dpa size : Nat) : Bool := dpa ≤ 0x7FFFFFFFFF && 0x7FFFF00000 < dpa + size

/-- The levels of a walk, from a level with n levels below it down to level 1 (R358). -/
def walkLevels (s : State) (root va : Nat) : Nat → Nat → Except XlFail Tlb
  | 0, _ => .error .access
  | n + 1, table =>
    let level := n + 1
    let ix := va / 2 ^ (12 + 9 * n) % 512
    let e := (s.word64 (table + 8 * ix)).toNat
    if ! entryBit e 0 then .error .page
    else if entryReserved e then .error .access
    else if entryBit e 5 && n ≠ 0 then .error .access
    else if entryBit e 4 && n ≠ 0 then .error .access
    else if entryBit e 1 then
      if level > 3 then .error .access
      else
        let size := 2 ^ (12 + 9 * n)
        let dpa := leafDpa e
        if dpa % size ≠ 0 || (root ≠ 64 && arborReserved dpa size) then .error .access
        else if entryBit e 4 && ! c64Ok s table ix e then .error .access
        else
          let size := if entryBit e 4 then 65536 else size
          .ok { root := root, va := va / size * size, size := size
                dpa := if entryBit e 4 then dpa / 65536 * 65536 else dpa
                write := entryBit e 2, exec := entryBit e 3, spl := entryBit e 5
                delta := if entryBit e 5 then e / 2 ^ 35 else 0 }
    else if n = 0 then .error .access
    else walkLevels s root va n (leafDpa e)

/-- What a walk reads of the tables, level by level: an entry, and the sixteen that a C64 entry must agree with (R358, R359). -/
def walkReads (s : State) (va : Nat) : Nat → Nat → List Spot
  | 0, _ => []
  | n + 1, table =>
    let ix := va / 2 ^ (12 + 9 * n) % 512
    let e := (s.word64 (table + 8 * ix)).toNat
    { a := table + 8 * ix, n := 8 } ::
      (if ! entryBit e 0 || entryReserved e then []
      else if entryBit e 1 then if entryBit e 4 && n = 0 then [{ a := table + 128 * (ix / 16), n := 128 }] else []
      else walkReads s va n (leafDpa e))

/-- What a walk from a root register reads. -/
def State.rootReads (s : State) (reg : BitVec 64) (va : Nat) : List Spot :=
  if reg.getLsbD 0 then walkReads s va 5 (reg.toNat / 4096 % 2 ^ 40 * 4096) else []

/-- A walk from a root register (R357, R358). -/
def State.walk (s : State) (root : Nat) (reg : BitVec 64) (va : Nat) : Except XlFail Tlb :=
  if ! reg.getLsbD 0 then .error .page else walkLevels s root va 5 (reg.toNat / 4096 % 2 ^ 40 * 4096)

/-- A cache entry translates an address. -/
def Tlb.covers (t : Tlb) (root va : Nat) : Bool := t.root = root && t.va ≤ va && va < t.va + t.size

/-- The DPA of an address under a translation. -/
def Tlb.dpaOf (t : Tlb) (va : Nat) : Nat := t.dpa + (va - t.va)

/-- The low 57 bits of a virtual address. -/
def vaLow (va : BitVec 64) : Nat := va.toNat % 2 ^ 57

/-- The translation that a core uses for an address: its own cache, then the die's, then a walk (R359). -/
def State.translate (s : State) (c root : Nat) (va : BitVec 64) : Except XlFail Tlb :=
  let a := vaLow va
  match (s.core c).tlb.find? (fun t => t.covers root a) with
  | some t => .ok t
  | none =>
    match (mget [] s.dieTlbs (dieOf c)).find? (fun t => t.covers root a) with
    | some t => .ok t
    | none => s.walk root (mget 0#64 (s.core c).roots root) a

/-- Puts a translation at the head of a cache that holds at most n (R359). -/
def cacheTlb (n : Nat) (t : Tlb) (ts : List Tlb) : List Tlb := (t :: ts.filter (· ≠ t)).take n

/-- The caches hold a translation that was used. -/
def State.install (s : State) (c root : Nat) (va : BitVec 64) : State :=
  match s.translate c root va with
  | .error _ => s
  | .ok t =>
    if t ∈ (s.core c).tlb then s
    else
      { (s.modCore c (fun x => { x with tlb := cacheTlb 2048 t x.tlb })) with
        dieTlbs := minsert s.dieTlbs (dieOf c) (cacheTlb 65536 t (mget [] s.dieTlbs (dieOf c))) }

def State.installs (s : State) (c root : Nat) (vas : List (BitVec 64)) : State :=
  vas.foldl (fun s va => s.install c root va) s

/-- What a core has to read of the tables to translate an address (R359). -/
def State.tables (s : State) (c root : Nat) (va : BitVec 64) : List Spot :=
  let a := vaLow va
  if (s.core c).tlb.any (fun t => t.covers root a) || (mget [] s.dieTlbs (dieOf c)).any (fun t => t.covers root a) then []
  else s.rootReads (mget 0#64 (s.core c).roots root) a

/-- One address of each page that some canonical addresses lie in (R359). -/
def onePerPage (vas : List (BitVec 64)) : List (BitVec 64) :=
  vas.foldl (fun xs va => if ! canonical va || xs.any (fun x => x.toNat / 4096 = va.toNat / 4096) then xs else xs ++ [va]) []

/-- The walks that some addresses need are made, each level as an L2 read, and their translations stay in the caches (R288, R320, R359,
R365, R389). (log 99, DEDUCED) -/
def State.walked (s : State) (c root : Nat) (vas : List (BitVec 64)) : State × Served :=
  let r := s.readAll root ((onePerPage vas).flatMap (fun va => s.tables c root va))
  (if r.2 = .ready then r.1.installs c root (onePerPage vas) else r.1, r.2)

/-- The root that a slot translates through: 64 is the Arbor root (R357). -/
def State.rootOf (s : State) (c k : Nat) : Nat :=
  if k = privSlot then 64
  else match s.gang? c k with
    | some g => (s.crew c g.crew).part
    | none => 0

/-! ### The checks of R158 -/

/-- The kinds of access that R157 tells apart. (log 29, DEDUCED) -/
inductive Access where
  | load                -- LD, LDG, LDA, LDR
  | loadHbm             -- LDR, LDROW: HBM-backed device memory only
  | store               -- ST, STL
  | update              -- STC, atomics, row operations, PUBLISH
  | asyncRead
  | asyncWrite
deriving DecidableEq, Repr

def Access.writes : Access → Bool
  | .store | .update | .asyncWrite => true
  | _ => false

/-- A condition of R158 that an access meets, by its place in that list and its cause. -/
structure Cond where
  rank : Nat
  cause : Nat
deriving DecidableEq, Repr

/-- The target rule of R157 for a DPA. (log 29, DEDUCED) -/
def State.targetCond (s : State) (a : Access) (dpa : Nat) : Option Cond :=
  let no := some (Cond.mk 4 0x11)
  match targetOf dpa with
  | .hbm => none
  | .host => match a with
    | .loadHbm | .update => no
    | _ => none
  | .nothing => no
  | .glass =>
    match s.regionAt dpa with
    | none => match a with
      | .asyncRead => none
      | _ => no
    | some (_, r) =>
      if r.bcnt > 0 then
        match a with
        | .asyncRead => none
        | .load | .loadHbm => no
        | _ => some (Cond.mk 5 0x14)
      else
        match a with
        | .asyncRead | .asyncWrite | .store => none
        | _ => no

/-- The checks of R158 on one element: alignment to z, a canonical address, translation, rights and target. Answers the DPA
and the translation. -/
def State.checkAddr (s : State) (c root : Nat) (a : Access) (va : BitVec 64) (z : Nat) : Except Cond (Nat × Tlb) :=
  if va.toNat % z ≠ 0 then .error ⟨1, 0x12⟩
  else if ! canonical va then .error ⟨2, 0x11⟩
  else
    match s.translate c root va with
    | .error .page => .error ⟨3, 0x10⟩
    | .error .access => .error ⟨4, 0x11⟩
    | .ok t =>
      let dpa := t.dpaOf (vaLow va)
      if a.writes && ! t.write then .error ⟨4, 0x11⟩
      else match s.targetCond a dpa with
        | some e => .error e
        | none => .ok (dpa, t)

/-- The trap of R158 over the lanes of an instruction: the first condition of the list that any lane meets, reported for
the lowest lane that meets it. -/
def firstCond : List (Nat × BitVec 64 × Cond) → Option Trap
  | [] => none
  | xs =>
    let r := (minNat (xs.map (fun x => x.2.2.rank))).getD 0
    (xs.find? (fun x => x.2.2.rank = r)).map (fun x => { cause := x.2.2.cause, lane := x.1, addr := x.2.1 })

/-! ### Homes (R273, R274) -/

/-- The home of an address under a translation. -/
def Tlb.home (t : Tlb) (dpa : Nat) : Nat × Nat := if t.spl then splHome dpa t.delta else homeOf dpa

/-- A range at a physical address of a page. -/
def Tlb.spot (t : Tlb) (dpa n : Nat) : Spot := { a := dpa, n := n, spl := if t.spl then some t.delta else none }

/-- The coherence unit of an address: a 128-byte line, or a 32-byte sector of an SPL page (R285). -/
def Tlb.unit (t : Tlb) (dpa : Nat) : Nat × Nat := if t.spl then (dpa / 32 * 32, 32) else (dpa / 128 * 128, 128)

end Sys2Proof.Machine
end

