-- ==== Sys2Proof/Machine/Fetch.lean ====
section
/-! DEFINITION. Fetch blocks and instruction fetch (R72 to R75, R79, R271, R360): the block that a gang runs, its header,
and the instruction at a slot. -/

namespace Sys2Proof.Machine

/-- The sixteen words at an address of a list of bytes kept by address. -/
def cellWords (m : List Host.Cell) (a : Nat) : List (BitVec 32) := Sys2Proof.wordsOfBytes (mrange 0#8 m a 64)

/-- Where a block of a crew's code lies (R75, R360): the block that the gang runs stays where its first issue found it; any other is
translated, and its page must be executable. -/
def State.blockAt (s : State) (c : Nat) (g : Gang) (b : Nat) : Except XlFail Nat :=
  match if b = g.block then g.fetchedAt else none with
  | some a => .ok a
  | none =>
    let w := s.crew c g.crew
    let va := w.codeBase + BitVec.ofNat 64 (64 * b)
    if ! canonical va then .error .access
    else match s.translate c w.part va with
      | .error e => .error e
      | .ok t =>
        let a := t.dpaOf (vaLow va)
        if t.exec && (targetOf a = .hbm || targetOf a = .host) then .ok a else .error .access

/-- The sixteen words of a block. Crew code is fetched from memory as it stood at the launch (R271); the privileged slot's code is the
Arbor image itself. -/
def State.block (s : State) (c k b : Nat) : Except XlFail (List (BitVec 32)) :=
  if k = privSlot then .ok (cellWords (s.core c).privCode (64 * b))
  else
    match s.gang? c k with
    | none => .error .page
    | some g =>
      match s.blockAt c g b with
      | .error e => .error e
      | .ok a =>
        let snap := match mfind s.pergola.grids (s.crew c g.crew).grid with
          | some r => r.snap
          | none => s.mem
        .ok (cellWords snap a)

/-- The address a block is cached under in the L1 instruction store. -/
def State.blockKey (s : State) (c k b : Nat) : Nat :=
  if k = privSlot then 2 ^ 60 + b
  else
    match s.gang? c k with
    | none => 0
    | some g =>
      match s.blockAt c g b with
      | .ok a => a
      | .error _ => 0

/-- What has still to be read before the header of a block is known: the tables, where no cache translates its address, and the block,
where the L1 instruction store does not hold it (R75, R360). -/
def State.headReads (s : State) (c k b : Nat) : List Spot :=
  if k = privSlot then []
  else match s.gang? c k with
    | none => []
    | some g =>
      let w := s.crew c g.crew
      let va := w.codeBase + BitVec.ofNat 64 (64 * b)
      let known := (decide (b = g.block) && g.fetchedAt.isSome) || ! canonical va
      (if known then [] else s.tables c w.part va) ++
        (match s.blockAt c g b with
          | .ok a => if a ∈ (s.core c).l1i then [] else [{ a := a, n := 64 }]
          | .error _ => [])

/-- What has to be read before an instruction that looks at the headers of some blocks can be issued; one that ends its own block looks
at the next (R74, R118). -/
def State.headsOf (s : State) (c k : Nat) (g : Gang) (len : Nat) (bs : List Nat) : List Spot :=
  (bs ++ (if 15 < g.slot + len then [g.block + 1] else [])).flatMap (s.headReads c k)

/-- A gang has issued from its block, which stays where it was fetched from (R75, R360). -/
def State.noteFetch (s : State) (c k : Nat) : State :=
  if k = privSlot then s
  else match s.gang? c k with
    | none => s
    | some g =>
      match s.blockAt c g g.block with
      | .ok a => s.setGang c k { g with fetchedAt := some a }
      | .error _ => s

/-- The header of a block, when it can be read (R73). -/
def State.header? (s : State) (c k b : Nat) : Option (BitVec 32) :=
  match s.block c k b with
  | .ok (h :: _) => some h
  | _ => none

/-- Control may transfer to the block: its F bit is 1 (R74). A block that cannot be fetched is found out at its first
issue (R75). -/
def State.mayEnter (s : State) (c k b : Nat) : Bool :=
  match s.header? c k b with
  | some h => h.getLsbD 30
  | none => true

/-- Sequential flow into the block runs a frontier step (R118). -/
def State.isFrontier (s : State) (c k b : Nat) : Bool :=
  match s.header? c k b with
  | some h => h.getLsbD 30
  | none => false

/-- The stall code of a slot (R73). -/
def stallOf (h : BitVec 32) (slot : Nat) : Nat := h.toNat / 2 ^ (2 * slot - 2) % 4

/-- What a fetch gives: an instruction with its length and stall code, or the trap of R75 and the slot it is reported at. -/
inductive Fetched where
  | instr (i : Instr) (len stall : Nat) (word : BitVec 32)
  | bad (cause slot : Nat) (word : BitVec 32)
deriving DecidableEq, Repr

/-- The instruction at a slot of a block, with the checks of R75. -/
def fetchIn (ws : List (BitVec 32)) (slot : Nat) : Fetched :=
  match ws with
  | [] => .bad 0x03 1 0#32
  | h :: code =>
    let rest := code.drop (slot - 1)
    let word := rest.headD 0#32
    if h.getLsbD 31 then .bad 0x03 1 word
    else match decode rest with
      | .error _ => .bad 0x03 slot word
      | .ok (i, len) =>
        if (List.range (len - 1)).any (fun j => stallOf h (slot + 1 + j) ≠ 0) then .bad 0x03 slot word
        else .instr i len (stallOf h slot) word

/-- The words that the instruction at a slot of a block takes, its stall code, and its word, even where R75 makes it trap: one whose
literals would lie beyond slot 15 takes the block to its end (R79, R83). -/
def wordsAt (ws : List (BitVec 32)) (slot : Nat) : Nat × Nat × BitVec 32 :=
  let rest := (ws.drop 1).drop (slot - 1)
  (match decode rest with
    | .ok (_, len) => len
    | .error _ => max 1 rest.length, stallOf (ws.headD 0#32) slot, rest.headD 0#32)

/-- The same for the gang in a slot; of a block that cannot be fetched nothing is known. -/
def State.wordsNow (s : State) (c k : Nat) : Nat × Nat × BitVec 32 :=
  match s.gang? c k with
  | none => (1, 0, 0#32)
  | some g => match s.block c k g.block with
    | .ok ws => wordsAt ws g.slot
    | .error _ => (1, 0, 0#32)

/-- The next instruction of the gang in a slot. (log 59, DESIGN CHOICE) -/
def State.fetch (s : State) (c k : Nat) : Fetched :=
  match s.gang? c k with
  | none => .bad 0x10 1 0#32
  | some g =>
    match s.block c k g.block with
    | .error .page => .bad 0x10 1 0#32
    | .error .access => .bad 0x11 1 0#32
    | .ok ws => fetchIn ws g.slot

/-- The block that the gang in a slot runs has been fetched; one that cannot be fetched is found out as it issues, once its tables have
been read (R75). -/
def State.fetched (s : State) (c k : Nat) : Bool :=
  match s.gang? c k with
  | none => false
  | some g =>
    let ps := s.headReads c k g.block
    match s.block c k g.block with
    | .error _ => (s.accessAll false ps).2 && (s.spotBad ps).isNone
    | .ok _ => decide (ps = []) && decide (s.blockKey c k g.block ∈ (s.core c).l1i)

/-- BLOCK_FETCH (R75, R359, R360): the L1 instruction store of 64 KiB takes the block from L2, and its oldest one leaves. A block or a
table entry that does not match its check value is not delivered (R389, R390). (log 99, DEDUCED) -/
def execBlockFetch (s : State) : Out :=
  let c := s.arg.a
  let k := s.arg.b
  match s.gang? c k with
  | none => .next s
  | some g =>
    if s.fetched c k then .next s
    else
      let part := (s.crew c g.crew).part
      let ps := s.headReads c k g.block
      match s.block c k g.block, s.readAll part ps with
      | _, (t, .wait) => .next t
      | _, (t, .bad q) => .next (t.mismatch part c q)
      | .error _, _ => .next s
      | .ok _, (t, .ready) =>
        let key := s.blockKey c k g.block
        let t := if k = privSlot then t else t.install c part ((s.crew c g.crew).codeBase + BitVec.ofNat 64 (64 * g.block))
        .next (t.modCore c (fun x => { x with l1i := (key :: x.l1i.filter (· ≠ key)).take 1024 }))

/-- TRANSLATION_WALK (R359). -/
def execTranslationWalk (s : State) : Out :=
  match s.walked s.arg.a s.arg.b [BitVec.ofNat 64 s.arg.c] with
  | (t, .bad q) => .next (t.mismatch s.arg.b s.arg.a q)
  | (t, _) => .next t

end Sys2Proof.Machine
end

