-- ==== Sys2Proof/Machine/Flow.lean ====
section
/-! DEFINITION. How a gang goes on after an instruction (R83, R84, R118, R254): the coded gap, sequential flow into the
next block, and the ways a frontier step ends. -/

namespace Sys2Proof.Machine

/-- The coded gap of a stall code for an instruction of fixed latency lat (R83). -/
def gapOf (stall : Nat) (lat : Option Nat) : Nat :=
  match stall with
  | 0 => 1
  | 1 => 2
  | 2 => 4
  | _ => lat.getD 4

/-- The fixed latency of an opcode, where R90 gives one. -/
def latencyOf (op : Nat) : Option Nat :=
  if op = 0x02 || op = 0x0E || (0x14 ≤ op && op ≤ 0x1E) || (0x20 ≤ op && op ≤ 0x32) || (0x34 ≤ op && op ≤ 0x46) ||
      (0x60 ≤ op && op ≤ 0x6D) || (0x80 ≤ op && op ≤ 0x83) || op = 0xC0 || op = 0xC1 || op = 0xE0 || op = 0xE1 then some 4
  else if op ≤ 0x11 then some 1
  else if op = 0x12 || op = 0x33 || (0x48 ≤ op && op ≤ 0x4A) || (0x4C ≤ op && op ≤ 0x52) || (0x5C ≤ op && op ≤ 0x5E) ||
      (0x78 ≤ op && op ≤ 0x7C) || op = 0x84 then some 6
  else if 0x54 ≤ op && op ≤ 0x5A then some 10
  else if op = 0x72 then some 18
  else if 0x70 ≤ op && op ≤ 0x77 then some 14
  else none

/-- The gang goes on in another block with its run unbroken. -/
def Gang.enter (g : Gang) (block slot : Nat) : Gang := { g with block := block, slot := slot, fetchedAt := none }

/-- Sequential flow from slot 15 of block b into block b + 1 (R118): the run goes on when a frontier step selects b + 1 (R254), and a
step that selects another block counts as a transfer. The last block is followed by an index that names no block of R72.
(log 85, DESIGN CHOICE) (log 86, DEDUCED) -/
def State.flowInto (s : State) (c k : Nat) (g : Gang) : State :=
  let b := g.block + 1
  if s.isFrontier c k b then
    match (g.park (fun _ => b)).frontier g.block g.exm (g.lanesIn .wait) false with
    | (g, .to sel at_ _) => s.setGang c k (if sel = b then g.enter b at_ else g.jump sel at_)
    | (g, .stay) => s.setGang c k (g.enter b 1)
    | (g, .retired) => s.setGang c k g
  else s.setGang c k (g.enter b 1)

/-- The gang goes on at the slot after an instruction of len words (R79, R118). -/
def State.advance (s : State) (c k len : Nat) : State :=
  match s.gang? c k with
  | none => s
  | some g => if g.slot + len ≤ 15 then s.setGang c k { g with slot := g.slot + len } else s.flowInto c k g

/-- An instruction is complete: its coded gap passes and the gang goes on. -/
def State.finish (s : State) (c k len stall : Nat) (lat : Option Nat) : State :=
  (s.modGang c k (fun g => { g with coded := g.coded + gapOf stall lat })).advance c k len

/-- A frontier step that ends an instruction: a transfer, an implicit meet, or the retirement of the slot. -/
def State.land (s : State) (c k : Nat) (r : Gang × Flow) : State :=
  match r.2 with
  | .to b at_ _ => s.setGang c k (r.1.jump b at_)
  | .stay => (s.setGang c k r.1).finish c k s.cur.len s.cur.stall (some 1)
  | .retired => s.setGang c k r.1

end Sys2Proof.Machine
end

