-- ==== Sys2Proof/Machine/Operands.lean ====
section
/-! DEFINITION. Operand fields (R22, R26, R27, R48, R77 to R79, R99, R155, R160): which codes a field takes, what a source
reads, where a result goes. -/

namespace Sys2Proof.Machine

/-! ### Field rules -/

def Gang.srcOk (g : Gang) : Src → Bool
  | .vec n => n < g.vcount
  | .uni n => n < g.ucount
  | .resv => false
  | _ => true

/-- A 64-bit source: an even register whose pair is held (R48, R155). -/
def Gang.src64Ok (g : Gang) : Src → Bool
  | .vec n => n % 2 = 0 && n + 1 < g.vcount
  | .uni n => n % 2 = 0 && n + 1 < g.ucount
  | .resv => false
  | _ => true

/-- uniform-only (R160): no vector register and no lane index. -/
def uniOnly : Src → Bool
  | .vec _ => false
  | .lane => false
  | _ => true

def Gang.dstOk (g : Gang) : Dst → Bool
  | .vec n => n < g.vcount
  | .uni n => n < g.ucount
  | .none => true
  | .bad _ => false

def Gang.dst64Ok (g : Gang) : Dst → Bool
  | .vec n => n % 2 = 0 && n + 1 < g.vcount
  | .uni n => n % 2 = 0 && n + 1 < g.ucount
  | .none => true
  | .bad _ => false

/-- Vector or 0xFC. -/
def dstVec : Dst → Bool
  | .vec _ => true
  | .none => true
  | _ => false

/-- Uniform or 0xFC. -/
def dstUni : Dst → Bool
  | .uni _ => true
  | .none => true
  | _ => false

def dstIsUni : Dst → Bool
  | .uni _ => true
  | _ => false

def predOk (p : BitVec 8) : Bool := p.toNat < 96
def Gang.tdescOk (g : Gang) (t : BitVec 8) : Bool := t.toNat < g.tcount
def tileOk (a : BitVec 8) : Bool := a.toNat < 24

/-- A scope field (R77); max is the largest code the instruction takes. -/
def scopeOk (a : BitVec 8) (max : Nat) : Bool := a.toNat ≤ max

/-- On the uniform path the sources are uniform registers, zero or literals (R27). -/
def pathOk (d : Dst) (as : List Src) : Bool := ! dstIsUni d || as.all uniOnly

/-- A source element of the width of a view. -/
def Gang.elOk (g : Gang) (w : Nat) (a : Src) : Bool := if w = 64 then g.src64Ok a else g.srcOk a
def Gang.delOk (g : Gang) (w : Nat) (d : Dst) : Bool := if w = 64 then g.dst64Ok d else g.dstOk d

/-! ### Registers named, for R86 and R89 -/

def srcRegs (wide : Bool) : Src → List Nat
  | .vec n => if wide then [n, n + 1] else [n]
  | .uni n => if wide then [256 + n, 257 + n] else [256 + n]
  | _ => []

def dstRegs (wide : Bool) : Dst → List Nat
  | .vec n => if wide then [n, n + 1] else [n]
  | .uni n => if wide then [256 + n, 257 + n] else [256 + n]
  | _ => []

def predReg (p : BitVec 8) : Nat := 512 + p.toNat
def tdescReg (t : BitVec 8) : Nat := 1024 + t.toNat

/-- n consecutive uniform registers from a. -/
def uniRegs (a n : Nat) : List Nat := (List.range n).map (fun i => 256 + a + i)

/-! ### Reading -/

/-- The 32-bit value of a source in a lane (R78, R79). -/
def Gang.rd (g : Gang) (a : Src) (l : Nat) : BitVec 32 :=
  match a with
  | .vec n => g.v n l
  | .uni n => g.u n
  | .lane => BitVec.ofNat 32 l
  | .lit w => w
  | _ => 0#32

/-- The 64-bit value of a source in a lane (R79). -/
def Gang.rd64 (g : Gang) (a : Src) (l : Nat) : BitVec 64 :=
  match a with
  | .vec n => g.v (n + 1) l ++ g.v n l
  | .uni n => g.u (n + 1) ++ g.u n
  | .lane => BitVec.ofNat 64 l
  | .lit w => w.signExtend 64
  | _ => 0#64

/-- The element of a source: its low w bits (R48, R79). -/
def Gang.el (g : Gang) (w : Nat) (a : Src) (l : Nat) : Nat :=
  if w = 64 then (g.rd64 a l).toNat else (g.rd a l).toNat % 2 ^ w

/-- The prior value of a destination read as an operand; 0xFC reads 0. -/
def dstSrc : Dst → Src
  | .vec n => .vec n
  | .uni n => .uni n
  | _ => .zero

/-- CrossRead (R102); s is the lane, or none when it is out of range. -/
def Gang.cross (g : Gang) (a : Src) (s : Int) : BitVec 32 :=
  if s < 0 ∨ 32 ≤ s then 0#32
  else if (g.lane s.toNat).st = .empty then 0#32
  else g.rd a s.toNat

/-! ### Writing -/

/-- The locations of a destination in a lane and the words they take. -/
def dstWords (d : Dst) (l : Nat) (ws : List (BitVec 32)) : List (Loc × BitVec 128) :=
  match d with
  | .vec n => ws.mapIdx (fun i w => (.v (n + i) l, w.setWidth 128))
  | .uni n => ws.mapIdx (fun i w => (.g (n + i), w.setWidth 128))
  | _ => []

/-- A value of 32 or 64 bits as register words. -/
def wordsOf (wide : Bool) (x : Nat) : List (BitVec 32) :=
  if wide then [BitVec.ofNat 32 x, BitVec.ofNat 32 (x / 2 ^ 32)] else [BitVec.ofNat 32 x]

/-- The lanes a per-lane instruction computes for: every active lane, or one of them when its destination is uniform
(R27). -/
def Gang.workers (g : Gang) (d : Dst) : List Nat := if dstIsUni d then g.active.take 1 else g.active

/-- The results of a per-lane instruction: f gives a lane's words and flags. -/
def Gang.results (g : Gang) (d : Dst) (f : Nat → List (BitVec 32) × Flags) : List (Loc × BitVec 128) × Flags :=
  (g.workers d).foldl (fun acc l =>
    let r := f l
    (acc.1 ++ dstWords d l r.1, acc.2 ||| r.2)) ([], 0#32)

/-- A predicate result in each active lane. -/
def Gang.predResults (g : Gang) (p : BitVec 8) (f : Nat → Bool) : List (Loc × BitVec 128) :=
  g.active.map (fun l => (.p p.toNat l, if f l then 1#128 else 0#128))

/-- All the locations of a destination over lanes. -/
def dstLocs (d : Dst) (wide : Bool) (ls : List Nat) : List Loc :=
  match d with
  | .vec n => ls.flatMap (fun l => if wide then [.v n l, .v (n + 1) l] else [.v n l])
  | .uni n => if wide then [.g n, .g (n + 1)] else [.g n]
  | _ => []

end Sys2Proof.Machine
end

