-- ==== Sys2Proof/Machine/Issue.lean ====
section
/-! DEFINITION. What every instruction does at its issue (R82, R86, R88, R89): the checks in the order of R82, the waits,
the effect, and how the gang goes on. -/

namespace Sys2Proof.Machine

/-- What an instruction asks of its issue: the lowest lane that it would transfer to a block that may not be entered (R82 step 1),
which it knows once the registers it reads have come where seeks is true, and the blocks whose headers tell it; whether its fields are legal (step 4), whether the tiles
it names are held (step 5), the registers it reads and writes, its fixed latency, whether it honours the guard, and whether it is
privileged (step 3). -/
structure Sig where
  ok : Bool
  closed : Option Nat := none
  seeks : Bool := false
  looks : List Nat := []
  tiles : Bool := true
  reads : List Nat := []
  writes : List Nat := []
  lat : Option Nat := none
  guarded : Bool := true
  priv : Bool := false
deriving DecidableEq, Repr

/-- How an instruction's own effect ends: it is done and the gang goes on at the next slot; it has set the gang's place
itself (a transfer, or a wait); it waits at issue, and in ask for a slice or the host, of which it has asked what it needs; it traps. -/
inductive Res where
  | go (s : State)
  | jump (s : State)
  | hold
  | ask (s : State)
  | trap (t : Trap)
deriving DecidableEq, Repr

/-- The registers an instruction reads, its guard among them. -/
def Sig.allReads (sg : Sig) (g : Gang) : List Nat :=
  if sg.guarded ∧ g.guardIx ≠ 0 then (512 + g.guardIx) :: sg.reads else sg.reads

/-- The instruction waits for a register that a scoreboard slot or an ARD holds (R89, R203). -/
def Sig.waits (sg : Sig) (g : Gang) : Bool :=
  g.claims.any (fun f => f.locs.any (fun x => x.reg ∈ sg.allReads g || x.reg ∈ sg.writes))

/-- The stall-count violations of R86. A write to p0 counts among the pending writes, and a guard of p0 reads no register.
(log 84, DESIGN CHOICE) -/
def Sig.late (sg : Sig) (g : Gang) : Bool :=
  g.pend.any (fun w => w.loc.reg ∈ sg.allReads g ||
    (match sg.lat with
      | some n => decide (g.coded + n ≤ w.land) && decide (w.loc.reg ∈ sg.writes)
      | none => false)) ||
  g.flights.any (fun f => ! f.done && f.locs.any (fun x => x.reg ∈ sg.allReads g || x.reg ∈ sg.writes))

/-- The checking scoreboard is on (R41). -/
def Core.schk (x : Core) : Bool := x.sctl.getLsbD 0

/-- Issues the instruction of State.cur: R82's checks, then the waits, then the effect. The blocks that it looks at have been read first;
one that does not match its check value raises containment (R389, R390). (log 16, DEDUCED) (log 99, DEDUCED) -/
def issue (s : State) (sig : Gang → Sig) (eff : Gang → Res) : Out :=
  let c := s.cur.core
  let k := s.cur.slot
  match s.gang? c k with
  | none => .fault .noGang
  | some g0 =>
    let g := g0.begin
    let sg := sig g
    let trap := fun (t : Trap) => s.issued c k 0 (s.takeTrap c k t)
    let heads := s.headsOf c k g s.cur.len sg.looks
    let look := s.accessAll false heads (s.partOf c k)
    if sg.seeks && sg.waits g then .next s
    else if ! look.2 then .next (s.asked look.1)
    else if let some q := s.spotBad heads then .next (s.mismatch (s.partOf c k) c q)
    else if let some l := sg.closed then trap { cause := 0x03, lane := l }
    else if sg.priv && k ≠ privSlot then trap { cause := 0x05 }
    else if ! sg.ok then trap { cause := 0x02 }
    else if ! sg.tiles then trap { cause := 0x22 }
    else if sg.waits g then .next s
    else if (s.core c).schk && sg.late g then trap { cause := 0x06 }
    else match eff g with
      | .go t => s.issued c k (g.bankReads (sg.allReads g)) (t.finish c k s.cur.len s.cur.stall sg.lat)
      | .jump t => s.issued c k (g.bankReads (sg.allReads g)) t
      | .hold => .next s
      | .ask t => .next (s.asked t)
      | .trap t => trap t

/-- The state with the issuing gang replaced. -/
def State.put (s : State) (g : Gang) : State := s.setGang s.cur.core s.cur.slot g

/-- The crew of the issuing gang. -/
def State.myCrew (s : State) (g : Gang) : Crew := s.crew s.cur.core g.crew

/-- Issues an instruction whose results are fixed-latency register writes and flags. -/
def issueWrites (s : State) (sig : Gang → Sig) (f : Gang → List (Loc × BitVec 128) × Flags) : Out :=
  issue s sig (fun g =>
    let r := f g
    .go (s.put ((g.schedule ((sig g).lat.getD 1) r.1).setFlags r.2)))

/-- An effect that needs the translations of some addresses: the walks are made first (R359); one that meets a sector that does not match
its check value has no effect in any lane (R390). -/
def State.withWalks (s : State) (g : Gang) (vas : List (BitVec 64)) (k : State → Res) : Res :=
  let c := s.cur.core
  match s.walked c (s.rootOf c s.cur.slot) vas with
  | (t, .ready) => k t
  | (t, .wait) => .ask t
  | (t, .bad q) => .go ((t.put g).mismatch (s.partOf c s.cur.slot) c q)

/-- A gang waits in its instruction for a condition (R187, R243). -/
def Gang.hold (g : Gang) (s : State) (w : WaitCond) : Gang :=
  { g with held := some { cond := w, len := s.cur.len, stall := s.cur.stall, since := s.clock } }

end Sys2Proof.Machine
end

