-- ==== Sys2Proof/Machine/IntAlu.lean ====
section
/-! DEFINITION. Integer arithmetic, logic, shifts, bit fields, addresses, moves and integer conversion (R99 to R109). -/

namespace Sys2Proof.Machine

/-- The issue of a register instruction: its destination and sources, each marked wide when it is a pair (R22, R27, R48),
the registers it reads besides, and its latency (R90). -/
def regSig (g : Gang) (d : Dst) (dw : Bool) (as : List (Src × Bool)) (more : List Nat) (lat : Nat) : Sig :=
  { ok := (if dw then g.dst64Ok d else g.dstOk d) && as.all (fun x => if x.2 then g.src64Ok x.1 else g.srcOk x.1) &&
      pathOk d (as.map (·.1))
    reads := as.flatMap (fun x => srcRegs x.2 x.1) ++ more
    writes := dstRegs dw d
    lat := some lat }

/-- The integer view of the gang's ETYPE (R99): width, signedness, and whether operands are pairs. -/
def Gang.iw (g : Gang) : Nat := (intView g.etype).1
def Gang.isg (g : Gang) : Bool := (intView g.etype).2
def Gang.wide (g : Gang) : Bool := g.iw = 64

/-- IntOperand: the element of a source under the gang's view (R99). -/
def Gang.int (g : Gang) (a : Src) (l : Nat) : Int := readInt g.iw g.isg (g.el g.iw a l)

/-- The exact integer rows of R104: x gives the exact result from a, b and the prior destination. -/
def exactOp (d : Dst) (a b : Src) (readsD sat : Bool) (x : Int → Int → Int → Int) (s : State) : Out :=
  issueWrites s
    (fun g => regSig g d g.wide [(a, g.wide), (b, g.wide)] (if readsD then dstRegs g.wide d else []) 4)
    (fun g => g.results d (fun l =>
      let r := intResult (x (g.int a l) (g.int b l) (if readsD then g.int (dstSrc d) l else 0)) g.iw g.isg (sat && g.sat)
      (wordsOf g.wide r.1, r.2)))

/-- The rows that form a w-bit pattern (R104, R106): x gives the pattern from w, a, b and the prior destination. A count
or field word in B is one 32-bit word (R106). -/
def patternOp (d : Dst) (a b : Src) (countB readsD : Bool) (x : Nat → Nat → Nat → Nat → Nat) (s : State) : Out :=
  issueWrites s
    (fun g => regSig g d g.wide [(a, g.wide), (b, g.wide && ! countB)] (if readsD then dstRegs g.wide d else []) 4)
    (fun g => g.results d (fun l =>
      let bv := if countB then (g.rd b l).toNat else g.el g.iw b l
      let dv := if readsD then g.el g.iw (dstSrc d) l else 0
      (wordsOf g.wide (fillBits g.iw g.isg (x g.iw (g.el g.iw a l) bv dv % 2 ^ g.iw)), 0#32)))

/-- IADD (R104): a + b, saturating under MODE.SAT. -/
def execIadd (d : Dst) (a b : Src) (s : State) : Out := exactOp d a b false true (fun a b _ => a + b) s
/-- ISUB (R104): a - b. -/
def execIsub (d : Dst) (a b : Src) (s : State) : Out := exactOp d a b false true (fun a b _ => a - b) s
/-- IMUL (R104): a × b. -/
def execImul (d : Dst) (a b : Src) (s : State) : Out := exactOp d a b false true (fun a b _ => a * b) s
/-- IMULH (R104): the upper half of the exact product. -/
def execImulh (d : Dst) (a b : Src) (s : State) : Out :=
  issueWrites s (fun g => regSig g d g.wide [(a, g.wide), (b, g.wide)] [] 4)
    (fun g => g.results d (fun l =>
      let r := intResult ((g.int a l * g.int b l) / ((2 ^ g.iw : Nat) : Int)) g.iw g.isg false
      (wordsOf g.wide r.1, r.2)))
/-- IMAD (R104): d + a × b. -/
def execImad (d : Dst) (a b : Src) (s : State) : Out := exactOp d a b true true (fun a b d => d + a * b) s
/-- IMIN (R104). -/
def execImin (d : Dst) (a b : Src) (s : State) : Out := exactOp d a b false false (fun a b _ => if b < a then b else a) s
/-- IMAX (R104). -/
def execImax (d : Dst) (a b : Src) (s : State) : Out := exactOp d a b false false (fun a b _ => if a < b then b else a) s
/-- IABS (R104). -/
def execIabs (d : Dst) (a : Src) (s : State) : Out := exactOp d a .zero false true (fun a _ _ => if a < 0 then -a else a) s
/-- INEG (R104). -/
def execIneg (d : Dst) (a : Src) (s : State) : Out := exactOp d a .zero false true (fun a _ _ => -a) s

/-- AND (R104). -/
def execAnd (d : Dst) (a b : Src) (s : State) : Out := patternOp d a b false false (fun _ a b _ => a &&& b) s
/-- OR (R104). -/
def execOr (d : Dst) (a b : Src) (s : State) : Out := patternOp d a b false false (fun _ a b _ => a ||| b) s
/-- XOR (R104). -/
def execXor (d : Dst) (a b : Src) (s : State) : Out := patternOp d a b false false (fun _ a b _ => a ^^^ b) s
/-- NOT (R104). -/
def execNot (d : Dst) (a : Src) (s : State) : Out := patternOp d a .zero false false (fun w a _ _ => 2 ^ w - 1 - a) s
/-- ANDN (R104): a AND NOT b. -/
def execAndn (d : Dst) (a b : Src) (s : State) : Out :=
  patternOp d a b false false (fun w a b _ => a &&& (2 ^ w - 1 - b)) s

/-- IADDC and ISUBB (R105): f gives the carry out and the pattern from w, a, b and the carry in, which is p95 of the lane,
or of the lowest active lane on the uniform path. -/
def carryOp (d : Dst) (a b : Src) (f : Nat → Nat → Nat → Nat → Bool × Nat) (s : State) : Out :=
  issueWrites s
    (fun g =>
      let sg := regSig g d g.wide [(a, g.wide), (b, g.wide)] [512 + 95] 4
      { sg with writes := (512 + 95) :: sg.writes })
    (fun g =>
      let one := fun l => f g.iw (g.el g.iw a l) (g.el g.iw b l) (if g.pred 95 l then 1 else 0)
      let regs := g.results d (fun l => (wordsOf g.wide (fillBits g.iw g.isg (one l).2), 0#32))
      let low := g.active.headD 0
      let carries := g.active.map (fun l =>
        (Loc.p 95 l, if (one (if dstIsUni d then low else l)).1 then 1#128 else 0#128))
      (regs.1 ++ carries, 0#32))

/-- IADDC (R105). -/
def execIaddc (d : Dst) (a b : Src) (s : State) : Out :=
  carryOp d a b (fun w a b c => (decide (2 ^ w ≤ a + b + c), (a + b + c) % 2 ^ w)) s
/-- ISUBB (R105). -/
def execIsubb (d : Dst) (a b : Src) (s : State) : Out :=
  carryOp d a b (fun w a b c => (decide (a < b + c), (a + 2 ^ (w + 1) - b - c) % 2 ^ w)) s

/-- SHL (R106). -/
def execShl (d : Dst) (a b : Src) (s : State) : Out :=
  patternOp d a b true false (fun w a c _ => if w ≤ c then 0 else a * 2 ^ c) s
/-- SHR (R106). -/
def execShr (d : Dst) (a b : Src) (s : State) : Out :=
  patternOp d a b true false (fun w a c _ => if w ≤ c then 0 else a / 2 ^ c) s
/-- SAR (R106): copies of bit w - 1 come in from the left. -/
def execSar (d : Dst) (a b : Src) (s : State) : Out :=
  patternOp d a b true false (fun w a c _ => wrapBits w (readInt w true a / ((2 ^ min c w : Nat) : Int))) s
/-- ROTL (R106). -/
def execRotl (d : Dst) (a b : Src) (s : State) : Out :=
  patternOp d a b true false (fun w a c _ => a * 2 ^ (c % w) + a / 2 ^ (w - c % w)) s

/-- The number of 1 bits among the low n bits. -/
def popCount : Nat → Nat → Nat
  | 0, _ => 0
  | n + 1, x => x % 2 + popCount n (x / 2)

/-- The low n bits in reverse order. -/
def reverseBits : Nat → Nat → Nat
  | 0, _ => 0
  | n + 1, x => x % 2 * 2 ^ n + reverseBits n (x / 2)

/-- POPC (R106). -/
def execPopc (d : Dst) (a : Src) (s : State) : Out := patternOp d a .zero true false (fun w a _ _ => popCount w a) s
/-- CLZ (R106). -/
def execClz (d : Dst) (a : Src) (s : State) : Out :=
  patternOp d a .zero true false (fun w a _ _ => if a = 0 then w else w - 1 - Nat.log2 a) s
/-- BREV (R106). -/
def execBrev (d : Dst) (a : Src) (s : State) : Out := patternOp d a .zero true false (fun w a _ _ => reverseBits w a) s

/-- BFX (R106). -/
def execBfx (d : Dst) (a b : Src) (s : State) : Out :=
  issueWrites s (fun g => regSig g d g.wide [(a, g.wide), (b, false)] [] 4)
    (fun g => g.results d (fun l =>
      let f := (g.rd b l).toNat
      let pos := f % 256
      let len := f / 256 % 256
      let n := min len (g.iw - pos)
      let bits := if len = 0 ∨ g.iw ≤ pos then 0 else wrapBits g.iw (readInt n g.isg (g.el g.iw a l / 2 ^ pos))
      (wordsOf g.wide (fillBits g.iw g.isg bits), 0#32)))
/-- BFI (R106). An element written back unchanged is written as any other, under R48. (log 89, DEDUCED) -/
def execBfi (d : Dst) (a b : Src) (s : State) : Out :=
  patternOp d a b true true (fun w a f d =>
    let pos := f % 256
    let len := f / 256 % 256
    if len = 0 ∨ w ≤ pos then d
    else
      let n := min len (w - pos)
      d % 2 ^ pos + a % 2 ^ n * 2 ^ pos + d / 2 ^ (pos + n) * 2 ^ (pos + n)) s

/-- LEA (R107). -/
def execLea (d : Dst) (a b : Src) (s : State) : Out :=
  issueWrites s (fun g => regSig g d false [(a, false), (b, false)] [] 4)
    (fun g => g.results d (fun l => ([g.rd a l + g.rd b l * BitVec.ofNat 32 (elemSize g.etype)], 0#32)))
/-- LEA64 (R107). -/
def execLea64 (d : Dst) (a b : Src) (s : State) : Out :=
  issueWrites s (fun g => regSig g d true [(a, true), (b, false)] [] 4)
    (fun g => g.results d (fun l =>
      (wordsOf true (g.rd64 a l + (g.rd b l).signExtend 64 * BitVec.ofNat 64 (elemSize g.etype)).toNat, 0#32)))

/-- MOV (R108). -/
def execMov (d : Dst) (a : Src) (s : State) : Out :=
  issueWrites s (fun g => regSig g d false [(a, false)] [] 4) (fun g => g.results d (fun l => ([g.rd a l], 0#32)))
/-- MOVL (R108). -/
def execMovl (d : Dst) (a : Src) (s : State) : Out :=
  issueWrites s (fun g => regSig g d true [(a, true)] [] 4)
    (fun g => g.results d (fun l => (wordsOf true (g.rd64 a l).toNat, 0#32)))
/-- SEL (R108): A where p94 is 1; on the uniform path p94 is that of the lowest active lane. -/
def execSel (d : Dst) (a b : Src) (s : State) : Out :=
  issueWrites s (fun g => regSig g d false [(a, false), (b, false)] [512 + 94] 4)
    (fun g => g.results d (fun l => ([if g.pred 94 l then g.rd a l else g.rd b l], 0#32)))

/-- CVTI (R109): integer to integer under R58. -/
def execCvti (d : Dst) (a : Src) (b : BitVec 8) (s : State) : Out :=
  let n := b.toNat
  issueWrites s
    (fun g =>
      let sg := regSig g d (g.etype = 6) [(a, n = 6)] [] 6
      { sg with ok := sg.ok && n ≤ 6 && g.etype ≤ 6 })
    (fun g => g.results d (fun l =>
      let v := intView n
      let r := intResult (readInt v.1 v.2 (g.el v.1 a l)) g.iw g.isg g.sat
      (wordsOf (g.etype = 6) r.1, r.2)))

end Sys2Proof.Machine
end

