-- ==== Sys2Proof/Machine/Predicate.lean ====
section
/-! DEFINITION. Compares, predicates and votes (R110 to R112, R128). -/

namespace Sys2Proof.Machine

/-- The issue of an instruction that writes a predicate from sources. -/
def predSig (g : Gang) (p : BitVec 8) (as : List (Src × Bool)) (lat : Nat) : Sig :=
  { ok := predOk p && as.all (fun x => if x.2 then g.src64Ok x.1 else g.srcOk x.1)
    reads := as.flatMap (fun x => srcRegs x.2 x.1)
    writes := [predReg p]
    lat := some lat }

/-- The integer compares (R110): x compares w-bit patterns. -/
def intCompare (d : BitVec 8) (a b : Src) (x : Nat → Nat → Nat → Bool) (s : State) : Out :=
  issueWrites s (fun g => predSig g d [(a, g.wide), (b, g.wide)] 4)
    (fun g => (g.predResults d (fun l => x g.iw (g.el g.iw a l) (g.el g.iw b l)), 0#32))

/-- ICMPEQ (R110). -/
def execIcmpeq (d : BitVec 8) (a b : Src) (s : State) : Out := intCompare d a b (fun _ x y => x = y) s
/-- ICMPNE (R110). -/
def execIcmpne (d : BitVec 8) (a b : Src) (s : State) : Out := intCompare d a b (fun _ x y => x ≠ y) s
/-- ICMPLT (R110): signed. -/
def execIcmplt (d : BitVec 8) (a b : Src) (s : State) : Out :=
  intCompare d a b (fun w x y => readInt w true x < readInt w true y) s
/-- ICMPLE (R110): signed. -/
def execIcmple (d : BitVec 8) (a b : Src) (s : State) : Out :=
  intCompare d a b (fun w x y => readInt w true x ≤ readInt w true y) s
/-- ICMPLTN (R110): unsigned. -/
def execIcmpltn (d : BitVec 8) (a b : Src) (s : State) : Out := intCompare d a b (fun _ x y => x < y) s
/-- ICMPLEN (R110): unsigned. -/
def execIcmplen (d : BitVec 8) (a b : Src) (s : State) : Out := intCompare d a b (fun _ x y => x ≤ y) s

/-- The types that the floating-point compares decode (R111). -/
def fcmpType (e : Nat) : Bool := e = 7 || e = 8 || e = 9 || e = 10 || e = 11 || e = 12

/-- The value of a source element of a floating type in a lane. -/
def Gang.fv (g : Gang) (a : Src) (l : Nat) : FVal := elementValue g.etype (g.rd a l).toNat

/-- The floating-point compares (R111): x decides ordered operands; nan is the answer with a NaN. -/
def floatCompare (d : BitVec 8) (a b : Src) (nan : Bool) (x : FVal → FVal → Bool) (s : State) : Out :=
  issueWrites s
    (fun g =>
      let sg := predSig g d [(a, false), (b, false)] 4
      { sg with ok := sg.ok && fcmpType g.etype })
    (fun g =>
      (g.predResults d (fun l =>
        let p := g.fv a l
        let q := g.fv b l
        if p.isNan || q.isNan then nan else x p q),
       if g.active.any (fun l => (g.fv a l).isSig || (g.fv b l).isSig) then flagNV else 0#32))

/-- FCMPEQ (R111). -/
def execFcmpeq (d : BitVec 8) (a b : Src) (s : State) : Out := floatCompare d a b false (fun p q => p.cmp q = .eq) s
/-- FCMPNE (R111). -/
def execFcmpne (d : BitVec 8) (a b : Src) (s : State) : Out := floatCompare d a b true (fun p q => p.cmp q ≠ .eq) s
/-- FCMPLT (R111). -/
def execFcmplt (d : BitVec 8) (a b : Src) (s : State) : Out := floatCompare d a b false (fun p q => p.cmp q = .lt) s
/-- FCMPLE (R111). -/
def execFcmple (d : BitVec 8) (a b : Src) (s : State) : Out := floatCompare d a b false (fun p q => p.cmp q ≠ .gt) s
/-- FCMPUN (R111). -/
def execFcmpun (d : BitVec 8) (a b : Src) (s : State) : Out := floatCompare d a b true (fun _ _ => false) s
/-- FCMPORD (R111). -/
def execFcmpord (d : BitVec 8) (a b : Src) (s : State) : Out := floatCompare d a b false (fun _ _ => true) s

/-- The predicate rows of R112: x gives the result from the source predicates. -/
def predOp (d a b : BitVec 8) (x : Bool → Bool → Bool) (s : State) : Out :=
  issueWrites s
    (fun _ => { ok := predOk d && predOk a && predOk b, reads := [predReg a, predReg b], writes := [predReg d],
                lat := some 4 })
    (fun g => (g.predResults d (fun l => x (g.pred a.toNat l) (g.pred b.toNat l)), 0#32))

/-- PAND (R112). -/
def execPand (d a b : BitVec 8) (s : State) : Out := predOp d a b (fun x y => x && y) s
/-- POR (R112). -/
def execPor (d a b : BitVec 8) (s : State) : Out := predOp d a b (fun x y => x || y) s
/-- PXOR (R112). -/
def execPxor (d a b : BitVec 8) (s : State) : Out := predOp d a b (fun x y => x != y) s
/-- PNOT (R112). -/
def execPnot (d a : BitVec 8) (s : State) : Out := predOp d a a (fun x _ => !x) s
/-- PMOV (R112). -/
def execPmov (d a : BitVec 8) (s : State) : Out := predOp d a a (fun x _ => x) s

/-- PTOV (R112): a uniform destination is illegal. -/
def execPtov (d : Dst) (a : BitVec 8) (s : State) : Out :=
  issueWrites s
    (fun g => { ok := g.dstOk d && dstVec d && predOk a, reads := [predReg a], writes := dstRegs false d, lat := some 4 })
    (fun g => g.results d (fun l => ([if g.pred a.toNat l then 1#32 else 0#32], 0#32)))
/-- VTOP (R112). -/
def execVtop (d : BitVec 8) (a : Src) (s : State) : Out :=
  issueWrites s (fun g => predSig g d [(a, false)] 4) (fun g => (g.predResults d (fun l => g.rd a l ≠ 0#32), 0#32))

/-- The votes that write a predicate (R128): x combines the active lanes. -/
def voteOp (d a : BitVec 8) (x : List Bool → Bool) (s : State) : Out :=
  issueWrites s
    (fun _ => { ok := predOk d && predOk a, reads := [predReg a], writes := [predReg d], lat := some 6 })
    (fun g => (g.predResults d (fun _ => x (g.active.map (fun l => g.pred a.toNat l))), 0#32))

/-- VOTEALL (R128). -/
def execVoteall (d a : BitVec 8) (s : State) : Out := voteOp d a (fun xs => xs.all id) s
/-- VOTEANY (R128). -/
def execVoteany (d a : BitVec 8) (s : State) : Out := voteOp d a (fun xs => xs.any id) s
/-- VOTEBAL (R128): the ballot goes to every active lane, or once to a uniform register. -/
def execVotebal (d : Dst) (a : BitVec 8) (s : State) : Out :=
  issueWrites s
    (fun g => { ok := g.dstOk d && predOk a, reads := [predReg a], writes := dstRegs false d, lat := some 6 })
    (fun g => g.results d (fun _ => ([maskOf (g.active.filter (fun l => g.pred a.toNat l))], 0#32)))

end Sys2Proof.Machine
end

