-- ==== Sys2Proof/Machine/Transc.lean ====
section
/-! DEFINITION. The transcendental functions and square roots of R143 and R144. Each answers the exact value, or the
value cut off at 640 fractional bits with its sticky mark, which RoundTo then rounds once; and the flags that do not come
from rounding (NV, DZ). -/

namespace Sys2Proof.Machine

/-- Fractional bits of the working precision. -/
def fixP : Nat := 640

/-- ln 2 with 640 fractional bits. -/
def ln2Fix : Nat :=
  0xB17217F7D1CF79ABC9E3B39803F2F6AF40F343267298B62D8A0D175B8BAAFA2BE7B876206DEBAC98559552FB4AFA1B10ED2EAE35C138214427573B291169B8253E96CA16224AE8C51ACBDA11317C387E

/-- π/2 with 900 fractional bits. -/
def halfPiFix : Nat :=
  0x1921FB54442D18469898CC51701B839A252049C1114CF98E804177D4C76273644A29410F31C6809BBDF2A33679A748636605614DBE4BE286E9FC26ADADAA3848BC90B6AECC4BCFD8DE89885D34C6FDAD617FEB96DE80D6FDBDC70D7F6B5133F4B5D3E4822F8963FCC9250CCA3D9C8B67B8

/-- The integer square root, one bit at a time from bit n. -/
def isqrtAux (x : Nat) : Nat → Nat → Nat
  | 0, r => if (r + 1) * (r + 1) ≤ x then r + 1 else r
  | n + 1, r => let c := r + 2 ^ (n + 1); isqrtAux x n (if c * c ≤ x then c else r)

/-- The floor of the square root of x. -/
def isqrt (x : Nat) : Nat := isqrtAux x (Nat.log2 x / 2 + 1) 0

/-- Terms of the exponential series of x (fixed point), from the term t with index k. -/
def expTerms (x : Nat) : Nat → Nat → Nat → Nat → Nat
  | 0, _, _, acc => acc
  | n + 1, k, t, acc => let t' := t * x / (2 ^ fixP * k); expTerms x n (k + 1) t' (acc + t')

/-- e^x for a fixed-point x below 1. -/
def expFix (x : Nat) : Nat := expTerms x 150 1 (2 ^ fixP) (2 ^ fixP)

/-- Terms of the atanh series of t: t^(2j+1)/(2j+1). -/
def atanhTerms (t2 : Nat) : Nat → Nat → Nat → Nat → Nat
  | 0, _, _, acc => acc
  | n + 1, k, p, acc => atanhTerms t2 n (k + 2) (p * t2 / 2 ^ fixP) (acc + p / k)

/-- ln m for a fixed-point m from 1 to 2. -/
def lnFix (m : Nat) : Nat :=
  let t := (m - 2 ^ fixP) * 2 ^ fixP / (m + 2 ^ fixP)
  2 * atanhTerms (t * t / 2 ^ fixP) 220 1 t 0

/-- Alternating series of sine (from k = 2) or cosine (from k = 1) of a fixed-point x: the terms already carry the sign. -/
def trigTerms (x2 : Nat) : Nat → Nat → Int → Int → Int
  | 0, _, _, acc => acc
  | n + 1, k, t, acc =>
    let t' : Int := -(t * x2 / (2 ^ fixP * (k * (k + 1)) : Nat))
    trigTerms x2 n (k + 2) t' (acc + t')

def sinFix (x : Nat) : Int := trigTerms (x * x / 2 ^ fixP) 90 2 x x
def cosFix (x : Nat) : Int := trigTerms (x * x / 2 ^ fixP) 90 1 (2 ^ fixP : Nat) (2 ^ fixP : Nat)

/-- An irrational value cut off toward zero at the working precision. -/
def cutOff (neg : Bool) (v : Int) : FVal :=
  let n := if v < 0 then !neg else neg
  let m := if v < 0 then v.natAbs - 1 else v.natAbs
  .fin n (if m = 0 then 1 else m) (-(fixP : Int)) true

/-- A finite value times 2^p, rounded down, for non-negative total exponents. -/
def fixOf (mag : Nat) (e : Int) (p : Nat) : Nat := mag * pow2 (e + p) / pow2 (-(e + p))

/-- The quotient 1/mag·2^-e. -/
def recipV (neg : Bool) (mag : Nat) (e : Int) : FVal :=
  let k := Nat.log2 mag + 80
  .fin neg (2 ^ k / mag) (-(k : Int) - e) (2 ^ k % mag ≠ 0)

/-- 1/a (R144). -/
def frcpV : FVal → FVal × Flags
  | .nan s => (.nan s, 0)
  | .inf n => (.zero n, 0)
  | .zero n => (.inf n, flagDZ)
  | .fin n m e _ => (recipV n m e, 0)

/-- √a (R144). -/
def fsqrtV : FVal → FVal × Flags
  | .nan s => (.nan s, 0)
  | .inf false => (.inf false, 0)
  | .inf true => (.nan false, flagNV)
  | .zero n => (.zero n, 0)
  | .fin true _ _ _ => (.nan false, flagNV)
  | .fin false m e _ =>
    let odd := e % 2 ≠ 0
    let m1 := (if odd then 2 * m else m) * 2 ^ 120
    let e1 := (if odd then e - 1 else e) - 120
    let r := isqrt m1
    (.fin false r (e1 / 2) (r * r ≠ m1), 0)

/-- 1/√a (R144). -/
def frsqV : FVal → FVal × Flags
  | .nan s => (.nan s, 0)
  | .inf false => (.zero false, 0)
  | .inf true => (.nan false, flagNV)
  | .zero n => (.inf n, flagDZ)
  | .fin true _ _ _ => (.nan false, flagNV)
  | .fin false m e _ =>
    let odd := e % 2 ≠ 0
    let m1 := if odd then 2 * m else m
    let e1 := if odd then e - 1 else e
    let k := Nat.log2 m1 + 160
    let k2 := if k % 2 = 0 then k else k + 1
    let q := 2 ^ k2 / m1
    let r := isqrt q
    (.fin false r (-((k2 : Int) / 2) - e1 / 2) (r * r ≠ q ∨ 2 ^ k2 % m1 ≠ 0), 0)

/-- 2^a (R144). -/
def fexp2V : FVal → FVal × Flags
  | .nan s => (.nan s, 0)
  | .inf false => (.inf false, 0)
  | .inf true => (.zero false, 0)
  | .zero _ => (.fin false 1 0 false, 0)
  | .fin neg m e _ =>
    if e + (Nat.log2 m : Int) ≥ 10 then
      (if neg then .fin false 1 (-600) true else .fin false (2 ^ 100) 512 true, 0)
    else
      let a : Int := (if neg then -1 else 1) * (fixOf m e fixP : Int)
      let n := a / (2 ^ fixP : Nat)
      let f := (a % (2 ^ fixP : Nat)).toNat
      if f = 0 then (.fin false 1 n false, 0)
      else (.fin false (expFix (f * ln2Fix / 2 ^ fixP)) (n - fixP) true, 0)

/-- log₂ a (R144). -/
def flog2V : FVal → FVal × Flags
  | .nan s => (.nan s, 0)
  | .inf false => (.inf false, 0)
  | .inf true => (.nan false, flagNV)
  | .zero _ => (.inf true, flagDZ)
  | .fin true _ _ _ => (.nan false, flagNV)
  | .fin false m e _ =>
    let l := Nat.log2 m
    let whole := e + (l : Int)
    if m = 2 ^ l then (.ofInt whole, 0)
    else
      let v : Int := whole * (2 ^ fixP : Nat) + (lnFix (m * 2 ^ (fixP - l)) * 2 ^ fixP / ln2Fix : Nat)
      (cutOff false v, 0)

/-- sin a or cos a at the exact operand (R143, R144). -/
def trigV (cosine neg : Bool) (m : Nat) (e : Int) : FVal :=
  let a := fixOf m e 900
  let k := a / halfPiFix
  let r := (a % halfPiFix) / 2 ^ 260
  let quadrant := (if cosine then k + 1 else k) % 4
  let v := if quadrant % 2 = 0 then sinFix r else cosFix r
  cutOff ((neg && !cosine) != (quadrant ≥ 2)) v

def fsinV : FVal → FVal × Flags
  | .nan s => (.nan s, 0)
  | .inf _ => (.nan false, flagNV)
  | .zero n => (.zero n, 0)
  | .fin n m e _ => (trigV false n m e, 0)

def fcosV : FVal → FVal × Flags
  | .nan s => (.nan s, 0)
  | .inf _ => (.nan false, flagNV)
  | .zero _ => (.fin false 1 0 false, 0)
  | .fin n m e _ => (trigV true n m e, 0)

/-- tanh a (R144). -/
def ftanhV : FVal → FVal × Flags
  | .nan s => (.nan s, 0)
  | .inf n => (.fin n 1 0 false, 0)
  | .zero n => (.zero n, 0)
  | .fin neg m e _ =>
    if e + (Nat.log2 m : Int) ≥ 6 then (.fin neg (2 ^ fixP - 1) (-(fixP : Int)) true, 0)
    else
      let y := 2 * fixOf m e fixP
      let n := y / ln2Fix
      let x := expFix (y % ln2Fix) * 2 ^ n
      let t := (x - 2 ^ fixP) * 2 ^ fixP / (x + 2 ^ fixP)
      (.fin neg (if t = 0 then 1 else t) (-(fixP : Int)) true, 0)

end Sys2Proof.Machine
end

