-- ==== Sys2Proof/Machine/Float.lean ====
section
/-! DEFINITION. Floating point on vectors: arithmetic, helpers, transcendentals, packed pairs and dot products (R134 to
R144, R148, R149). -/

namespace Sys2Proof.Machine

/-- ETYPE 10 to 12 (R134). -/
def floatType (e : Nat) : Bool := e = 10 || e = 11 || e = 12

/-- The gang's float format, where its ETYPE names one. -/
def Gang.fmt (g : Gang) : Fmt := (fmtOf g.etype).getD fmtFP32

/-- FloatResult (R135): the pattern and its flags. -/
def Gang.floatResult (g : Gang) (x : FVal) : Nat × Flags := roundTo g.fmt x (.mode g.rnd) g.sat

/-- A result word with flags. -/
def oneWord (r : Nat × Flags) : List (BitVec 32) × Flags := ([BitVec.ofNat 32 r.1], r.2)

/-- The invalid-operation flag of a sum or product that had no value. -/
def nvIf (b : Bool) : Flags := if b then flagNV else 0#32

/-- A float instruction of ETYPE 10 to 12 over sources: f gives a lane's word and flags. An illegal ETYPE ranks with the field rules
(R82, R134). (log 90, DEDUCED) -/
def floatOp (d : Dst) (as : List Src) (readsD : Bool) (lat : Nat) (f : Gang → Nat → Nat × Flags) (s : State) : Out :=
  issueWrites s
    (fun g =>
      let sg := regSig g d false (as.map (fun a => (a, false))) (if readsD then dstRegs false d else []) lat
      { sg with ok := sg.ok && floatType g.etype })
    (fun g => g.results d (fun l => oneWord (f g l)))

/-- The sum of terms as a float result, with the flag of an invalid sum. -/
def Gang.floatSum (g : Gang) (xs : List FVal) (bad : Bool) : Nat × Flags :=
  let x := sumV (if g.rnd = 5 then 0 else g.rnd) xs
  let r := g.floatResult x.1
  (r.1, r.2 ||| nvIf (x.2 || bad))

/-- FADD (R137). (log 18, DEDUCED) -/
def execFadd (d : Dst) (a b : Src) (s : State) : Out :=
  floatOp d [a, b] false 4 (fun g l => g.floatSum [g.fv a l, g.fv b l] false) s
/-- FSUB (R137). -/
def execFsub (d : Dst) (a b : Src) (s : State) : Out :=
  floatOp d [a, b] false 4 (fun g l => g.floatSum [g.fv a l, (g.fv b l).neg] false) s
/-- FMUL (R137). -/
def execFmul (d : Dst) (a b : Src) (s : State) : Out :=
  floatOp d [a, b] false 4 (fun g l =>
    let p := (g.fv a l).mul (g.fv b l)
    let r := g.floatResult p.1
    (r.1, r.2 ||| nvIf p.2)) s
/-- FFMA (R137): one rounding of a × b + d. -/
def execFfma (d : Dst) (a b : Src) (s : State) : Out :=
  floatOp d [a, b] true 4 (fun g l =>
    let p := (g.fv a l).mul (g.fv b l)
    g.floatSum [p.1, g.fv (dstSrc d) l] p.2) s
/-- FFMS (R137): one rounding of a × b - d. -/
def execFfms (d : Dst) (a b : Src) (s : State) : Out :=
  floatOp d [a, b] true 4 (fun g l =>
    let p := (g.fv a l).mul (g.fv b l)
    g.floatSum [p.1, (g.fv (dstSrc d) l).neg] p.2) s

/-- The order and NaN rules of R138 on two patterns of a format: the chosen pattern bit for bit, and NV for a signalling
operand. -/
def pickBits (f : Fmt) (wantMax : Bool) (a b : Nat) : Nat × Flags :=
  let x := f.value a
  let y := f.value b
  let nv := nvIf (x.isSig || y.isSig)
  if x.isNan && y.isNan then (f.nanBits, nv)
  else if x.isNan then (b, nv)
  else if y.isNan then (a, nv)
  else
    let c := x.cmpZ y
    (if wantMax then (if c = .lt then b else a) else (if c = .gt then b else a), nv)

/-- FMIN (R138). -/
def execFmin (d : Dst) (a b : Src) (s : State) : Out :=
  floatOp d [a, b] false 4 (fun g l => pickBits g.fmt false (g.el g.fmt.width a l) (g.el g.fmt.width b l)) s
/-- FMAX (R138). -/
def execFmax (d : Dst) (a b : Src) (s : State) : Out :=
  floatOp d [a, b] false 4 (fun g l => pickBits g.fmt true (g.el g.fmt.width a l) (g.el g.fmt.width b l)) s

/-- The sign rows of R139: x gives the pattern from the format and the magnitude and sign of the operand. -/
def signOp (d : Dst) (a : Src) (x : Bool → Bool) (s : State) : Out :=
  floatOp d [a] false 4 (fun g l =>
    let f := g.fmt
    let bits := g.el f.width a l
    let v := f.value bits
    if v.isNan then (f.nanBits, nvIf v.isSig)
    else (f.signed (x (decide (2 ^ (f.eb + f.fb) ≤ bits))) (bits % 2 ^ (f.eb + f.fb)), 0#32)) s

/-- FABS (R139). -/
def execFabs (d : Dst) (a : Src) (s : State) : Out := signOp d a (fun _ => false) s
/-- FNEG (R139). -/
def execFneg (d : Dst) (a : Src) (s : State) : Out := signOp d a (fun n => !n) s

/-- The class bit of an element (R140). -/
def classBit (etype bits : Nat) : Nat :=
  match elementValue etype bits with
  | .nan true => 8
  | .nan false => 9
  | .inf neg => if neg then 0 else 7
  | .zero neg => if neg then 3 else 4
  | .fin neg mag _ _ =>
    let sub := match fmtOf etype with
      | some f => decide (mag < 2 ^ f.fb)
      | none => false
    if sub then (if neg then 2 else 5) else (if neg then 1 else 6)

/-- FCLASS (R140). -/
def execFclass (d : Dst) (a : Src) (s : State) : Out :=
  issueWrites s
    (fun g =>
      let sg := regSig g d false [(a, false)] [] 4
      { sg with ok := sg.ok && fcmpType g.etype })
    (fun g => g.results d (fun l => ([BitVec.ofNat 32 (2 ^ classBit g.etype (g.el (elemBits g.etype) a l))], 0#32)))

/-- An exact value times a power of two. -/
def FVal.shift (n : Int) : FVal → FVal
  | .fin s m e k => .fin s m (e + n) k
  | x => x

/-- FSCALE (R141): B is a signed word whatever ETYPE holds. -/
def execFscale (d : Dst) (a b : Src) (s : State) : Out :=
  floatOp d [a, b] false 4 (fun g l => g.floatResult ((g.fv a l).shift (g.rd b l).toInt)) s

/-- A value made integral under a rounding code; a zero keeps the sign (R142). -/
def FVal.integral (rnd : Nat) : FVal → FVal
  | .fin neg m e _ =>
    let k := (roundMag rnd neg m e false 0).1
    if k = 0 then .zero neg else .fin neg k 0 false
  | x => x

/-- FFLOOR (R142). -/
def execFfloor (d : Dst) (a : Src) (s : State) : Out :=
  floatOp d [a] false 4 (fun g l => g.floatResult ((g.fv a l).integral 3)) s
/-- FROUND (R142). -/
def execFround (d : Dst) (a : Src) (s : State) : Out :=
  floatOp d [a] false 4 (fun g l => g.floatResult ((g.fv a l).integral (if g.rnd = 5 then 0 else g.rnd))) s
/-- FFRACT (R142): a - Trunc(a). -/
def execFfract (d : Dst) (a : Src) (s : State) : Out :=
  floatOp d [a] false 4 (fun g l =>
    match g.fv a l with
    | .inf _ => ((g.floatResult (.nan false)).1, flagNV)
    | .fin neg m e _ =>
      let frac := if 0 ≤ e then 0 else m % pow2 (-e)
      g.floatResult (if frac = 0 then .zero neg else .fin neg frac e false)
    | x => g.floatResult x) s

/-- A function of R143: the exact value of y and the flags of its special cases, rounded once. -/
def transOp (d : Dst) (a : Src) (lat : Nat) (y : FVal → FVal × Flags) (s : State) : Out :=
  floatOp d [a] false lat (fun g l =>
    let v := y (g.fv a l)
    let r := g.floatResult v.1
    (r.1, r.2 ||| v.2)) s

/-- FRCP (R143, R144). -/
def execFrcp (d : Dst) (a : Src) (s : State) : Out := transOp d a 14 frcpV s
/-- FRSQ (R143, R144). -/
def execFrsq (d : Dst) (a : Src) (s : State) : Out := transOp d a 14 frsqV s
/-- FSQRT (R143, R144). -/
def execFsqrt (d : Dst) (a : Src) (s : State) : Out := transOp d a 18 fsqrtV s
/-- FEXP2 (R143, R144). (log 17, DEDUCED) -/
def execFexp2 (d : Dst) (a : Src) (s : State) : Out := transOp d a 14 fexp2V s
/-- FLOG2 (R143, R144). (log 17, DEDUCED) -/
def execFlog2 (d : Dst) (a : Src) (s : State) : Out := transOp d a 14 flog2V s
/-- FSIN (R143, R144). (log 17, DEDUCED) -/
def execFsin (d : Dst) (a : Src) (s : State) : Out := transOp d a 14 fsinV s
/-- FCOS (R143, R144). (log 17, DEDUCED) -/
def execFcos (d : Dst) (a : Src) (s : State) : Out := transOp d a 14 fcosV s
/-- FTANH (R143, R144). (log 17, DEDUCED) -/
def execFtanh (d : Dst) (a : Src) (s : State) : Out := transOp d a 14 ftanhV s

/-! ### Packed pairs and dot products (R148, R149) -/

/-- Element k of width w of a word. -/
def elemOf (w k : Nat) (x : BitVec 32) : Nat := x.toNat / 2 ^ (w * k) % 2 ^ w

/-- An instruction on two 16-bit elements: f gives each element's result. -/
def pairOp (d : Dst) (a b : Src) (readsD : Bool) (f : Gang → FVal → FVal → FVal → Nat × Flags) (s : State) : Out :=
  issueWrites s
    (fun g =>
      let sg := regSig g d false [(a, false), (b, false)] (if readsD then dstRegs false d else []) 4
      { sg with ok := sg.ok && (g.etype = 10 || g.etype = 11) })
    (fun g => g.results d (fun l =>
      let el := fun (x : Src) k => g.fmt.value (elemOf 16 k (g.rd x l))
      let r := fun k => f g (el a k) (el b k) (el (dstSrc d) k)
      ([BitVec.ofNat 32 ((r 0).1 + 65536 * (r 1).1)], (r 0).2 ||| (r 1).2)))

/-- HADD2 (R148). -/
def execHadd2 (d : Dst) (a b : Src) (s : State) : Out := pairOp d a b false (fun g x y _ => g.floatSum [x, y] false) s
/-- HMUL2 (R148). -/
def execHmul2 (d : Dst) (a b : Src) (s : State) : Out :=
  pairOp d a b false (fun g x y _ =>
    let p := x.mul y
    let r := g.floatResult p.1
    (r.1, r.2 ||| nvIf p.2)) s
/-- HFMA2 (R148). -/
def execHfma2 (d : Dst) (a b : Src) (s : State) : Out :=
  pairOp d a b true (fun g x y z =>
    let p := x.mul y
    g.floatSum [p.1, z] p.2) s

/-- The float dot product of n elements of width w, accumulated in FP32 and rounded once (R149). -/
def Gang.dotFloat (g : Gang) (n w : Nat) (a b d : BitVec 32) : Nat × Flags :=
  let ps := (List.range n).map (fun k =>
    (elementValue g.etype (elemOf w k a)).mul (elementValue g.etype (elemOf w k b)))
  let x := sumV (if g.rnd = 5 then 0 else g.rnd) (fmtFP32.value d.toNat :: ps.map (·.1))
  let r := roundTo fmtFP32 x.1 (.mode g.rnd) g.sat
  (r.1, r.2 ||| nvIf (x.2 || ps.any (·.2)))

/-- FDOT2 (R149). -/
def execFdot2 (d : Dst) (a b : Src) (s : State) : Out :=
  issueWrites s
    (fun g =>
      let sg := regSig g d false [(a, false), (b, false)] (dstRegs false d) 4
      { sg with ok := sg.ok && (g.etype = 10 || g.etype = 11) })
    (fun g => g.results d (fun l => oneWord (g.dotFloat 2 16 (g.rd a l) (g.rd b l) (g.rd (dstSrc d) l))))
/-- FDOT4 (R149). -/
def execFdot4 (d : Dst) (a b : Src) (s : State) : Out :=
  issueWrites s
    (fun g =>
      let sg := regSig g d false [(a, false), (b, false)] (dstRegs false d) 6
      { sg with ok := sg.ok && (g.etype ≤ 1 || g.etype = 7 || g.etype = 8 || g.etype = 9) })
    (fun g => g.results d (fun l =>
      let x := g.rd a l
      let y := g.rd b l
      let z := g.rd (dstSrc d) l
      if g.etype ≤ 1 then
        let t := (List.range 4).foldl (fun (t : Int) k =>
          t + readInt 8 g.isg (elemOf 8 k x) * readInt 8 g.isg (elemOf 8 k y)) z.toInt
        oneWord (intResult t 32 true g.sat)
      else oneWord (g.dotFloat 4 8 x y z)))

end Sys2Proof.Machine
end

