-- ==== Sys2Proof/Machine/Coherence.lean ====
section
/-! DEFINITION. The write-update directory, the home slices and the L1s (R168, R171, R172, R174, R276 to R290), with the
waits that the host link imposes on a line (R364 to R369). -/

namespace Sys2Proof.Machine

/-! ### Application at the home (R171, R172, R276, R287, R389) -/

/-- The operation of R169 on an element of z bytes: op numbers ADD, MIN, MAX, AND, OR, XOR, XCH, CAS from 0; m is the
element, b the operand, cmp the new value of a CAS (R170). -/
def atomicNew (op ty z m b cmp : Nat) : Nat :=
  let wrap := 2 ^ (8 * z)
  let x := readInt (8 * z) (ty = 4 || ty = 6) m
  let y := readInt (8 * z) (ty = 4 || ty = 6) b
  match op with
  | 0 =>
    if ty = 12 then (roundToFP32 (sumV 0 [fmtFP32.value m, fmtFP32.value b]).1 0).1
    else (m + b) % wrap
  | 1 => if ty = 12 then (pickBits fmtFP32 false m b).1 else if y < x then b % wrap else m
  | 2 => if ty = 12 then (pickBits fmtFP32 true m b).1 else if x < y then b % wrap else m
  | 3 => m &&& (b % wrap)
  | 4 => m ||| (b % wrap)
  | 5 => m ^^^ (b % wrap)
  | 6 => b % wrap
  | _ => if m = b % wrap then cmp % wrap else m

/-- One BF16 element of a row operation (R172). -/
def rowNew (max : Bool) (m b : Nat) : Nat :=
  if max then (pickBits fmtBF16 true m b).1
  else (roundTo fmtBF16 (sumV 0 [fmtBF16.value m, fmtBF16.value b]).1 (.mode 0) false).1

/-- The bytes of a row after a row operation, from its bytes and the operands. -/
def rowBytes (max : Bool) : List (BitVec 8) → List (BitVec 8) → List (BitVec 8)
  | a :: b :: rest, x :: y :: more => leBytes 2 (rowNew max (leNat [a, b]) (leNat [x, y])) ++ rowBytes max rest more
  | _, _ => []

/-- What an operation writes at its home, with the bytes it finds there; none when it writes nothing. -/
def MemOp.writes (o : MemOp) (s : State) : List (Nat × BitVec 8) :=
  match o.kind with
  | .atomic op ty cmp =>
    o.spans.flatMap (fun x =>
      let z := x.data.length
      let m := leNat (s.bytes x.addr z)
      let r := atomicNew op ty z m (leNat x.data) cmp.toNat
      ({ x with data := leBytes z r }).cells)
  | .row max => o.spans.flatMap (fun x => ({ x with data := rowBytes max (s.bytes x.addr x.data.length) x.data }).cells)
  | .stc =>
    let ok : Bool := match o.expect with
      | none => false
      | some st => o.spans.all (fun x => decide ((s.stamped x.addr x.data.length).map (·.2) = st))
    if ok then o.spans.flatMap Span.cells else []
  | .cctl _ | .read _ | .block _ _ => []
  | .store | .bytes | .publish _ => o.spans.flatMap Span.cells

/-- The operation reads what it finds: every sector it touches must match its check value (R389). -/
def MemOp.readsHome (o : MemOp) : Bool :=
  match o.kind with
  | .atomic _ _ _ | .row _ | .read _ | .block _ _ => true
  | _ => false

/-- A load element's register value from its bytes (R48, R156). -/
def partValue (z : Nat) (signed : Bool) (bs : List (BitVec 8)) : BitVec 512 :=
  BitVec.ofNat 512 (fillBits (8 * z) signed (leNat bs))

/-- Row r of a 32 by 32 byte block, or column r when transposed. -/
def blockRow (tr : Bool) (p : List (BitVec 8)) (r : Nat) : List (BitVec 8) :=
  (List.range 32).map (fun j => p.getD (if tr then 32 * j + r else 32 * r + j) 0#8)

/-- A scale record with its row and column exponents exchanged (R62, R64). -/
def swapRecord (r : BitVec 256) : BitVec 256 :=
  (r &&& 0xFF#256) ||| (((r >>> 8).setWidth 96).setWidth 256 <<< 104) ||| (((r >>> 104).setWidth 96).setWidth 256 <<< 8)

/-- What lane l of a TLDSC receives from a payload and its record (R192). -/
def blockLane (tr : Bool) (payload record : List (BitVec 8)) (l : Nat) : BitVec 512 :=
  let rec0 : BitVec 256 := BitVec.ofNat 256 (leNat record)
  let r := if tr then swapRecord rec0 ||| (rec0 >>> 200 <<< 200) else rec0
  let top : Nat := if l < 8 then r.toNat / 2 ^ (32 * l) % 2 ^ 32 else 0
  BitVec.ofNat 512 (leNat (blockRow tr payload l) + top * 2 ^ 256)

/-- Fills in the parts of a load that stand on given lanes and have no value yet. -/
def LoadOp.serve (x : LoadOp) (lanes : List Nat) (f : LoadPart → BitVec 512 × List Nat) : LoadOp :=
  { x with parts := x.parts.map (fun (p : LoadPart) =>
      if p.lane ∈ lanes && p.val.isNone then
        let r := f p
        { p with val := some r.1, stamps := r.2 }
      else p) }

/-- Changes a load record of a core. -/
def State.modLoad (s : State) (c id : Nat) (f : LoadOp → LoadOp) : State :=
  s.modCore c (fun x => { x with loads := x.loads.map (fun o => if o.id = id then f o else o) })

/-- The parts that an operation answers, from the bytes found at the home (R168, R171, R166, R192). -/
def State.answer (s : State) (o : MemOp) (old : State) (wrote : Bool) : State :=
  let c := o.core
  match o.load with
  | none => s
  | some id =>
    s.modLoad c id (fun x =>
      match o.kind with
      | .stc => x.serve [o.lane] (fun _ => (if wrote then 1#512 else 0#512, []))
      | .read lanes =>
        x.serve lanes (fun p =>
          if p.locs.length ≤ 2 then (partValue p.z p.signed (old.bytes p.addr p.z), (old.stamped p.addr p.z).map (·.2))
          else (BitVec.ofNat 512 (leNat (old.bytes p.addr p.z)), []))
      | .block tr lanes =>
        match o.spans with
        | [p, r] => x.serve lanes (fun q =>
            (blockLane tr (old.bytes p.addr 1024) (old.bytes r.addr 32) q.lane, []))
        | _ => x
      | _ => x.serve [o.lane] (fun p => (partValue p.z p.signed (old.bytes p.addr p.z), [])))

/-- A write by a lane follows its own reservation, and that of its STC in flight, where nothing came between (R168). -/
def restamp (addr : Nat) (stamps : List Nat) (before : Nat → Nat) (cs : List (Nat × BitVec 8)) (w : Nat) : List Nat :=
  stamps.mapIdx (fun i t => if cs.any (fun x => x.1 = addr + i) && before (addr + i) = t then w else t)

/-- The lane whose write a byte of an operation is: a row operation takes element e from lane e ÷ 8 (R172). -/
def MemOp.laneAt (o : MemOp) (a : Nat) : Nat :=
  match o.kind with
  | .row _ => (a - ((o.spans.map (·.addr)).headD 0)) / 16
  | _ => o.lane

/-- The reservations of an operation's lanes, and their STCs in flight, after it wrote bytes. -/
def State.followOwn (s : State) (o : MemOp) (old : State) (cs : List (Nat × BitVec 8)) : State :=
  let before := fun a => mget 0 old.stamps a
  let own := fun (l : Nat) => cs.filter (fun x => o.laneAt x.1 = l)
  let s := if o.core < 160 then
      (s.modGang o.core o.slot (fun g => allLanes.foldl (fun g l => if own l = [] then g else g.modLane l (fun x =>
        { x with resv := x.resv.map (fun r => { r with stamps := restamp r.pa r.stamps before (own l) o.id }) })) g)).modCore o.core
        (fun x => { x with loads := x.loads.map (fun l =>
          if l.slot = o.slot && l.reserve then
            { l with parts := l.parts.map (fun p => { p with stamps := restamp p.addr p.stamps before (own p.lane) o.id }) }
          else l) })
    else s
  { s with ops := s.ops.map (fun p =>
      if p.kind = .stc ∧ p.core = o.core ∧ p.slot = o.slot ∧ ¬ p.applied ∧ p.id ≠ o.id then
        { p with expect := p.expect.map (fun st => restamp ((p.spans.map (·.addr)).headD 0) st before (own p.lane) o.id) }
      else p) }

/-- The first sector for which an operation fails: one that it reads, or writes in part, and that does not match its check value
(R389). -/
def MemOp.fails (o : MemOp) (s : State) : Option Nat :=
  if s.bad = [] then none
  else match if o.readsHome then s.firstBad (o.spans.map (fun x => (x.addr, x.data.length))) else none with
    | some q => some q
    | none =>
      let cs := o.writes s
      (cellSectors cs).find? (fun q => ! s.sectorOk q && ! cellsCover cs q)

/-- The operations of one instruction that have still to be applied, o first. -/
def State.siblings (s : State) (o : MemOp) : List MemOp :=
  o :: s.ops.filter (fun p => p.core = o.core && p.slot = o.slot && p.seq = o.seq && ! p.applied && p.id ≠ o.id && o.slot < 255)

/-- An instruction has no effect in any lane (R390): its operations write and answer nothing. -/
def State.lose (s : State) (os : List MemOp) : State :=
  let ids := os.map (·.id)
  let s : State := { s with ops := s.ops.map (fun p => if p.id ∈ ids then { p with lost := true } else p) }
  os.foldl (fun s o => match o.load with
    | some id => s.modLoad o.core id (fun x => { x with failed := true })
    | none => s) s

/-- The copies of a lost store in its own core's L1 take the bytes that stand at the home (R390). -/
def State.undo (s : State) (o : MemOp) : State :=
  let met := s.dir.filter (fun (e : Nat × DirEntry) =>
    o.touches (keyUnit e.1) (keySize e.1) && decide (o.core ∈ e.2.targets))
  { s with net := s.net ++ met.map (fun (e : Nat × DirEntry) =>
      let m := s.updateMsg o e.1 o.core e.2.slice
      { m with behind := o.id :: m.behind }) }

/-- A store to host memory in PCIe mode goes on as a posted write (R364). (log 91, DEDUCED) -/
def State.postHost (s : State) (o : MemOp) : State :=
  if o.kind = .store ∧ ¬ s.lodge.cxl ∧ o.spans.any (fun x => targetOf x.addr = .host) then
    { s with host := { s.host with posted := s.host.posted ++ [(o.core, o.slot, o.seq)] } }
  else s

/-- An operation is applied at its home. The value of a read travels to the core with a message of its own. -/
def State.applied (s : State) (o : MemOp) : State :=
  let cs := if o.lost then [] else o.writes s
  let s1 := if o.lost then s else (((s.applyCells o.id cs).1.answer o s (cs ≠ [])).followOwn o s cs).postHost o
  let back := fun (k : MsgKind) =>
    ({ kind := k, core := o.core, slice := o.slice, unit := 0, usize := 0, op := o.id } : Msg)
  match o.kind with
  | .read _ | .block _ _ => (s1.modOp o.id (fun p => { p with applied := true })).sendM (back .fillData)
  | .store => ((if o.lost then s1.undo o else s1).spread o cs).acks o.id
  | _ => (if o.core < 160 then (s1.spread o cs).sendM (back .update) else s1.spread o cs).acks o.id

/-- An operation takes effect at its home as one step, unless a sector that its instruction reads, or writes in part, does not match
its check value (R171, R287, R390). (log 21, DEDUCED) -/
def State.applyOp (s : State) (o : MemOp) : State :=
  let group := s.siblings o
  match if o.lost then none else group.findSome? (fun p => p.fails s) with
  | some q => ((s.lose group).mismatch o.part (if o.core < 160 then o.core else 0xFFFFFFFF) q).applied { o with lost := true }
  | none => s.applied o

/-! ### The home slice (R286 to R288) -/

/-- Starts the eviction of an entry: every target is invalidated and requests wait (R288). keep is the case of R365 in
which the line stays in L2. (log 25, DESIGN CHOICE) -/
def State.evict (s : State) (key : Nat) (e : DirEntry) (keep : Bool) : State :=
  let ts := e.targets
  let s := s.setEntry key { e with st := .evicting, ptrs := [], clusters := 0#40, waitInv := ts, keep := keep }
  { s with net := s.net ++ ts.map (fun c =>
      ({ kind := .inval, core := c, slice := e.slice, unit := keyUnit key, usize := keySize key } : Msg)) }

/-- Acknowledges the CCTLs that wait for an entry. -/
def State.ackCctls (s : State) (key : Nat) (slice : Nat) (ids : List Nat) : State :=
  ids.foldl (fun s id =>
    match s.ops.find? (fun o => o.id = id) with
    | some o => s.sendM { kind := .cctlAck, core := o.core, slice := slice, unit := keyUnit key, usize := keySize key, op := id }
    | none => s) s

/-- A request reads bytes of its line. -/
def State.reads (s : State) (m : Msg) : Bool :=
  match m.kind with
  | .fillReq => true
  | .homeOp => (s.ops.filter (fun o => o.id = m.op)).any MemOp.readsHome
  | _ => false

/-- The first entry of a slice that waits for room takes it when there is room (R12). (log 87, DESIGN CHOICE) -/
def State.giveRoom (s : State) (slice : Nat) : State :=
  match s.dir.find? (fun (e : Nat × DirEntry) => e.2.slice = slice && e.2.waitRoom) with
  | none => s
  | some e =>
    if s.sliceRoom slice (keySize e.1) then
      s.setEntry e.1 { e.2 with waitRoom := false, fetching := s.backed true (keyUnit e.1) }
    else s

/-- Frees an entry; requests that waited find it absent, and notices of copies that are gone with it end (R288). -/
def State.freeEntry (s : State) (key : Nat) (e : DirEntry) : State :=
  let s := { s with dir := merase s.dir key }.ackCctls key e.slice e.cctls
  let waiting := e.queued.filter (fun m => m.kind ≠ .evict)
  if waiting = [] then s.giveRoom e.slice
  else s.setEntry key { usize := e.usize, slice := e.slice, part := e.part, queued := waiting
                        fetching := waiting.any (fun m => s.backed (s.reads m) (keyUnit key)) }

/-- The halves of a host line that the device has modified. -/
def State.modified (s : State) (key : Nat) : List Nat :=
  (halvesOf (keyUnit key) (keySize key)).filter (fun h => mget .inv s.host.halves h = .modif)

/-- With the last invalidate acknowledged, a dirty line is written back and the entry freed, by the steps of R369 when its page is
flipping; a host line's halves leave by R365, modified ones through the victim buffer of R366 and the others by CleanEvictNoData.
A modified half with a sector that does not match its check value is logged, and its data phase carries the Bogus indication.
(log 92, DESIGN CHOICE) -/
def State.evictDone (s : State) (key : Nat) (e : DirEntry) : State :=
  if e.waitInv ≠ [] then s
  else if e.keep then s.setEntry key { e with st := .idle, keep := false }
  else if targetOf (keyUnit key) = .host && s.lodge.cxl then
    let ms := s.modified key
    if 256 < s.host.victims.length + ms.length then s
    else
      let hs := halvesOf (keyUnit key) (keySize key)
      let clean := hs.filter (fun h => mget .inv s.host.halves h ≠ .inv && ! decide (h ∈ ms))
      let host := { s.host with
        halves := hs.foldl (fun m h => merase m h) s.host.halves
        cleanEvicts := s.host.cleanEvicts ++ clean
        victims := s.host.victims ++ ms.map (fun h => (h, s.bytes (64 * h) 64, ! s.rangeOk (64 * h) 64)) }
      let s := (ms.filterMap (fun h => s.firstBad [(64 * h, 64)])).foldl (fun (s : State) q => s.mismatch 64 0xFFFFFFFF q) s
      { s with host := host }.freeEntry key e
  else if e.dirty ≠ [] then if s.flipping (keyUnit key) then s else s.setEntry key { e with writeBack := true }
  else s.freeEntry key e

/-- The units that a request needs, and their home slices: those of a row operation in an SPL page lie at several (R274). -/
def State.msgHomes (s : State) (m : Msg) : List (Nat × Nat) :=
  match m.kind with
  | .store | .homeOp => match s.ops.find? (fun o => o.id = m.op) with
    | some o => o.homes
    | none => []
  | _ => [(dirKey m.unit m.usize, m.slice)]

/-- The units that a request needs. -/
def State.msgKeys (s : State) (m : Msg) : List Nat := (s.msgHomes m).map (·.1)

/-- Entries that a request finds absent are allocated in I and their lines fetched, once the slice has room (R12, R288). -/
def State.allocate (s : State) (m : Msg) : State :=
  (s.msgHomes m).foldl (fun s (p : Nat × Nat) =>
    match s.entry? p.1 with
    | some _ => s
    | none => s.setEntry p.1 (s.fresh (s.reads m) p.2 (keyUnit p.1) (keySize p.1) m.part)) s

/-- The request is the oldest at each of its entries, none of which waits for room, is being fetched or is being evicted (R288). -/
def State.foremost (s : State) (m : Msg) : Bool :=
  (s.msgKeys m).all (fun key => match s.entry? key with
    | some e => ! e.fetching && ! e.waitRoom && decide (e.st ≠ .evicting) && decide (e.queued.head? = some m)
    | none => false)

/-- What a fill request is for: the elements of its load on the unit, or all of it. -/
def State.fillSpans (s : State) (m : Msg) : List (Nat × Nat) :=
  let ps := ((s.core m.core).loads.filter (fun x => x.id = m.op)).flatMap (fun x =>
    (x.parts.filter (fun p => p.unit = m.unit && p.usize = m.usize)).map (fun p => (p.addr, p.z)))
  if ps = [] then [(m.unit, m.usize)] else ps

/-- The ranges that a request touches, and whether it writes them. -/
def State.touched (s : State) (m : Msg) : Bool × List (Nat × Nat) :=
  match m.kind with
  | .store | .homeOp => match s.ops.find? (fun o => o.id = m.op) with
    | some o =>
      (match o.kind with
        | .read _ | .block _ _ => false
        | _ => true, o.spans.map (fun x => (x.addr, x.data.length)))
    | none => (true, [])
  | .fillReq => (false, if s.uncached m.unit then s.fillSpans m else [(m.unit, m.usize)])
  | _ => (false, [])

/-- The host lets every range of a request be served. -/
def State.gates (s : State) (m : Msg) : State × Bool :=
  let t := s.touched m
  t.2.foldl (fun (r : State × Bool) x => let g := r.1.gate t.1 x.1 x.2; (g.1, r.2 && g.2)) (s, true)

/-- A request whose turn has come is processed (R288); the accesses to the slice are counted (R320). A fill request that asks for no
data brings its line into the slice alone (R174). (log 53, DESIGN CHOICE) -/
def State.process (s : State) (key : Nat) (e : DirEntry) (m : Msg) : State :=
  let t := s.touched m
  let s := t.2.foldl (fun (s : State) x => (s.served t.1 x.1 x.2).countDirect m.part x.1 x.2) s
  let s := if m.kind = .evict then s else (s.msgHomes m).foldl (fun (s : State) p => s.count (p.2 / 64) m.part 3 1) s
  match m.kind with
  | .evict => s.setEntry key (e.drop m.core)
  | .fillReq =>
    if m.nocache then s
    else
      let data : Msg := { kind := .fillData, core := m.core, slice := e.slice, unit := m.unit, usize := m.usize, op := m.op, part := m.part
                          bytes := s.stamped m.unit m.usize, bad := s.badSectors m.unit m.usize, nocache := s.uncached m.unit, upto := s.nextId }
      (if s.uncached m.unit then s else s.setEntry key (e.add m.core)).sendM data
  | .store | .homeOp => match s.ops.find? (fun o => o.id = m.op) with
    | some o => s.applyOp o
    | none => s
  | .cctl =>
    let s := s.evict key { e with cctls := e.cctls ++ [m.op] } false
    match s.entry? key with
    | some e => s.evictDone key e
    | none => s
  | _ => s

/-- A request leaves the queues of its entries. -/
def State.dequeue (s : State) (key : Nat) (m : Msg) : State :=
  (joinNew [key] (s.msgKeys m)).foldl (fun s k => match s.entry? k with
    | some e => s.setEntry k { e with queued := e.queued.erase m }
    | none => s) s

/-- Serves the oldest request of an entry when it can be; an entry of an uncached line lasts no longer than its requests. -/
def State.pump (s : State) (key : Nat) : State :=
  match s.entry? key with
  | none => s
  | some e =>
    match e.queued with
    | [] => if s.uncached (keyUnit key) && e.st = .idle && ! e.want then { s with dir := merase s.dir key } else s
    | m :: _ =>
      if ! s.foremost m then s
      else
        let g := s.gates m
        if ! g.2 then g.1
        else
          let t := g.1.dequeue key m
          match t.entry? key with
          | some e => t.process key e m
          | none => t

/-- Serves the requests of every entry, n rounds of it. -/
def State.pumpAll (s : State) : Nat → State
  | 0 => s
  | n + 1 => ((mkeys s.dir).foldl (fun s key => s.pump key) s).pumpAll n

/-- Requests waiting at all entries. -/
def State.waitingRequests (s : State) : Nat := (s.dir.map (fun e => e.2.queued.length)).foldl (· + ·) 0

def State.pumped (s : State) : State := s.pumpAll (s.waitingRequests + 1)

/-- A request joins the queue of every line that it touches (R288). -/
def State.enqueue (s : State) (m : Msg) : State :=
  let s := s.allocate m
  ((s.msgKeys m).foldl (fun s key => match s.entry? key with
    | some e => s.setEntry key { e with queued := e.queued ++ [m] }
    | none => s) s).pumped

/-! ### Delivery of messages (R286) -/

/-- The message goes from a core to a slice. -/
def Msg.up (m : Msg) : Bool :=
  match m.kind with
  | .fillReq | .store | .homeOp | .evict | .cctl | .ackUpdate | .ackInval => true
  | _ => false

/-- Takes message k out of the network when it is of a kind, unless an earlier message of the same core, slice and
direction stands before it, or one of that core for a unit that both need, which may lie at another slice in an SPL page (R274, R286). -/
def State.deliver (s : State) (k : Nat) (kinds : List MsgKind) : Option (Msg × State) :=
  match takeAt s.net k with
  | none => none
  | some (m, rest) =>
    let keys := s.msgKeys m
    if m.kind ∈ kinds && ! (s.net.take k).any (fun n => n.core = m.core && n.up = m.up &&
        (n.slice = m.slice || (m.up && (s.msgKeys n).any (fun key => decide (key ∈ keys))))) then
      some (m, { s with net := rest })
    else none

/-- A delivery: the event does nothing when its message cannot arrive now. -/
def deliverOp (s : State) (kinds : List MsgKind) (f : State → Msg → State) : Out :=
  match s.deliver s.arg.a kinds with
  | none => .next s
  | some (m, t) => .next (f t m)

/-- FILL_REQUEST (R288). -/
def execFillRequest (s : State) : Out := deliverOp s [.fillReq] (fun s m => s.enqueue m)
/-- STORE_ARRIVAL (R287). A store to a Glasshouse region that no launch has bound is applied at its bank (R157, R276). -/
def execStoreArrival (s : State) : Out :=
  deliverOp s [.store] (fun s m => match s.ops.find? (fun o => o.id = m.op) with
    | some o => if o.spans.all (fun x => targetOf x.addr = .glass) then s.applyOp o else s.enqueue m
    | none => s)
/-- HOME_OPERATION_ARRIVAL (R287). -/
def execHomeOperationArrival (s : State) : Out := deliverOp s [.homeOp] (fun s m => s.enqueue m)

/-- EVICTION_NOTICE (R288, R290): it takes its turn behind what stands at its entry; at one that is being evicted, or is absent, it finds
nothing. CCTL op 0 is complete as its notice arrives (R174). -/
def execEvictionNotice (s : State) : Out :=
  deliverOp s [.evict] (fun s m =>
    let s : State := { s with ops := s.ops.filter (fun o => o.id ≠ m.op) }
    match s.entry? (dirKey m.unit m.usize) with
    | some e => if e.st = .evicting then s else s.enqueue m
    | none => s)

/-- CCTL_REQUEST_ARRIVAL (R174): a line with no entry is acknowledged on arrival. -/
def execCctlRequestArrival (s : State) : Out :=
  deliverOp s [.cctl] (fun s m =>
    match s.entry? (dirKey m.unit m.usize) with
    | some _ => s.enqueue m
    | none => s.ackCctls (dirKey m.unit m.usize) m.slice [m.op])

/-- L2_VICTIM_SELECTION (R288): the slice picks an entry that is not already leaving or being fetched. -/
def execL2VictimSelection (s : State) : Out :=
  let key := s.arg.a
  match s.entry? key with
  | none => .next s
  | some e =>
    if e.st = .evicting || e.fetching || e.waitRoom then .next s
    else
      let s := s.evict key e false
      match s.entry? key with
      | some e => .next (s.evictDone key e).pumped
      | none => .next s

/-- UPDATE_ACK_ARRIVAL (R287 to R289): an acknowledgement of an update or of an invalidate reaches the slice. -/
def execUpdateAckArrival (s : State) : Out :=
  deliverOp s [.ackUpdate, .ackInval] (fun s m =>
    if m.kind = .ackUpdate then
      let x := 256 * m.unit + m.core
      (s.modOp m.op (fun o => { o with waitD := o.waitD.erase x, waitP := o.waitP.erase x })).acks m.op
    else
      let key := dirKey m.unit m.usize
      match s.entry? key with
      | none => s
      | some e =>
        let e := { e with waitInv := e.waitInv.erase m.core }
        ((s.setEntry key e).evictDone key e).pumped)

/-- WRITE_BACK_COMPLETE (R288): each dirty half takes one transfer of the stack, charged to the partition that wrote the line last (R320). (log 53, DESIGN CHOICE) -/
def execWriteBackComplete (s : State) : Out :=
  let key := s.arg.a
  match s.entry? key with
  | none => .next s
  | some e => if e.writeBack then .next ((s.count (homeOf (keyUnit key)).1 e.soiler 1 e.dirty.length).freeEntry key e).pumped else .next s

/-- The bridge has received the completion of a zero-length read that it sent behind the n oldest posted writes (R364).
(log 91, DEDUCED) -/
def State.acceptPosted (s : State) (n : Nat) : State := { s with host := { s.host with posted := s.host.posted.drop n } }

/-- LINE_FETCH_RETURN (R288): a line of HBM takes one transfer for each half (R320), and a line of host memory comes with the bytes that
the host returns; with its flag set it is the completion of a zero-length read (R364). (log 53, DESIGN CHOICE) (log 65, DESIGN CHOICE)
(log 91, DEDUCED) -/
def execLineFetchReturn (s : State) : Out :=
  let key := s.arg.a
  if s.arg.flag then .next (s.acceptPosted s.arg.b)
  else match s.entry? key with
  | none => .next s
  | some e =>
    if ! e.fetching then .next s
    else
      let s := if targetOf (keyUnit key) = .host then
          if s.arg.bytes.length = keySize key then s.ingress (keyUnit key) s.arg.bytes else s
        else s.count (homeOf (keyUnit key)).1 e.part 1 ((keySize key + 63) / 64)
      .next (s.setEntry key { e with fetching := false }).pumped

/-! ### The L1 (R161, R277, R285, R287 to R290) -/

/-- The line or sector that a core's L1 holds. -/
def Core.line? (x : Core) (unit usize : Nat) : Option L1Line := x.l1.find? (fun l => l.unit = unit && l.usize = usize)

/-- Bytes of a line. -/
def L1Line.slice (l : L1Line) (addr n : Nat) : List (BitVec 8 × Nat) := (l.bytes.drop (addr - l.unit)).take n

/-- Replaces a line of an L1. (log 25, DESIGN CHOICE) -/
def Core.setLine (x : Core) (l : L1Line) : Core :=
  { x with l1 := x.l1.map (fun k => if k.unit = l.unit && k.usize = l.usize then l else k) }

/-- Own stores of a core on a unit that are younger than a number, oldest first, without those after a last one. -/
def State.youngStores (s : State) (c unit usize since before : Nat) : List MemOp :=
  s.ops.filter (fun o => decide (o.kind = .store) && o.core = c && decide (since < o.id) && decide (o.id < before) && o.touches unit usize)

/-- Lays the bytes of stores over a unit. -/
def overlay (unit : Nat) (bs : List (BitVec 8 × Nat)) (os : List MemOp) : List (BitVec 8 × Nat) :=
  os.foldl (fun bs o => o.spans.foldl (fun bs x =>
    bs.mapIdx (fun i b => if x.addr ≤ unit + i ∧ unit + i < x.addr + x.data.length then
      (x.data.getD (unit + i - x.addr) 0#8, o.id) else b)) bs) bs

/-- A part waits on a unit. -/
def LoadPart.awaits (p : LoadPart) (unit usize : Nat) : Bool := p.val.isNone && p.unit = unit && p.usize = usize

/-- A cached load's parts on a unit take their values from bytes that the core received for a fill numbered since; the
load sees the core's stores that came before it (R159, R161). An answer that leaves no copy serves the load that asked, and those issued
before it left that have not asked for themselves (R277, R279). (log 23, DEDUCED) -/
def State.servePart (s : State) (c : Nat) (m : Msg) (x : LoadOp) (p : LoadPart) : LoadPart :=
  if p.awaits m.unit m.usize && (! m.nocache || x.id = m.op ||
      (decide (x.id < m.upto) && ! (s.core c).fills.any (fun f => f.2.2 = x.id))) then
    let bs := (overlay m.unit m.bytes (s.youngStores c m.unit m.usize m.op x.id)).drop (p.addr - m.unit) |>.take p.z
    { p with val := some (partValue p.z p.signed (bs.map (·.1))), stamps := bs.map (·.2) }
  else p

/-- The sectors of a part, among some that do not match their check values. -/
def LoadPart.badOf (p : LoadPart) (bad : List Nat) : Option Nat := (sectorsOf p.addr p.z).find? (· ∈ bad)

/-- A sector of a part that waits on a unit came with a check value that does not match (R389). -/
def LoadPart.badIn (p : LoadPart) (m : Msg) : Option Nat := if p.awaits m.unit m.usize then p.badOf m.bad else none

/-- Asks the home slice for a line on behalf of an operation numbered id of a partition. -/
def State.askFill (s : State) (c slice unit usize id part : Nat) : State :=
  (s.modCore c (fun x => { x with fills := x.fills ++ [(unit, usize, id)] })).sendM
    { kind := .fillReq, core := c, slice := slice, unit := unit, usize := usize, op := id, part := part }

/-- The loads of a core that wait on a unit are served; a mismatch fails the load and contains its partition (R390). -/
def State.serveFill (s : State) (c : Nat) (m : Msg) : State :=
  let bad := (s.core c).loads.filterMap (fun x =>
    if x.kind = .cached then (x.parts.findSome? (·.badIn m)).map (fun q => (x.slot, q)) else none)
  let t := s.modCore c (fun x => { x with loads := x.loads.map (fun o =>
    if o.kind = .cached then
      { o with parts := o.parts.map (s.servePart c m o), failed := o.failed || o.parts.any (fun p => (p.badIn m).isSome) }
    else o) })
  bad.foldl (fun t x => t.mismatchAt (t.partOf c x.1) c (dieOf c, 2) x.2) t

/-- FILL_DATA (R290): the line is installed, with the core's own later stores pending in it; the oldest line makes room. A message of
size 0 brings what an operation read at its home. -/
def execFillData (s : State) : Out :=
  deliverOp s [.fillData] (fun s m =>
    let c := m.core
    if m.usize = 0 then { s with ops := s.ops.filter (fun o => o.id ≠ m.op) }
    else
    let s := s.serveFill c m
    let s := s.modCore c (fun x => { x with fills := x.fills.filter (fun f => ! (f.1 = m.unit && f.2.1 = m.usize && (f.2.2 = m.op || ! m.nocache))) })
    if m.nocache || ((s.core c).line? m.unit m.usize).isSome then s
    else
      let os := s.youngStores c m.unit m.usize m.op s.nextId
      let l : L1Line :=
        { unit := m.unit, usize := m.usize, home := m.slice, bytes := overlay m.unit m.bytes os
          pend := os.flatMap (fun o => o.spans.map (fun x => (o.id, x.addr, x.data.length))), bad := m.bad }
      let held := (s.core c).l1
      let s := if held.length < 1024 then s
        else match held with
          | [] => s
          | old :: _ => s.sendM { kind := .evict, core := c, slice := old.home, unit := old.unit, usize := old.usize }
      s.modCore c (fun x => { x with l1 := (if held.length < 1024 then x.l1 else x.l1.drop 1) ++ [l] }))

/-- An update applied to a held line: a word with a pending store is taken only when the update comes after every store
pending there (R287, R289); a word is taken or skipped whole, with the bytes of it that no pending store writes.
(log 22, DEDUCED) -/
def L1Line.update (l : L1Line) (m : Msg) : L1Line :=
  let free := fun (w : Nat) => l.pend.all (fun p => decide (p.1 ∈ m.behind) || ! decide (p.2.1 < w + 4 ∧ w < p.2.1 + p.2.2))
  { l with bytes := l.bytes.mapIdx (fun i b => if free ((l.unit + i) / 4 * 4) then m.bytes.getD i b else b), bad := m.bad }

/-- An update is applied where its line is held, and acknowledged; the update of the issuing core itself travels with its value and is
not counted (R287, R289). -/
def State.takeUpdate (s : State) (m : Msg) : State :=
  let c := m.core
  let s1 := match (s.core c).line? m.unit m.usize with
    | some l => s.modCore c (fun x => x.setLine (l.update m))
    | none => s
  if s.ops.any (fun o => o.id = m.op && o.core = c) then s1
  else s1.sendM { kind := .ackUpdate, core := c, slice := m.slice, unit := m.unit, usize := m.usize, op := m.op }

/-- The updates of the same write on their way to the same core. -/
def Msg.together (m n : Msg) : Bool := n.kind = .update && n.op = m.op && n.core = m.core && n.slice = m.slice && n.usize ≠ 0

/-- UPDATE (R287, R289). The updates of a block reach a core as one (R193, R206). -/
def execUpdate (s : State) : Out :=
  deliverOp s [.update] (fun s m =>
    if m.usize = 0 then s.modOp m.op (fun o => { o with gotV := true })
    else if s.ops.any (fun o => o.id = m.op && o.whole) then
      (s.net.filter m.together).foldl State.takeUpdate ({ s with net := s.net.filter (fun n => ! m.together n) }.takeUpdate m)
    else s.takeUpdate m)

/-- A core's L1 without a line. -/
def Core.dropLine (x : Core) (unit usize : Nat) : Core :=
  { x with l1 := x.l1.filter (fun l => ! (l.unit = unit && l.usize = usize)) }

/-- INVALIDATE (R290). -/
def execInvalidate (s : State) : Out :=
  deliverOp s [.inval] (fun s m =>
    (s.modCore m.core (fun x => x.dropLine m.unit m.usize)).sendM
      { kind := .ackInval, core := m.core, slice := m.slice, unit := m.unit, usize := m.usize })

/-- ACK_D (R287): performed at CLUSTER and DIE scope. -/
def execAckD (s : State) : Out := deliverOp s [.ackD] (fun s m => s.modOp m.op (fun o => { o with gotD := true }))

/-- ACK_P (R287): performed at PACKAGE scope; the writer's pending marks are cleared. -/
def execAckP (s : State) : Out :=
  deliverOp s [.ackP] (fun s m =>
    let s := s.modCore m.core (fun x =>
      { x with l1 := x.l1.map (fun (l : L1Line) => { l with pend := l.pend.filter (fun p => p.1 ≠ m.op) }) })
    { s with ops := s.ops.filter (fun o => o.id ≠ m.op) })

/-- CCTL_ACK (R174): a lane's write-back is complete. -/
def execCctlAck (s : State) : Out :=
  deliverOp s [.cctlAck] (fun s m => { s with ops := s.ops.filter (fun o => o.id ≠ m.op) })

end Sys2Proof.Machine
end

