-- ==== Sys2Proof/Machine/Convert.lean ====
section
/-! DEFINITION. Element conversions, PACK and UNPACK, and the draws of stochastic rounding (R54 to R60, R145 to R147). -/

namespace Sys2Proof.Machine

/-- RNGK of the issuing slot (R36): its crew's, or the privileged slot's own. (log 81, DESIGN CHOICE) -/
def State.key (s : State) (g : Gang) : BitVec 64 := if s.cur.slot = privSlot then (s.core s.cur.core).rngk else (s.myCrew g).rngk

/-- The draw of a lane (R56). -/
def Gang.draw (g : Gang) (key : BitVec 64) (l : Nat) : BitVec 64 := randWord key (g.lane l).wid (g.lane l).rngctr

/-- Every active lane has drawn once (R55, R153). -/
def Gang.drawn (g : Gang) : Gang := g.modLanes g.active (fun x => { x with rngctr := x.rngctr + 1 })

/-- A random slice of w bits at bit position at of a draw (R55). -/
def slice (w at_ : Nat) (x : BitVec 64) : Nat := x.toNat / 2 ^ at_ % 2 ^ w

/-- Issues a conversion: f gives the words and flags of a lane from its draw; under SR every active lane draws (R55). -/
def issueConvert (s : State) (sig : Gang → Sig) (d : Dst)
    (f : Gang → Nat → BitVec 64 → List (BitVec 32) × Flags) : Out :=
  issue s sig (fun g =>
    let key := s.key g
    let r := g.results d (fun l => f g l (g.draw key l))
    let h := if g.rnd = 5 then g.drawn else g
    .go (s.put ((h.schedule ((sig g).lat.getD 6) r.1).setFlags r.2)))

/-- The rounding of one element, with its slice under SR. -/
def Gang.rounding (g : Gang) (w at_ : Nat) (x : BitVec 64) : Rnd := if g.rnd = 5 then .sr w (slice w at_ x) else .mode g.rnd

/-- The conversion holds every source value (first row of R58; DP8 as R58 closes). -/
def widens (src dst : Nat) : Bool :=
  ((src = 7 || src = 8 || src = 9) && (dst = 10 || dst = 11 || dst = 12)) || ((src = 10 || src = 11) && dst = 12)

/-- One element converted under R58 and R60 between the formats of two type codes. -/
def convertElem (src dst bits : Nat) (rnd : Rnd) (sat : Bool) : Nat × Flags :=
  let b := bits % 2 ^ elemBits src
  if src = 13 ∨ dst = 13 then (b % 2 ^ elemBits dst, 0#32)
  else if src = dst ∧ 7 ≤ src then
    match fmtOf src with
    | some f => if (f.value b).isNan then (f.nanBits, nvIf (f.value b).isSig) else (b, 0#32)
    | none => (b, 0#32)
  else convertTo dst (elementValue src b) rnd (sat && ! widens src dst)

/-- The shared meaning of CVTF, CVTFI and CVTIF (R145). -/
def convertOp (d : Dst) (a : Src) (b : BitVec 8) (srcLo srcHi dstLo dstHi : Nat) (s : State) : Out :=
  let n := b.toNat
  issueConvert s
    (fun g =>
      let sg := regSig g d (g.etype = 6) [(a, n = 6)] [] 6
      { sg with ok := sg.ok && srcLo ≤ n && n ≤ srcHi && dstLo ≤ g.etype && g.etype ≤ dstHi })
    d
    (fun g l x =>
      let bits := if n = 6 then (g.rd64 a l).toNat else (g.rd a l).toNat
      let r := convertElem n g.etype bits (g.rounding 32 0 x) g.sat
      (wordsOf (g.etype = 6) r.1, r.2))

/-- CVTF (R145). (log 31, DEDUCED) -/
def execCvtf (d : Dst) (a : Src) (b : BitVec 8) (s : State) : Out := convertOp d a b 7 13 7 13 s
/-- CVTFI (R145). -/
def execCvtfi (d : Dst) (a : Src) (b : BitVec 8) (s : State) : Out := convertOp d a b 7 12 0 6 s
/-- CVTIF (R145). -/
def execCvtif (d : Dst) (a : Src) (b : BitVec 8) (s : State) : Out := convertOp d a b 0 6 7 12 s

/-- The ETYPE is one of the 8-bit types of PACK and UNPACK. -/
def eightBit (e : Nat) : Bool := e = 7 || e = 8 || e = 9

/-- A source pair of PACK's 8-bit form: an even register or 0xFC (R146). -/
def Gang.packPair (g : Gang) (a : Src) : Bool :=
  match a with
  | .vec _ => g.src64Ok a
  | .uni _ => g.src64Ok a
  | .zero => true
  | _ => false

/-- PACK (R146). -/
def execPack (d : Dst) (a b : Src) (s : State) : Out :=
  issueConvert s
    (fun g =>
      let e := eightBit g.etype
      let sg := regSig g d false [(a, e), (b, e)] [] 6
      { sg with ok := sg.ok && (if e then g.packPair a && g.packPair b else g.etype = 10 || g.etype = 11) })
    d
    (fun g l x =>
      let conv := fun (v : BitVec 32) (w at_ : Nat) =>
        convertElem 12 g.etype v.toNat (g.rounding w at_ x) g.sat
      if eightBit g.etype then
        let p := g.rd64 a l
        let q := g.rd64 b l
        let e0 := conv (p.setWidth 32) 16 0
        let e1 := conv ((p >>> 32).setWidth 32) 16 16
        let e2 := conv (q.setWidth 32) 16 32
        let e3 := conv ((q >>> 32).setWidth 32) 16 48
        ([BitVec.ofNat 32 (e0.1 + 2 ^ 8 * e1.1 + 2 ^ 16 * e2.1 + 2 ^ 24 * e3.1)], e0.2 ||| e1.2 ||| e2.2 ||| e3.2)
      else
        let e0 := conv (g.rd a l) 32 0
        let e1 := conv (g.rd b l) 32 32
        ([BitVec.ofNat 32 (e0.1 + 65536 * e1.1)], e0.2 ||| e1.2))

/-- UNPACK (R147): element k widened to FP32. -/
def execUnpack (d : Dst) (a : Src) (b : BitVec 8) (s : State) : Out :=
  issueWrites s
    (fun g =>
      let sg := regSig g d false [(a, false)] [] 6
      { sg with ok := sg.ok && (if eightBit g.etype then b.toNat ≤ 3 else (g.etype = 10 || g.etype = 11) && b.toNat ≤ 1) })
    (fun g => g.results d (fun l =>
      oneWord (roundTo fmtFP32 (elementValue g.etype (elemOf (elemBits g.etype) b.toNat (g.rd a l))) (.mode 0) false)))

end Sys2Proof.Machine
end

