-- ==== Sys2Proof/Machine/Lanes.lean ====
section
/-! DEFINITION. Lane operations, group reductions and scans, the sampling instructions and the generator (R68, R101, R102,
R129 to R132, R150 to R154). -/

namespace Sys2Proof.Machine

/-- A shuffle (R129): src gives the source lane of lane l from B. -/
def shuffleOp (d : Dst) (a b : Src) (src : Nat → Nat → Int) (s : State) : Out :=
  issueWrites s
    (fun g =>
      let sg := regSig g d false [(a, false), (b, false)] [] 6
      { sg with ok := sg.ok && dstVec d })
    (fun g => g.results d (fun l => ([g.cross a (src l (g.rd b l).toNat)], 0#32)))

/-- SHFL (R129). -/
def execShfl (d : Dst) (a b : Src) (s : State) : Out := shuffleOp d a b (fun _ n => (n : Int)) s
/-- SHFLUP (R129). -/
def execShflup (d : Dst) (a b : Src) (s : State) : Out := shuffleOp d a b (fun l n => (l : Int) - n) s
/-- SHFLDN (R129). -/
def execShfldn (d : Dst) (a b : Src) (s : State) : Out := shuffleOp d a b (fun l n => (l : Int) + n) s
/-- SHFLX (R129). -/
def execShflx (d : Dst) (a b : Src) (s : State) : Out := shuffleOp d a b (fun l n => ((l ^^^ n : Nat) : Int)) s

/-- BCAST (R130). -/
def execBcast (d : Dst) (a b : Src) (s : State) : Out :=
  issueWrites s
    (fun g =>
      let sg := regSig g d false [(a, false), (b, false)] [] 6
      { sg with ok := sg.ok && dstVec d && uniOnly b })
    (fun g => g.results d (fun l => ([g.cross a ((g.rd b l).toNat : Int)], 0#32)))
/-- MOVVG (R130): one write to a uniform register; A may be a vector register. -/
def execMovvg (d : Dst) (a b : Src) (s : State) : Out :=
  issueWrites s
    (fun g => { ok := g.dstOk d && dstUni d && g.srcOk a && g.srcOk b && uniOnly b
                reads := srcRegs false a ++ srcRegs false b, writes := dstRegs false d, lat := some 6 })
    (fun g => g.results d (fun _ => ([g.cross a ((g.rd b 0).toNat : Int)], 0#32)))
/-- MOVGV (R130): writes one lane of a vector register, when that lane is active. -/
def execMovgv (d : Dst) (a b : Src) (s : State) : Out :=
  issueWrites s
    (fun g =>
      let sg := regSig g d false [(a, false), (b, false)] [] 6
      { sg with ok := sg.ok && dstVec d && uniOnly a && uniOnly b })
    (fun g =>
      let l := (g.rd b 0).toNat
      (if l ∈ g.active then dstWords d l [g.rd a 0] else [], 0#32))

/-! ### Group reductions (R68, R131) -/

/-- One step of the tree: an absent node gives the other (R68). -/
def combineWith {α : Type} (f : α → α → α × Flags) (x y : Option α) : Option α × Flags :=
  match x, y with
  | some a, some b => let r := f a b; (some r.1, r.2)
  | some a, none => (some a, 0#32)
  | none, y => (y, 0#32)

/-- A level of the tree: neighbours combine in pairs (R68). -/
def treeLevel {α : Type} (f : α → α → α × Flags) : List (Option α) → List (Option α) × Flags
  | x :: y :: rest =>
    let r := combineWith f x y
    let t := treeLevel f rest
    (r.1 :: t.1, r.2 ||| t.2)
  | xs => (xs, 0#32)

/-- The fixed pairwise tree over 32 nodes (R68). -/
def reduceTree {α : Type} (f : α → α → α × Flags) (xs : List (Option α)) : Option α × Flags :=
  let step := fun (acc : List (Option α) × Flags) (_ : Nat) =>
    let t := treeLevel f acc.1
    (t.1, acc.2 ||| t.2)
  let r := (List.range 5).foldl step (xs, 0#32)
  (r.1.head?.join, r.2)

/-- The nodes of the tree: a value for each lane of a list, absent elsewhere. -/
def treeNodes {α : Type} (ls : List Nat) (f : Nat → α) : List (Option α) :=
  allLanes.map (fun l => if l ∈ ls then some (f l) else none)

/-- Combine for a float sum (R131, R150): patterns in, one rounded pattern out. -/
def Gang.addBits (g : Gang) (x y : Nat) : Nat × Flags := g.floatSum [g.fmt.value x, g.fmt.value y] false

/-- Combine for a float minimum or maximum (R131). -/
def Gang.pick (g : Gang) (wantMax : Bool) (x y : Nat) : Nat × Flags := pickBits g.fmt wantMax x y

/-- A group reduction: the exact integer fold, or the float tree (R131). NaN operands of a lone lane keep R138's rules:
a NaN alone is canonical and a signalling one sets NV. -/
def reduceOp (d : Dst) (a : Src) (ints : List Int → Int) (isAdd : Bool) (float : Gang → Nat → Nat → Nat × Flags)
    (s : State) : Out :=
  issueWrites s
    (fun g =>
      let wide := g.etype = 6
      let sg := regSig g d wide [(a, wide)] [] 10
      { sg with ok := (if wide then g.dst64Ok d else g.dstOk d) && (if wide then g.src64Ok a else g.srcOk a) &&
          (g.etype ≤ 6 || floatType g.etype) })
    (fun g =>
      if g.active = [] then ([], 0#32)
      else if g.etype ≤ 6 then
        let r := intResult (ints (g.active.map (fun l => g.int a l))) g.iw g.isg (isAdd && g.sat)
        (((g.results d (fun _ => (wordsOf g.wide r.1, 0#32))).1), r.2)
      else
        let bits := fun l => g.el g.fmt.width a l
        let r := reduceTree (float g) (treeNodes g.active bits)
        let sig := g.active.any (fun l => (g.fmt.value (bits l)).isSig)
        let v := r.1.getD 0
        let v := if (g.fmt.value v).isNan then g.fmt.nanBits else v
        (((g.results d (fun _ => ([BitVec.ofNat 32 v], 0#32))).1),
          r.2 ||| nvIf sig))

/-- GREDADD (R131). -/
def execGredadd (d : Dst) (a : Src) (s : State) : Out :=
  reduceOp d a (fun xs => xs.foldl (· + ·) 0) true (fun g => g.addBits) s
/-- GREDMIN (R131). -/
def execGredmin (d : Dst) (a : Src) (s : State) : Out :=
  reduceOp d a (fun xs => xs.foldl (fun m x => if x < m then x else m) (xs.headD 0)) false (fun g => g.pick false) s
/-- GREDMAX (R131). -/
def execGredmax (d : Dst) (a : Src) (s : State) : Out :=
  reduceOp d a (fun xs => xs.foldl (fun m x => if m < x then x else m) (xs.headD 0)) false (fun g => g.pick true) s

/-- The inclusive values of a scan, each from the one before, with the flags of every step (R132). -/
def scanFrom {α β : Type} (f : β → α → β) (out : β → Nat × Flags) : β → List α → List (Nat × Flags)
  | _, [] => []
  | acc, x :: rest => let y := f acc x; out y :: scanFrom f out y rest

/-- GSCANADD (R132). -/
def execGscanadd (d : Dst) (a : Src) (b : BitVec 8) (s : State) : Out :=
  issueWrites s
    (fun g =>
      let wide := g.etype = 6
      let sg := regSig g d wide [(a, wide)] [] 10
      { sg with ok := sg.ok && dstVec d && b.toNat ≤ 1 && (g.etype ≤ 6 || floatType g.etype) })
    (fun g =>
      let ls := g.active
      let incl : List (Nat × Flags) :=
        if g.etype ≤ 6 then
          scanFrom (fun (t : Int) x => t + x) (fun t => intResult t g.iw g.isg g.sat) 0 (ls.map (fun l => g.int a l))
        else
          match ls.map (fun l => g.el g.fmt.width a l) with
          | [] => []
          | x :: rest => (x, 0#32) :: scanFrom (fun (t : Nat × Flags) y => g.addBits t.1 y) (fun t => t) (x, 0#32) rest
      let sums := incl.map (fun x => if 7 ≤ g.etype && (g.fmt.value x.1).isNan then g.fmt.nanBits else x.1)
      let vals := if b.toNat = 0 then sums else 0 :: sums
      let sig := 7 ≤ g.etype && ls.any (fun l => (g.fmt.value (g.el g.fmt.width a l)).isSig)
      ((ls.zip vals).flatMap (fun p => dstWords d p.1 (wordsOf g.wide p.2)),
        incl.foldl (fun f x => f ||| x.2) (nvIf sig)))

/-! ### Sampling (R150 to R152) -/

/-- The lanes whose element is above the pivot, and NV for a signalling NaN (R150). -/
def Gang.passing (g : Gang) (a b : Src) : List Nat × Flags :=
  (g.active.filter (fun l =>
    let x := g.fv a l
    let p := g.fv b l
    ! x.isNan && ! p.isNan && x.cmp p = .gt),
   nvIf (g.active.any (fun l => (g.fv a l).isSig || (g.fv b l).isSig)))

/-- The issue of the threshold instructions (R150): A may be a vector register whatever D is. -/
def pivotSig (g : Gang) (d : Dst) (a b : Src) : Sig :=
  { ok := g.dstOk d && g.srcOk a && g.srcOk b && uniOnly b && floatType g.etype
    reads := srcRegs false a ++ srcRegs false b, writes := dstRegs false d, lat := some 10 }

/-- GCNTGT (R150). -/
def execGcntgt (d : Dst) (a b : Src) (s : State) : Out :=
  issueWrites s (fun g => pivotSig g d a b)
    (fun g =>
      let r := g.passing a b
      ((g.results d (fun _ => ([BitVec.ofNat 32 r.1.length], 0#32))).1, r.2))
/-- GSUMGT (R150). -/
def execGsumgt (d : Dst) (a b : Src) (s : State) : Out :=
  issueWrites s (fun g => pivotSig g d a b)
    (fun g =>
      let r := g.passing a b
      let t := reduceTree g.addBits (treeNodes r.1 (fun l => g.el g.fmt.width a l))
      ((g.results d (fun _ => ([BitVec.ofNat 32 (t.1.getD 0)], 0#32))).1, r.2 ||| t.2))

/-- GMAXRED (R151): the largest element, and the lowest lane that holds it bit for bit. -/
def execGmaxred (d : Dst) (a : Src) (s : State) : Out :=
  issueWrites s
    (fun g => { ok := g.dst64Ok d && d ≠ .none && g.srcOk a && floatType g.etype
                reads := srcRegs false a, writes := dstRegs true d, lat := some 10 })
    (fun g =>
      let bits := fun l => g.el g.fmt.width a l
      let nums := g.active.filter (fun l => ! (g.fmt.value (bits l)).isNan)
      let best := nums.foldl (fun (m : Option Nat) l =>
        match m with
        | none => some (bits l)
        | some x => if (g.fmt.value x).cmpZ (g.fmt.value (bits l)) = .lt then some (bits l) else some x) none
      let r : Nat × Nat := match best with
        | none => (g.fmt.nanBits, 0xFFFFFFFF)
        | some x => (x, (nums.filter (fun l => bits l = x)).headD 0)
      ((g.results d (fun _ => ([BitVec.ofNat 32 r.1, BitVec.ofNat 32 r.2], 0#32))).1,
        nvIf (g.active.any (fun l => (g.fmt.value (bits l)).isSig))))

/-- GMASK (R152). -/
def execGmask (d : Dst) (a : Src) (b : BitVec 8) (s : State) : Out :=
  issueWrites s
    (fun g => { ok := g.dstOk d && dstVec d && g.srcOk a && predOk b && floatType g.etype
                reads := srcRegs false a, writes := predReg b :: dstRegs false d, lat := some 6 })
    (fun g =>
      let bit := fun l => (g.rd a l).getLsbD l
      (g.predResults b bit ++ (g.active.filter (fun l => ! bit l)).flatMap (fun l =>
        dstWords d l [BitVec.ofNat 32 (g.fmt.signed true g.fmt.infBits)]), 0#32))

/-! ### The generator (R153, R154) -/

/-- A draw in each active lane: f gives the word written. The counters advance at issue. -/
def drawOp (d : Dst) (f : BitVec 64 → BitVec 32) (s : State) : Out :=
  issue s (fun g => { ok := g.dstOk d && dstVec d, writes := dstRegs false d, lat := some 6 })
    (fun g =>
      let key := s.key g
      let r := g.results d (fun l => ([f (g.draw key l)], 0#32))
      .go (s.put (g.drawn.schedule 6 r.1)))

/-- RNG (R153). -/
def execRng (d : Dst) (s : State) : Out := drawOp d (fun x => x.setWidth 32) s
/-- RNGF (R153): the upper 24 bits as a fraction of 2^24, exact in FP32. -/
def execRngf (d : Dst) (s : State) : Out :=
  drawOp d (fun x =>
    let m := (x >>> 40).toNat
    BitVec.ofNat 32 (roundToFP32 (if m = 0 then .zero false else .fin false m (-24) false) 0).1) s

end Sys2Proof.Machine
end

