-- ==== Sys2Proof/Machine/Control.lean ====
section
/-! DEFINITION. Control flow, MODE, EXM and special registers, regrouping, and traps on request (R36 to R42, R113 to R127,
R133, R259). -/

namespace Sys2Proof.Machine

/-! ### Targets (R119) -/

/-- Where a lane is sent, or the trap its target raises (R119): the address is reported with cause 0x04. -/
inductive Goal where
  | block (b : Nat)
  | badAlign (addr : BitVec 64)
deriving DecidableEq, Repr

/-- A register target (R119). -/
def regGoal (base : BitVec 64) (off : BitVec 32) : Goal :=
  if off.toNat % 64 ≠ 0 ∨ 2 ^ 30 ≤ off.toNat then .badAlign (base + off.setWidth 64) else .block (off.toNat / 64)

/-- A 16-bit displacement (R119). -/
def dispGoal (base : BitVec 64) (b : Nat) (disp : BitVec 16) : Goal :=
  let t : Int := b + disp.toInt
  if t < 0 ∨ 0xFFFFFF < t then .badAlign (base + BitVec.ofInt 64 (64 * t)) else .block t.toNat

/-- The lowest lane that is sent to a block that may not be entered (R74, R119). -/
def closedLane (s : State) (goals : List (Nat × Goal)) : Option Nat :=
  (goals.find? (fun p => match p.2 with
    | .block b => ! s.mayEnter s.cur.core s.cur.slot b
    | .badAlign _ => false)).map (·.1)

/-- What an instruction that sends lanes to some goals asks of its issue: the lowest lane that may not go, and the headers that tell
(R74, R82). -/
def Sig.toward (sg : Sig) (s : State) (goals : List (Nat × Goal)) : Sig :=
  { sg with
    closed := closedLane s goals
    looks := goals.filterMap (fun p => match p.2 with
      | .block b => some b
      | .badAlign _ => none) }

/-- The trap of a set of lanes' targets: 0x03 ranks before 0x04 (R82, R119). -/
def goalTrap (s : State) (goals : List (Nat × Goal)) : Option Trap :=
  match closedLane s goals with
  | some l => some { cause := 0x03, lane := l }
  | none => goals.findSome? (fun p => match p.2 with
    | .badAlign a => some { cause := 0x04, lane := p.1, addr := a }
    | .block _ => none)

/-- The block of a lane among goals. -/
def goalOf (goals : List (Nat × Goal)) (l : Nat) : Nat :=
  match goals.find? (fun p => p.1 = l) with
  | some (_, .block b) => b
  | _ => 0

/-- The goals of every running lane. -/
def Gang.goals (g : Gang) (goal : Nat → Goal) : List (Nat × Goal) := g.exm.map (fun l => (l, goal l))

/-- The code base of a gang: targets are reported as addresses from it. -/
def State.codeBase (s : State) (g : Gang) : BitVec 64 := if s.cur.slot = privSlot then 0#64 else (s.myCrew g).codeBase

/-! ### No operation and illegal words (R77, R80, R81, R133) -/

/-- NOP (R80). -/
def execNop (_x : BitVec 24) (s : State) : Out :=
  issue s (fun _ => { ok := true, lat := some 1, guarded := false }) (fun g => .go (s.put g))

/-- A word of an unassigned opcode: trap 0x01 in every slot (R81). -/
def execIllegalInstruction (_w : BitVec 32) (s : State) : Out :=
  match s.gang? s.cur.core s.cur.slot with
  | none => .fault .noGang
  | some _ => s.issued s.cur.core s.cur.slot 0 (s.takeTrap s.cur.core s.cur.slot { cause := 0x01 })

/-- The privilege check ranks before the field rules (R82): opcodes 0xF0 to 0xF5, and WRSR to SCTL (R37). -/
def privWord (w : BitVec 32) : Bool :=
  let op := (Sys2Proof.fieldOp w).toNat
  (0xF0 ≤ op && op ≤ 0xF5) || (op = 0x13 && Sys2Proof.fieldD w = 0x16#8)

/-- The register target of a word whose opcode transfers to one: BRX, CALLX, RET, and ERET in the privileged slot. -/
def wordTarget (slot : Nat) (w : BitVec 32) (lits : List (BitVec 32)) : Option Src :=
  let op := (Sys2Proof.fieldOp w).toNat
  if op = 0x04 || op = 0x08 || op = 0x09 || (op = 0xF0 && slot = privSlot) then
    some (if Sys2Proof.fieldA w = 0xFF#8 then .lit (lits.headD 0#32) else Sys2Proof.srcOf (Sys2Proof.fieldA w))
  else none

/-- What a word that breaks a zero8 field or a fixed imm8 asks of its issue: the target of a transfer ranks before the field rules, and
so does the privilege of its opcode (R82). -/
def illegalSig (s : State) (w : BitVec 32) (lits : List (BitVec 32)) (g : Gang) : Sig :=
  let base := if s.cur.slot = privSlot then 0#64 else (s.myCrew g).codeBase
  let eret := Sys2Proof.fieldOp w = 0xF0#8
  match wordTarget s.cur.slot w lits with
  | some a =>
    let sg : Sig := { ok := false, priv := privWord w, reads := srcRegs false a, seeks := true, guarded := eret }
    if ! g.srcOk a || (eret && decide (g.active = [])) then sg
    else sg.toward s (g.goals (fun l => regGoal base (g.rd a (if eret then g.active.headD 0 else l))))
  | none => { ok := false, priv := privWord w }

/-- A word of an assigned opcode that breaks a zero8 field or a fixed imm8: trap 0x02 (R77). -/
def execIllegalOperand (w : BitVec 32) (lits : List (BitVec 32)) (s : State) : Out :=
  issue s (illegalSig s w lits) (fun _ => .hold)

/-- TRAP (R133). -/
def execTrap (b : BitVec 8) (s : State) : Out :=
  issue s (fun _ => { ok := true, lat := some 1 })
    (fun g => if g.active = [] then .go (s.put g) else .trap { cause := 0x40, info := b.toNat })

/-- BKPT (R133): ignores the guard. -/
def execBkpt (b : BitVec 8) (s : State) : Out :=
  issue s (fun _ => { ok := true, lat := some 1, guarded := false })
    (fun _ => .trap { cause := 0x41, info := b.toNat })

/-! ### MODE and EXM (R29, R30, R34, R35, R113, R114) -/

/-- A value that MODE may hold (R29, R30). -/
def modeOk (m : BitVec 32) : Bool :=
  m.toNat / 2 ^ 17 = 0 && m.toNat / 256 % 16 ≤ 13 && m.toNat / 4096 % 8 ≤ 5 && m.toNat % 128 ≤ 95

/-- SETM (R113). -/
def execSetm (a : Src) (s : State) : Out :=
  issue s (fun g => { ok := g.srcOk a && uniOnly a, reads := srcRegs false a, lat := some 1, guarded := false })
    (fun g =>
      let m := g.rd a 0
      if modeOk m then .go (s.put { g with mode := m }) else .trap { cause := 0x02 })

/-- A value written to a destination in every lane of EXM, or once to a uniform register. -/
def Gang.exmResults (g : Gang) (d : Dst) (w : BitVec 32) : List (Loc × BitVec 128) :=
  if dstIsUni d then dstWords d 0 [w] else g.exm.flatMap (fun l => dstWords d l [w])

/-- GETM (R113). -/
def execGetm (d : Dst) (s : State) : Out :=
  issue s (fun g => { ok := g.dstOk d, writes := dstRegs false d, lat := some 4, guarded := false })
    (fun g => .go (s.put (g.schedule 4 (g.exmResults d g.mode))))

/-- GETEXM (R114). -/
def execGetexm (d : Dst) (s : State) : Out :=
  issue s (fun g => { ok := g.dstOk d, writes := dstRegs false d, lat := some 4, guarded := false })
    (fun g => .go (s.put (g.schedule 4 (g.exmResults d (maskOf g.exm)))))

/-- The lane states after a write to EXM (R34). -/
def Gang.writeExm (g : Gang) (m : BitVec 32) : Gang :=
  allLanes.foldl (fun g l => g.modLane l (fun x => match x.st with
    | .run => if m.getLsbD l then x else { x with st := .held }
    | .held => if m.getLsbD l then { x with st := .run } else x
    | _ => x)) g

/-- SETEXM (R114, R35). -/
def execSetexm (a : Src) (s : State) : Out :=
  issue s (fun g => { ok := g.srcOk a && uniOnly a, reads := srcRegs false a, lat := some 1, guarded := false })
    (fun g =>
      let h := g.writeExm (g.rd a 0)
      if h.exm = [] then .jump (s.land s.cur.core s.cur.slot (h.frontier g.block [] (g.lanesIn .wait) false))
      else .go (s.put h))

/-! ### Transfers (R119 to R121) -/

/-- Sends every running lane to its goal and runs a frontier step (R120); known says that the goals can be read, ws is the link, if
any. -/
def transferOp (s : State) (known : Gang → Bool) (sig : Gang → Sig) (goal : Gang → Nat → Goal)
    (ws : Gang → List (Loc × BitVec 128)) : Out :=
  issue s (fun g => if known g then (sig g).toward s (g.goals (goal g)) else sig g) (fun g =>
    let goals := g.goals (goal g)
    match goalTrap s goals with
    | some t => .trap t
    | none =>
      let h := (g.schedule 1 (ws g)).park (goalOf goals)
      .jump (s.land s.cur.core s.cur.slot (h.frontier g.block g.exm (g.lanesIn .wait) false)))

/-- The issue of a transfer with a register target, which is known once its register has come. -/
def targetSig (g : Gang) (d : Dst) (a : Src) : Sig :=
  { ok := g.dstOk d && g.srcOk a, reads := srcRegs false a, writes := dstRegs false d, lat := some 1, guarded := false
    seeks := srcRegs false a ≠ [] }

/-- The link of a call (R120). -/
def linkOf (g : Gang) : BitVec 32 := BitVec.ofNat 32 (64 * (g.block + 1))

/-- BRA (R120). -/
def execBra (t : BitVec 24) (s : State) : Out :=
  transferOp s (fun _ => true) (fun _ => { ok := true, lat := some 1, guarded := false }) (fun _ _ => .block t.toNat) (fun _ => [])
/-- BRX (R120). -/
def execBrx (a : Src) (s : State) : Out :=
  transferOp s (fun g => g.srcOk a) (fun g => targetSig g .none a) (fun g l => regGoal (s.codeBase g) (g.rd a l)) (fun _ => [])
/-- CALL (R120). -/
def execCall (d : Dst) (disp : BitVec 16) (s : State) : Out :=
  transferOp s (fun _ => true) (fun g => targetSig g d .zero) (fun g _ => dispGoal (s.codeBase g) g.block disp)
    (fun g => g.exmResults d (linkOf g))
/-- CALLX (R120). -/
def execCallx (d : Dst) (a : Src) (s : State) : Out :=
  transferOp s (fun g => g.srcOk a) (fun g => targetSig g d a) (fun g l => regGoal (s.codeBase g) (g.rd a l))
    (fun g => g.exmResults d (linkOf g))
/-- RET (R120). -/
def execRet (a : Src) (s : State) : Out :=
  transferOp s (fun g => g.srcOk a) (fun g => targetSig g .none a) (fun g l => regGoal (s.codeBase g) (g.rd a l)) (fun _ => [])

/-- The goals of the lanes that take a BRP (R121). -/
def takenGoals (s : State) (g : Gang) (d : BitVec 8) (disp : BitVec 16) : List (Nat × Goal) :=
  (g.active.filter (fun l => g.pred d.toNat l)).map (fun l => (l, dispGoal (s.codeBase g) g.block disp))

/-- The issue of a BRP. -/
def brpSig (s : State) (d : BitVec 8) (disp : BitVec 16) (g : Gang) : Sig :=
  let sg : Sig := { ok := predOk d, reads := [predReg d], lat := some 1, seeks := true }
  if predOk d then sg.toward s (takenGoals s g d disp) else sg

/-- BRP (R121). -/
def execBrp (d : BitVec 8) (disp : BitVec 16) (s : State) : Out :=
  issue s (brpSig s d disp)
    (fun g =>
      let taken := g.active.filter (fun l => g.pred d.toNat l)
      let goals := takenGoals s g d disp
      if taken = [] then .go (s.put g)
      else match goalTrap s goals with
        | some t => .trap t
        | none =>
          let h := g.modLanes taken (fun x => { x with st := .wait, fblock := goalOf goals (taken.headD 0) })
          if h.exm = [] then .jump (s.land s.cur.core s.cur.slot (h.frontier g.block g.exm (g.lanesIn .wait) false))
          else .go (s.put h))

/-- MEET (R122). -/
def execMeet (s : State) : Out :=
  issue s (fun _ => { ok := true, lat := some 1, guarded := false }) (fun g => .go (s.put g.meet))

/-- After lanes have left RUN in State: the gang goes on, or a frontier step runs when none is left (R123, R126). -/
def State.afterLeaving (s : State) (src : Nat) (waited : List Nat) : Res :=
  match s.gang? s.cur.core s.cur.slot with
  | none => .jump s
  | some h => if h.exm = [] then .jump (s.land s.cur.core s.cur.slot (h.frontier src [] waited false)) else .go s

/-- EXIT (R123). -/
def execExit (s : State) : Out :=
  issue s (fun _ => { ok := true, lat := some 1 })
    (fun g =>
      if g.active = [] then .go (s.put g)
      else ((s.put g).exitLanes s.cur.core s.cur.slot g.active .gone).afterLeaving g.block (g.lanesIn .wait))

/-- The registers that the lanes which DONE has ended leave for a chain successor (R45), by 192 × crew position + register;
a lane that had exited leaves zeros. -/
def Gang.leftRegs (g : Gang) (position : Nat) : SMap (BitVec 32) :=
  let ls := allLanes.filter (fun l => g.ended.getLsbD l)
  ls.foldl (fun m l => (List.range g.vcount).foldl (fun m r => mput 0#32 m (192 * (32 * position + l) + r) (g.v r l)) m) []

/-- Keeps what the gang's lanes leave for a successor of the same crew (R45), once every operation of theirs has written its registers
(R123, R124): all 32 positions of the gang, whatever an earlier gang of the slot left there. (log 20, DEDUCED) -/
def State.keepChain (s : State) (c k : Nat) (g : Gang) : State :=
  if k = privSlot || g.ended = 0#32 then s
  else
    let w := s.crew c g.crew
    let p := w.slots.findIdx (· = k)
    let left := g.landAll.leftRegs p
    s.modCore c (fun x =>
      { x with chains := (match x.chains.find? (fun r => r.grid = w.grid ∧ r.index = w.index) with
        | some r => { r with regs := left.foldl (fun m e => mput 0#32 m e.1 e.2) (r.regs.filter (fun e => e.1 / 6144 ≠ p)) } ::
            x.chains.filter (fun r => ¬ (r.grid = w.grid ∧ r.index = w.index))
        | none => { grid := w.grid, index := w.index, regs := left } :: x.chains) })

/-- A gang that takes a slot leaves nothing of what an earlier gang of it left for a successor (R45). (log 20, DEDUCED) -/
def State.dropChain (s : State) (c : Nat) (w : Crew) (p : Nat) : State :=
  s.modCore c (fun x => { x with chains := x.chains.map (fun r =>
    if r.grid = w.grid ∧ r.index = w.index then { r with regs := r.regs.filter (fun e => e.1 / 6144 ≠ p) } else r) })

/-- Ends every lane of a gang as DONE does (R124). (log 20, DEDUCED) (log 82, DESIGN CHOICE) -/
def State.doneGang (s : State) (c k : Nat) (g : Gang) : State :=
  let live := allLanes.filter (fun l => (g.lane l).st = .run ∨ (g.lane l).st = .held ∨ (g.lane l).st = .wait)
  (s.exitLanes c k live .empty).modGang c k (fun h => { (h.modLanes allLanes (fun x => { x with st := .empty })) with
    retiring := true, ended := maskOf live, resume := none, held := none, fc := 0 })

/-- DONE (R124). -/
def execDone (s : State) : Out :=
  issue s (fun _ => { ok := true, lat := some 1 })
    (fun g =>
      if g.active = [] then .go (s.put g)
      else .jump ((s.put g).doneGang s.cur.core s.cur.slot g))

/-- The gang could issue as far as its own state goes (R249). -/
def Gang.runnable (g : Gang) : Bool :=
  ! g.stopped && g.held.isNone && g.ready && ! g.retiring && ! g.saving && g.exm ≠ []

/-- YIELD (R125, R251): the gang stands back until the other gangs of its scheduler that are ready now have issued, or 16
opportunities have passed. -/
def execYield (s : State) : Out :=
  issue s (fun _ => { ok := true, lat := some 1, guarded := false })
    (fun g => .go (s.put (if s.cur.slot = privSlot then g
      else { g with yieldFor := s.cur.ready.filter (· ≠ s.cur.slot), yieldLeft := 16 })))

/-! ### REGROUP (R126, R127, R259) -/

/-- The key of a regroup bin: its entry block and role (R259). -/
def binKey (block role : Nat) : Nat := 4 * block + role

/-- What a lane carries into a bin (R126). -/
def Gang.binLane (g : Gang) (lo hi l : Nat) : BinLane :=
  { lane := { g.lane l with st := .run, resv := none }
    preds := (List.range 96).foldl (fun (m : BitVec 96) p => if g.pred p l then m ||| (1#96 <<< p) else m) 0#96
    live := if lo ≤ hi then (List.range (hi + 1 - lo)).map (fun i => g.v (lo + i) l) else []
    uregs := g.uregs
    tdescs := g.tdescs }

/-- Lanes of the fill that is not yet full or expired. -/
def Bin.running (b : Bin) : Nat := b.lanes.length - b.fixed.foldl (· + ·) 0

/-- The running fill of a bin is full of time (R260): its timer has passed the timeout n of the launch. (log 4, DESIGN CHOICE) -/
def Bin.overdue (b : Bin) (n clock : Nat) : Bool :=
  decide (0 < b.running) && decide (n ≠ 0) && decide (n < b.base + (clock - b.since))

/-- The running fill of a bin expires. -/
def Bin.expire (b : Bin) : Bin := { b with fixed := b.fixed ++ [b.running] }

/-- A deposit at a clock: the timer of a fill starts with its first lane, and a fill of 32 is full (R126, R260). -/
def Bin.deposit (b : Bin) (clock : Nat) (ls : List BinLane) : Bin :=
  let b := if b.running = 0 then { b with base := 0, since := clock } else b
  let b := { b with lanes := b.lanes ++ ls }
  if 32 ≤ b.running then
    if 32 < b.running then { b with fixed := b.fixed ++ [32], base := 0, since := clock }
    else { b with fixed := b.fixed ++ [32] }
  else b

/-- The issue of a REGROUP: its target is looked at when some lane takes it (R74, R119). -/
def regroupSig (s : State) (t : BitVec 24) (g : Gang) : Sig :=
  ({ ok := true, lat := some 1, seeks := true } : Sig).toward s (g.active.map (fun l => (l, .block t.toNat)))

/-- REGROUP (R126). The lanes are deposited with every earlier write of the gang landed; those that stay run on. A fill whose time is up
takes no further lane (R260). In the privileged slot, which has no bins, the lanes are gone. (log 82, DESIGN CHOICE) -/
def execRegroup (t : BitVec 24) (s : State) : Out :=
  issue s (regroupSig s t)
    (fun g =>
      let w := s.myCrew g
      let ls := g.active
      let key := binKey t.toNat g.role
      let old := (mfind w.bins key).map (fun b => if b.overdue w.rgto s.clock then b.expire else b)
      if ls = [] then .go (s.put g)
      else if g.count 0 ≠ 0 ∨ g.count 1 ≠ 0 ∨ g.count 10 ≠ 0 ∨ g.claims ≠ [] then .hold
      else if (old = none ∧ 4 ≤ w.bins.length) ∨ 64 < ((old.map (·.lanes.length)).getD 0) + ls.length then .hold
      else
        let full := g.landAll
        let b := (old.getD { block := t.toNat, role := g.role, vcount := g.vcount }).deposit s.clock
          (ls.map (full.binLane w.liveLo w.liveHi))
        let h := g.modLanes ls (fun _ => {})
        ((s.put h).modCrew s.cur.core g.crew (fun w => { w with bins := minsert w.bins key b })).afterLeaving g.block
          (g.lanesIn .wait))

/-! ### Special registers (R36 to R42, R115, R116) -/

/-- GHREF at a phase of the refresh period (R40). (log 4, DESIGN CHOICE) (log 12, DESIGN CHOICE) -/
def ghrefAt (phase : Nat) : BitVec 32 :=
  let p := phase % 8192
  let b := p / 256
  let off := p % 256
  let next := 256 - off
  if off < 48 then BitVec.ofNat 32 (2 ^ 31 + 2 ^ 24 * b + 2 ^ 16 * (48 - off) + next)
  else BitVec.ofNat 32 (2 ^ 24 * ((b + 1) % 32) + next)

/-- CYC of a core (R38). (log 4, DESIGN CHOICE) -/
def State.cyc (s : State) (c : Nat) : BitVec 64 := BitVec.ofNat 64 (s.clock - (s.core c).cyc0)

/-- A write of RNGK by the issuing slot. (log 81, DESIGN CHOICE) -/
def State.setRngk (s : State) (g : Gang) (k : BitVec 64) : State :=
  if s.cur.slot = privSlot then s.modCore s.cur.core (fun x => { x with rngk := k })
  else s.modCrew s.cur.core g.crew (fun w => { w with rngk := k })

/-- The value of a special register for a lane (R36). In the privileged slot, which no crew owns, NBV reads 1 and KARGLO, KARGHI,
DOMAIN and PART read 0. (log 101, DESIGN CHOICE) -/
def State.special (s : State) (g : Gang) (n l : Nat) : BitVec 32 :=
  let c := s.cur.core
  let w := s.myCrew g
  let x := g.lane l
  match n with
  | 0x00 => x.wid.setWidth 32
  | 0x01 => (x.wid >>> 32).setWidth 32
  | 0x02 => BitVec.ofNat 32 l
  | 0x03 => BitVec.ofNat 32 s.cur.slot
  | 0x04 => BitVec.ofNat 32 c
  | 0x05 => (s.cyc c).setWidth 32
  | 0x06 => g.cychi
  | 0x07 => BitVec.ofNat 32 (w.modeb / 128 % 2)
  | 0x08 => g.nstat
  | 0x09 => ghrefAt (Config.ghPhase (dieOf c) + s.clock)
  | 0x0A => 0x570F0100#32
  | 0x0B => 0x1F#32 ||| (if s.lodge.cxl then 0x20#32 else 0#32)
  | 0x0C => 0x040A0400#32
  | 0x0D => w.karg.setWidth 32
  | 0x0E => (w.karg >>> 32).setWidth 32
  | 0x0F => (s.key g).setWidth 32
  | 0x10 => (s.key g >>> 32).setWidth 32
  | 0x11 => x.rngctr
  | 0x12 => BitVec.ofNat 32 x.nest
  | 0x13 => x.rsver
  | 0x14 => BitVec.ofNat 32 w.dom
  | 0x15 => BitVec.ofNat 32 w.part
  | 0x16 => (s.core c).sctl
  | _ => 0#32

/-- A matrix instruction of the gang that can still set a flag stands in its cluster's table (R39). -/
def State.flagsOwed (s : State) : Bool :=
  (mget {} s.cmes (s.cur.core / 4)).table.any (fun e => e.core = s.cur.core && e.slot = s.cur.slot)

/-- RDSR (R115). With no active lane it reads nothing and latches nothing. (log 83, DEDUCED) -/
def execRdsr (d : Dst) (a : BitVec 8) (s : State) : Out :=
  issue s (fun g => { ok := g.dstOk d && a.toNat ≤ 0x16, writes := dstRegs false d, lat := some 6 })
    (fun g =>
      if g.active = [] then .go (s.put g)
      else if a.toNat = 0x08 ∧ s.flagsOwed then .hold
      else
        let r := g.results d (fun l => ([s.special g a.toNat l], 0#32))
        let h := if a.toNat = 0x05 then { g with cychi := (s.cyc s.cur.core >>> 32).setWidth 32 } else g
        .go (s.put (h.schedule 6 r.1)))

/-- A 32-bit half of a 64-bit register replaced. -/
def setHalf (x : BitVec 64) (high : Bool) (w : BitVec 32) : BitVec 64 :=
  if high then w ++ x.setWidth 32 else (x >>> 32).setWidth 32 ++ w

/-- WRSR (R115, R37): a lane-owned register in the active lanes, any other from the highest active lane; NSTAT clears the
flags written as 1; a register marked RO is left as it is. (log 81, DESIGN CHOICE) -/
def execWrsr (d : BitVec 8) (a : Src) (s : State) : Out :=
  issue s (fun g => { ok := d.toNat ≤ 0x16 && g.srcOk a, reads := srcRegs false a, priv := d = 0x16#8 })
    (fun g =>
      let top := g.rd a (g.active.getLastD 0)
      if g.active = [] then .go (s.put g)
      else match d.toNat with
        | 0x08 => if s.flagsOwed then .hold else .go (s.put { g with nstat := g.nstat &&& ~~~(top &&& 0x7F#32) })
        | 0x0F => .go ((s.put g).setRngk g (setHalf (s.key g) false top))
        | 0x10 => .go ((s.put g).setRngk g (setHalf (s.key g) true top))
        | 0x11 => .go (s.put (g.active.foldl (fun h l => h.modLane l (fun x => { x with rngctr := g.rd a l })) g))
        | 0x16 => .go ((s.put g).modCore s.cur.core (fun x => { x with sctl := top &&& 1#32 }))
        | _ => .go (s.put g))

end Sys2Proof.Machine
end

