-- ==== Sys2Proof/Machine/MemOps.lean ====
section
/-! DEFINITION. Loads, stores, scratchpad, Glasshouse and row loads, reservation pairs, atomics, row operations, fences and
cache control (R155 to R174). -/

namespace Sys2Proof.Machine

/-! ### Addresses and elements (R155, R156) -/

/-- Element size of a memory instruction (R156). -/
def Gang.z (g : Gang) : Nat := elemSize g.etype

/-- Loaded elements are sign-filled (R156). -/
def Gang.zsigned (g : Gang) : Bool := g.etype = 0 || g.etype = 2 || g.etype = 4 || g.etype = 6

/-- An element takes a register pair. -/
def Gang.pair (g : Gang) : Bool := g.z = 8

/-- GlobalAddr (R155). -/
def Gang.globalAddr (g : Gang) (a b : Src) (l : Nat) : BitVec 64 := g.rd64 a l + (g.rd b l).signExtend 64

/-- The stored element of a source: its low bytes (R156). -/
def Gang.storeBytes (g : Gang) (a : Src) (l : Nat) : List (BitVec 8) :=
  leBytes g.z (if g.pair then (g.rd64 a l).toNat else (g.rd a l).toNat)

/-- A source of the size of an element. -/
def Gang.elemOk (g : Gang) (a : Src) : Bool := if g.pair then g.src64Ok a else g.srcOk a

/-- A destination of the size of an element. -/
def Gang.delemOk (g : Gang) (d : Dst) : Bool := if g.pair then g.dst64Ok d else g.dstOk d

/-- An address that has passed the checks of R158: lane, DPA and translation. -/
structure Ref where
  lane : Nat
  dpa : Nat
  tlb : Tlb
deriving DecidableEq, Repr

/-- The home slice of a reference, 64·die + slice; 256 + die stands for the banks of a die's Glasshouse (R276). -/
def Ref.slice (r : Ref) : Nat :=
  if targetOf r.dpa = .glass then 256 + (memUnit r.dpa).1 else let h := r.tlb.home r.dpa; 64 * h.1 + h.2

/-- Bytes at a reference, in the coherence units of its page. -/
def Ref.span (r : Ref) (data : List (BitVec 8)) (mask : List Bool := []) : Span :=
  { addr := r.dpa, usize := (r.tlb.unit r.dpa).2, delta := r.tlb.delta, data := data, mask := mask }

/-- Passing results. -/
def okRefs : List (Nat × BitVec 64 × Except Cond (Nat × Tlb)) → List Ref
  | [] => []
  | (l, _, .ok (dpa, t)) :: rest => ⟨l, dpa, t⟩ :: okRefs rest
  | _ :: rest => okRefs rest

/-- Failing results. -/
def badRefs : List (Nat × BitVec 64 × Except Cond (Nat × Tlb)) → List (Nat × BitVec 64 × Cond)
  | [] => []
  | (l, va, .error e) :: rest => (l, va, e) :: badRefs rest
  | _ :: rest => badRefs rest

/-- The checks of R158 over the lanes of an instruction: its references, or its trap. -/
def State.resolve (s : State) (a : Access) (z : Nat) (vas : List (Nat × BitVec 64)) : Except Trap (List Ref) :=
  let root := s.rootOf s.cur.core s.cur.slot
  let rs := vas.map (fun v => (v.1, v.2, s.checkAddr s.cur.core root a v.2 z))
  match firstCond (badRefs rs) with
  | some t => .error t
  | none => .ok (okRefs rs)

/-! ### Performance at a scope (R173, R219) -/

/-- A load by kind: its data has been written once the record is gone. -/
def LoadOp.isLoad (x : LoadOp) : Bool :=
  match x.kind with
  | .cached | .home | .shared | .ghl => true
  | _ => false

/-- A store, atomic or other operation is performed at a scope (R173). -/
def MemOp.performedAt (o : MemOp) (scope : Nat) : Bool :=
  match o.kind with
  | .read _ | .block _ _ => true
  | .cctl _ => false
  | .store => if scope ≤ 2 then true else if scope ≤ 4 then o.gotD else false
  | _ => if scope ≤ 2 then o.gotV else if scope ≤ 4 then o.gotD else false

/-- A command that FENCE waits for at SYSTEM scope: RPUT, RGET, RATOM, and WSIG or SIGADD with a global destination (R173). -/
def ACmd.isRemote (a : ACmd) : Bool :=
  a.kind = .rput || a.kind = .rget || a.kind = .ratom || ((a.kind = .wsig || a.kind = .sigadd) && a.flags / 2 % 2 = 1)

/-- A handle's die (R210). -/
def handleDie (h : BitVec 32) : Nat := h.toNat / 4096 % 4

/-- The dies that own the records of a Trellis operation in flight. -/
def TOp.dies (t : TOp) : List Nat :=
  match t.kind with
  | .opn | .load => [dieOf t.core]
  | _ => t.args.map (fun a => handleDie a.2.1)

/-- Every access that the gang in a slot issued before place n in program order is performed at a scope (R173, R219); at HOST scope no
posted write of it is without a completed read behind it (R364).
(log 34, DEDUCED) (log 91, DEDUCED) -/
def State.performed (s : State) (c k scope n : Nat) : Bool :=
  (s.core c).loads.all (fun x => ! (x.slot = k && x.seq < n && x.isLoad)) &&
  s.ops.all (fun o => ! (o.core = c && o.slot = k && o.seq < n) || o.performedAt scope) &&
  (scope < 4 || s.tops.all (fun t => ! (t.core = c && t.slot = k && t.seq < n) ||
    (scope = 4 && (t.arrived || ! decide (dieOf c ∈ t.dies))))) &&
  (scope ≠ 6 || (s.core c).queues.all (fun q => q.2.all (fun a => ! (a.slot = k && a.seq < n && a.isRemote)))) &&
  (scope ≠ 7 || s.host.posted.all (fun p => ! (p.1 = c && p.2.1 = k && p.2.2 < n)))

/-- The gang's accesses before place n that are not yet performed at PACKAGE scope, by identifier (R175, R199). -/
def State.outstanding (s : State) (c k n : Nat) : List Nat :=
  ((s.core c).loads.filter (fun x => x.slot = k && x.seq < n && x.isLoad)).map (·.id) ++
  (s.ops.filter (fun o => o.core = c && o.slot = k && o.seq < n && ! o.performedAt 5)).map (·.id) ++
  (s.tops.filter (fun t => t.core = c && t.slot = k && t.seq < n)).map (·.id)

/-- Accesses of a core that stood in a list of outstanding ones have all been performed. -/
def State.cleared (s : State) (c : Nat) (ids : List Nat) : Bool :=
  (s.core c).loads.all (fun x => ! decide (x.id ∈ ids)) && s.ops.all (fun o => ! decide (o.id ∈ ids)) &&
  s.tops.all (fun t => ! decide (t.id ∈ ids))

/-- Every access of the gang before the instruction it is issuing is performed at a scope. -/
def State.earlierDone (s : State) (g : Gang) (scope : Nat) : Bool := s.performed s.cur.core s.cur.slot scope g.seq

/-! ### Issue of loads (R161, R162, R166, R167, R287) -/

/-- How many distinct numbers a list holds. -/
def distinct (xs : List Nat) : Nat := (xs.foldl (fun (ys : List Nat) x => if x ∈ ys then ys else x :: ys) []).length

/-- A memory instruction waits while an earlier LDA of the gang has not returned (R162). -/
def Gang.mayAccess (g : Gang) : Bool := g.acquiring = []

/-- A home operation of the gang in flight on some bytes: a load of them is read at the home behind it (R159).
(log 23, DEDUCED) -/
def State.ownHomeOp (s : State) (addr n : Nat) : Bool :=
  s.ops.any (fun o => o.core = s.cur.core && o.slot = s.cur.slot && o.kind ≠ .store && ! o.gotV && o.touches addr n)

/-- Puts an operation on its way to its home slice. -/
def State.post (s : State) (kind : MsgKind) (o : MemOp) : State :=
  let s := { s.bump with ops := s.ops ++ [{ o with id := s.nextId }] }
  let x := o.spans.headD { addr := 0 }
  let u := (unitsOf x.addr 1 x.usize).headD 0
  s.sendM { kind := kind, core := o.core, slice := o.slice, unit := u, usize := x.usize, op := s.nextId - 1, part := o.part }

/-- An operation of the issuing gang. -/
def State.opOf (s : State) (g : Gang) (lane : Nat) (kind : OpKind) (slice : Nat) (spans : List Span) : MemOp :=
  { id := 0, core := s.cur.core, slot := s.cur.slot, seq := g.seq, lane := lane, part := s.partOf s.cur.core s.cur.slot
    grid := (s.myCrew g).grid, kind := kind, spans := spans, slice := slice }

/-- A unit is one that the device does not cache, or an answer that leaves no copy of it is on its way to the core: a load asks for it by
itself (R277, R364, R368). -/
def State.passing (s : State) (c : Nat) (u : Nat × Nat) : Bool :=
  s.uncached u.1 || s.net.any (fun m => decide (m.kind = .fillData) && m.core = c && m.unit = u.1 && m.usize = u.2 && m.nocache)

/-- One element of a load as it issues: served by the L1, asked for with its line, or read at its home. -/
def State.loadPart (s : State) (g : Gang) (id : Nat) (home : Bool) (r : Ref) (p : LoadPart) : State × LoadPart :=
  let u := r.tlb.unit r.dpa
  let p := { p with lane := r.lane, addr := r.dpa }
  if home || s.ownHomeOp r.dpa p.z then
    let o := s.opOf g r.lane (.read [r.lane]) r.slice [r.span (List.replicate p.z 0#8)]
    (s.post .homeOp { o with load := some id }, { p with unit := 0, usize := 0 })
  else
    let p := { p with unit := u.1, usize := u.2 }
    match (s.core s.cur.core).line? u.1 u.2 with
    | some l =>
      let bs := l.slice r.dpa p.z
      (s, { p with val := some (partValue p.z p.signed (bs.map (·.1))), stamps := bs.map (·.2) })
    | none =>
      if (s.core s.cur.core).fills.any (fun f => f.1 = u.1 && f.2.1 = u.2) && ! s.passing s.cur.core u then (s, p)
      else (s.askFill s.cur.core r.slice u.1 u.2 id (s.partOf s.cur.core s.cur.slot), p)

/-- The elements of a load, one after another. -/
def State.loadParts (s : State) (g : Gang) (id : Nat) (home : Bool) : List (Ref × LoadPart) → State × List LoadPart
  | [] => (s, [])
  | (r, p) :: rest =>
    let a := s.loadPart g id home r p
    let b := a.1.loadParts g id home rest
    (b.1, a.2 :: b.2)

/-- The first sector read from the L1 whose carried check value does not match (R389, R390). -/
def State.l1Bad (s : State) (ps : List LoadPart) : Option Nat :=
  ps.findSome? (fun p => if p.val.isSome then
    ((s.core s.cur.core).line? p.unit p.usize).bind (fun l => p.badOf l.bad) else none)

/-- Files a load: its record, and the counter of its path. -/
def State.fileLoad (s : State) (g : Gang) (path : Nat) (x : LoadOp) : State :=
  let locs := x.parts.flatMap (·.locs)
  let s := s.put (g.raise path locs)
  s.modCore s.cur.core (fun k => { k with loads := k.loads ++ [x] })

/-- A load of the issuing gang over references. -/
def State.issueLoad (s : State) (g : Gang) (home reserve : Bool) (ps : List (Ref × LoadPart)) : State :=
  let id := s.nextId
  let r := s.bump.loadParts g id home ps
  let bad := s.l1Bad r.2
  let t := match bad with
    | some q => r.1.mismatchAt (s.partOf s.cur.core s.cur.slot) s.cur.core (dieOf s.cur.core, 2) q
    | none => r.1
  t.fileLoad g 0 { id := id, slot := s.cur.slot, seq := g.seq, kind := if home then .home else .cached, reserve := reserve
                   failed := bad.isSome, parts := r.2 }

/-- A part of a load into a destination. -/
def Gang.part (g : Gang) (d : Dst) (l : Nat) : LoadPart :=
  { lane := l, locs := dstLocs d g.pair [l], z := g.z, signed := g.zsigned }

/-- The signature of a load. -/
def loadSig (g : Gang) (d : Dst) (ok : Bool) (reads : List Nat) : Sig :=
  { ok := g.delemOk d && ok, reads := reads, writes := dstRegs g.pair d }

/-- A per-lane load: addresses, kind of access, whether it reads at the home, reserves and acquires. -/
def loadOp (sig : Gang → Sig) (d : Dst) (addr : Gang → Nat → BitVec 64) (a : Access) (home reserve acquire once : Bool)
    (s : State) : Out :=
  issue s sig (fun g =>
    if ! g.mayAccess then .hold
    else if g.active = [] then .go (s.put g)
    else
      let ls := if once then g.active.take 1 else g.active
      let vas := ls.map (fun l => (l, addr g l))
      s.withWalks g (vas.map (·.2)) fun s => match s.resolve a g.z vas with
      | .error t => .trap t
      | .ok refs =>
        if 63 ≤ g.count 0 then .hold
        else
          let g1 := if acquire then { g with acquiring := g.acquiring ++ [g.seq] } else g
          let g1 := if reserve then
              refs.foldl (fun g r => g.modLane r.lane (fun x =>
                { x with resv := some { load := s.nextId, pa := r.dpa, z := g.z, stamps := [] } })) { g1 with ec := 64 }
            else g1
          .go (s.issueLoad g1 home reserve (refs.map (fun r => (r, g.part d r.lane)))))

/-- LD (R161). -/
def execLd (d : Dst) (a b : Src) (s : State) : Out :=
  loadOp (fun g => loadSig g d (dstVec d && g.src64Ok a && g.srcOk b) (srcRegs true a ++ srcRegs false b)) d
    (fun g l => g.globalAddr a b l) .load false false false false s
/-- LDG (R161): once, for the gang. -/
def execLdg (d : Dst) (a b : Src) (s : State) : Out :=
  loadOp (fun g => loadSig g d (dstUni d && g.src64Ok a && uniOnly a && g.srcOk b && uniOnly b)
      (srcRegs true a ++ srcRegs false b)) d
    (fun g l => g.globalAddr a b l) .load false false false true s
/-- LDA (R162): at CLUSTER or wider every element is read at its home. -/
def execLda (d : Dst) (a : BitVec 8) (b : Src) (s : State) : Out :=
  loadOp (fun g => loadSig g d (dstVec d && scopeOk a 7 && g.src64Ok b) (srcRegs true b)) d
    (fun g l => g.rd64 b l) .load (3 ≤ a.toNat) false true false s
/-- LDR (R167). -/
def execLdr (d : Dst) (a b : Src) (s : State) : Out :=
  loadOp (fun g => loadSig g d (dstVec d && g.src64Ok a && g.srcOk b) (srcRegs true a ++ srcRegs false b)) d
    (fun g l => g.globalAddr a b l) .loadHbm false true false false s

/-- LDROW (R166): one snapshot of the row at its home. (log 35, DEDUCED) -/
def execLdrow (d : Dst) (a : Src) (s : State) : Out :=
  issue s
    (fun g => { ok := (match d with
                  | .vec n => n % 4 = 0 && n + 3 < g.vcount
                  | _ => false) && g.src64Ok a && uniOnly a
                reads := srcRegs true a
                writes := (match d with
                  | .vec n => [n, n + 1, n + 2, n + 3]
                  | _ => []) })
    (fun g =>
      if ! g.mayAccess then .hold
      else if g.active = [] then .go (s.put g)
      else
        let vas := [(g.active.headD 0, g.rd64 a 0)]
        s.withWalks g (vas.map (·.2)) fun s => match s.resolve .loadHbm 512 vas with
        | .error t => .trap t
        | .ok refs =>
          if 63 ≤ g.count 0 then .hold
          else match refs with
            | [] => .go (s.put g)
            | r :: _ =>
              let base := match d with
                | .vec n => n
                | _ => 0
              let o := s.opOf g r.lane (.read g.active) r.slice [r.span (List.replicate 512 0#8)]
              let t := s.bump.post .homeOp { o with load := some s.nextId }
              let parts := g.active.map (fun l =>
                ({ lane := l, locs := (List.range 4).map (fun i => Loc.v (base + i) l), addr := r.dpa + 16 * l, z := 16
                   unit := 0, usize := 0 } : LoadPart))
              .go (t.fileLoad g 0 { id := s.nextId, slot := s.cur.slot, seq := g.seq, kind := .home, parts := parts }))

/-! ### Issue of stores and home operations (R161, R162, R168 to R172, R287) -/

/-- The writer's L1 takes a plain store at issue, its words pending (R287 step 1). -/
def State.storeL1 (s : State) (u : Nat × Nat) (addr id : Nat) (bs : List (BitVec 8)) : State :=
  match (s.core s.cur.core).line? u.1 u.2 with
  | none => s
  | some l =>
    let l := { l with
      bytes := l.bytes.mapIdx (fun i b => if addr ≤ u.1 + i ∧ u.1 + i < addr + bs.length then
        (bs.getD (u.1 + i - addr) 0#8, id) else b)
      pend := l.pend ++ [(id, addr, bs.length)] }
    s.modCore s.cur.core (fun x => x.setLine l)

/-- Distinct store instructions of the gang not yet performed at PACKAGE scope (R159): the operations of returning atomics, reads and
STC belong to a load. -/
def State.storesOut (s : State) : Nat :=
  ((s.ops.filter (fun o => o.core = s.cur.core && o.slot = s.cur.slot && o.load.isNone &&
    (match o.kind with
      | .cctl _ | .publish _ => false
      | _ => true))).foldl (fun (ns : List Nat) o => if o.seq ∈ ns then ns else o.seq :: ns) []).length

/-- Stores the elements of a plain store in increasing lane number. -/
def State.storeAll (s : State) (g : Gang) (data : Nat → List (BitVec 8)) : List Ref → State
  | [] => s
  | r :: rest =>
    let u := r.tlb.unit r.dpa
    let bs := data r.lane
    ((s.post .store (s.opOf g r.lane .store r.slice [r.span bs])).storeL1 u r.dpa s.nextId bs).storeAll g data rest

/-- The lines of the core's own L1 that a store writes are accessed (R320). (log 53, DESIGN CHOICE) -/
def State.countL1 (s : State) (refs : List Ref) : State :=
  let us := (refs.map (fun r => r.tlb.unit r.dpa)).filter (fun u => ((s.core s.cur.core).line? u.1 u.2).isSome)
  s.count (dieOf s.cur.core) (s.partOf s.cur.core s.cur.slot) 3 (distinct (us.map (fun u => dirKey u.1 u.2)))

/-- A plain store (R161, R162). -/
def storeOp (sig : Gang → Sig) (d : Src) (addr : Gang → Nat → BitVec 64) (release : Option Nat) (s : State) : Out :=
  issue s sig (fun g =>
    if ! g.mayAccess then .hold
    else if g.active = [] then .go (s.put g)
    else
      let vas := g.active.map (fun l => (l, addr g l))
      s.withWalks g (vas.map (·.2)) fun s => match s.resolve .store g.z vas with
      | .error t => .trap t
      | .ok refs =>
        let held := match release with
          | some scope => ! s.earlierDone g scope
          | none => false
        if held || 64 ≤ s.storesOut then .hold
        else .go (((s.put g).countL1 refs).storeAll g (g.storeBytes d) refs))

/-- ST (R161). -/
def execSt (d : Src) (a b : Src) (s : State) : Out :=
  storeOp (fun g => { ok := g.elemOk d && g.src64Ok a && g.srcOk b
                      reads := srcRegs g.pair d ++ srcRegs true a ++ srcRegs false b }) d
    (fun g l => g.globalAddr a b l) none s
/-- STL (R162). -/
def execStl (d : Src) (a : BitVec 8) (b : Src) (s : State) : Out :=
  storeOp (fun g => { ok := g.elemOk d && scopeOk a 7 && g.src64Ok b, reads := srcRegs g.pair d ++ srcRegs true b }) d
    (fun g l => g.rd64 b l) (some a.toNat) s

/-- Posts one home operation for each reference. -/
def State.postAll (s : State) (f : Ref → State → MemOp) (kind : MsgKind) : List Ref → State
  | [] => s
  | r :: rest => (s.post kind (f r s)).postAll f kind rest

/-- STC (R168): whether it stores is decided at the home; it waits until its lanes' LDR has been served. (log 21, DEDUCED) -/
def execStc (d : BitVec 8) (a b : Src) (s : State) : Out :=
  issue s
    (fun g => { ok := predOk d && g.src64Ok a && g.elemOk b
                reads := srcRegs true a ++ srcRegs g.pair b, writes := [predReg d] })
    (fun g =>
      if ! g.mayAccess then .hold
      else if g.active = [] then .go (s.put g)
      else
        let vas := g.active.map (fun l => (l, g.rd64 a l))
        s.withWalks g (vas.map (·.2)) fun s => match s.resolve .update g.z vas with
        | .error t => .trap t
        | .ok refs =>
          let unserved := g.active.any (fun l => match (g.lane l).resv with
            | some r => r.stamps = []
            | none => false)
          if unserved || 63 ≤ g.count 0 then .hold
          else
            let id := s.nextId
            let t := s.bump.postAll (fun r s =>
              let expect := match (g.lane r.lane).resv with
                | some v => if v.pa = r.dpa ∧ v.z = g.z then some v.stamps else none
                | none => none
              { s.opOf g r.lane .stc r.slice [r.span (g.storeBytes b r.lane)] with load := some id, expect := expect }) .store refs
            let parts := refs.map (fun r =>
              ({ lane := r.lane, locs := [.p d.toNat r.lane], addr := r.dpa, unit := 0, usize := 0 } : LoadPart))
            let g1 := g.modLanes g.active (fun x => { x with resv := none })
            .go ((t.fileLoad g1 0 { id := id, slot := s.cur.slot, seq := g.seq, kind := .stc, parts := parts })))

/-- The types an atomic takes (R170). -/
def atomicType (op ty : Nat) : Bool :=
  match op with
  | 0 | 1 | 2 => ty = 4 || ty = 5 || ty = 6 || ty = 12
  | 3 | 4 | 5 => ty = 4 || ty = 5 || ty = 6 || ty = 13
  | _ => ty = 4 || ty = 5 || ty = 6 || ty = 12 || ty = 13

/-- MIN and MAX take the signed types 4 and 6, the unsigned type 5 and FP32; the other checks of R170 are those of the
table. -/
def atomicOk (g : Gang) (op : Nat) (a b : Src) : Bool := atomicType op g.etype && g.src64Ok a && g.elemOk b

/-- One home operation per active lane, in increasing lane number (R171). -/
def State.postAtomics (s : State) (g : Gang) (op : Nat) (b : Src) (new : Nat → BitVec 64) (load : Option Nat)
    (refs : List Ref) : State :=
  s.postAll (fun r s =>
    { s.opOf g r.lane (.atomic op g.etype (new r.lane)) r.slice [r.span (g.storeBytes b r.lane)] with load := load }) .homeOp refs

/-- A returning atomic (R169 to R171): it claims a scoreboard slot for D, or none when D is 0xFC. -/
def atomicOp (op : Nat) (d : Dst) (a b : Src) (s : State) : Out :=
  issue s
    (fun g => { ok := g.delemOk d && dstVec d && atomicOk g op a b
                reads := srcRegs true a ++ srcRegs g.pair b ++ (if op = 7 then dstRegs g.pair d else [])
                writes := dstRegs g.pair d })
    (fun g =>
      if ! g.mayAccess then .hold
      else if g.active = [] then .go (s.put g)
      else
        let vas := g.active.map (fun l => (l, g.rd64 a l))
        s.withWalks g (vas.map (·.2)) fun s => match s.resolve .update g.z vas with
        | .error t => .trap t
        | .ok refs =>
          if d ≠ .none && 8 ≤ (g.claims.filter (·.slot)).length then .hold
          else
            let id := s.nextId
            let new := fun l => if g.pair then g.rd64 (dstSrc d) l else (g.rd (dstSrc d) l).setWidth 64
            let t := s.bump.postAtomics g op b new (some id) refs
            let parts := refs.map (fun r => { g.part d r.lane with addr := r.dpa, unit := 0, usize := 0 })
            let t := if d = .none then t.put g
              else (t.put (g.claim true (parts.flatMap (·.locs)))).modCore s.cur.core (fun k =>
                { k with loads := k.loads ++ [{ id := id, slot := s.cur.slot, seq := g.seq, kind := .atomic, parts := parts }] })
            .go t)

/-- A non-returning atomic (R169 to R171). -/
def reduceMemOp (op : Nat) (a b : Src) (s : State) : Out :=
  issue s
    (fun g => { ok := atomicOk g op a b, reads := srcRegs true a ++ srcRegs g.pair b })
    (fun g =>
      if ! g.mayAccess then .hold
      else if g.active = [] then .go (s.put g)
      else
        let vas := g.active.map (fun l => (l, g.rd64 a l))
        s.withWalks g (vas.map (·.2)) fun s => match s.resolve .update g.z vas with
        | .error t => .trap t
        | .ok refs =>
          if 64 ≤ s.storesOut then .hold
          else .go ((s.put g).postAtomics g op b (fun _ => 0#64) none refs))

/-- ATADD (R169). -/
def execAtadd (d : Dst) (a b : Src) (s : State) : Out := atomicOp 0 d a b s
/-- ATMIN (R169). -/
def execAtmin (d : Dst) (a b : Src) (s : State) : Out := atomicOp 1 d a b s
/-- ATMAX (R169). -/
def execAtmax (d : Dst) (a b : Src) (s : State) : Out := atomicOp 2 d a b s
/-- ATAND (R169). -/
def execAtand (d : Dst) (a b : Src) (s : State) : Out := atomicOp 3 d a b s
/-- ATOR (R169). -/
def execAtor (d : Dst) (a b : Src) (s : State) : Out := atomicOp 4 d a b s
/-- ATXOR (R169). -/
def execAtxor (d : Dst) (a b : Src) (s : State) : Out := atomicOp 5 d a b s
/-- ATXCH (R169). -/
def execAtxch (d : Dst) (a b : Src) (s : State) : Out := atomicOp 6 d a b s
/-- ATCAS (R101, R169). -/
def execAtcas (d : Dst) (a b : Src) (s : State) : Out := atomicOp 7 d a b s
/-- REDADD (R169). -/
def execRedadd (a b : Src) (s : State) : Out := reduceMemOp 0 a b s
/-- REDMIN (R169). -/
def execRedmin (a b : Src) (s : State) : Out := reduceMemOp 1 a b s
/-- REDMAX (R169). -/
def execRedmax (a b : Src) (s : State) : Out := reduceMemOp 2 a b s
/-- REDAND (R169). -/
def execRedand (a b : Src) (s : State) : Out := reduceMemOp 3 a b s
/-- REDOR (R169). -/
def execRedor (a b : Src) (s : State) : Out := reduceMemOp 4 a b s
/-- REDXOR (R169). -/
def execRedxor (a b : Src) (s : State) : Out := reduceMemOp 5 a b s

/-- A row operation (R172): bytes of element e come from lane e ÷ 8, and elements of inactive lanes keep their values.
(log 35, DEDUCED) -/
def rowOp (max : Bool) (d : Dst) (a : Src) (b : BitVec 8) (s : State) : Out :=
  let base := match d with
    | .vec n => n
    | _ => 0
  issue s
    (fun g => { ok := (match d with
                  | .vec n => n % 4 = 0 && n + 3 < g.vcount
                  | _ => false) && g.src64Ok a && uniOnly a
                reads := srcRegs true a ++ [base, base + 1, base + 2, base + 3] })
    (fun g =>
      if ! g.mayAccess then .hold
      else if g.active = [] then .go (s.put g)
      else
        let vas := [(g.active.headD 0, g.rd64 a 0)]
        s.withWalks g (vas.map (·.2)) fun s => match s.resolve .update 512 vas with
        | .error t => .trap t
        | .ok refs =>
          if 64 ≤ s.storesOut then .hold
          else
            let data := allLanes.flatMap (fun l => (List.range 4).flatMap (fun i => leBytes 4 (g.v (base + i) l).toNat))
            let mask := (List.range 512).map (fun i => decide (i / 2 ≤ b.toNat) && decide (i / 16 ∈ g.active))
            .go ((s.put g).postAll (fun r s => s.opOf g r.lane (.row max) r.slice [r.span data mask]) .homeOp refs))

/-- VRADD (R172). -/
def execVradd (d : Dst) (a : Src) (b : BitVec 8) (s : State) : Out := rowOp false d a b s
/-- VRMAX (R172). -/
def execVrmax (d : Dst) (a : Src) (b : BitVec 8) (s : State) : Out := rowOp true d a b s

/-! ### Scratchpad (R163, R164) -/

/-- A byte of a crew's scratchpad. -/
def Crew.spadByte (w : Crew) (a : Nat) : BitVec 8 := mget 0#8 w.spad a
def Crew.spadBytes (w : Crew) (a n : Nat) : List (BitVec 8) := (List.range n).map (fun i => w.spadByte (a + i))
def Crew.spadWrite (w : Crew) (a : Nat) (bs : List (BitVec 8)) : Crew :=
  { w with spad := mputs 0#8 w.spad ((List.range bs.length).zipWith (fun i b => (a + i, b)) bs) }

/-- The phase bit of a phase-bit barrier word (R228). -/
def Crew.phaseOf (w : Crew) (off : Nat) : Bool := (leNat (w.spadBytes off 4)) / 2 ^ 31 % 2 = 1

/-- Gangs of a crew that wait for a phase bit read their word again, and one that finds it satisfied is released (R228). -/
def Core.rereadPhases (x : Core) (crew : Nat) : Core :=
  let w := x.crew crew
  x.modGangsOf crew (fun g => match g.held with
    | some h => (match h.cond with
      | .phase off b => if w.phaseOf off = b then g.release else g
      | _ => g)
    | none => g)

/-- A step that writes a crew's scratchpad (R164, R228). -/
def State.spadStep (s : State) (c crew : Nat) (f : Crew → Crew) : State :=
  (s.modCrew c crew f).modCore c (fun x => x.rereadPhases crew)

/-- The scratchpad offset of a lane (R163). -/
def Gang.spadOff (g : Gang) (a b : Src) (l : Nat) : Nat := (g.rd a l + g.rd b l).toNat

/-- The checks of R158 on scratchpad elements: misalignment, then bounds. -/
def spadTrap (z sc : Nat) (offs : List (Nat × Nat)) : Option Trap :=
  firstCond (offs.filterMap (fun o =>
    if o.2 % z ≠ 0 then some (o.1, BitVec.ofNat 64 o.2, ⟨1, 0x12⟩)
    else if sc < o.2 + z then some (o.1, BitVec.ofNat 64 o.2, ⟨6, 0x13⟩)
    else none))

/-- LDS (R163, R164): reads the array in its issue step. -/
def execLds (d : Dst) (a b : Src) (s : State) : Out :=
  issue s (fun g => loadSig g d (dstVec d && g.srcOk a && g.srcOk b) (srcRegs false a ++ srcRegs false b))
    (fun g =>
      let w := s.myCrew g
      let offs := g.active.map (fun l => (l, g.spadOff a b l))
      if ! g.mayAccess then .hold
      else if g.active = [] then .go (s.put g)
      else match spadTrap g.z w.sc offs with
        | some t => .trap t
        | none =>
          if d ≠ .none && 8 ≤ (g.claims.filter (·.slot)).length then .hold
          else
            let parts := offs.map (fun o =>
              { g.part d o.1 with addr := o.2, unit := 0, usize := 0
                                  val := some (partValue g.z g.zsigned (w.spadBytes o.2 g.z)) })
            let g1 := if d = .none then g else g.claim true (parts.flatMap (·.locs))
            .go ((s.put g1).bump.modCore s.cur.core (fun k =>
              { k with loads := k.loads ++ [{ id := s.nextId, slot := s.cur.slot, seq := g.seq, kind := .shared, parts := parts }] })))

/-- STS (R163, R164): writes the array in its issue step, in increasing lane number. (log 53, DESIGN CHOICE) -/
def execSts (d : Src) (a b : Src) (s : State) : Out :=
  issue s (fun g => { ok := g.elemOk d && g.srcOk a && g.srcOk b
                      reads := srcRegs g.pair d ++ srcRegs false a ++ srcRegs false b })
    (fun g =>
      let w := s.myCrew g
      let offs := g.active.map (fun l => (l, g.spadOff a b l))
      if ! g.mayAccess then .hold
      else if g.active = [] then .go (s.put g)
      else match spadTrap g.z w.sc offs with
        | some t => .trap t
        | none =>
          let w1 := offs.foldl (fun w o => w.spadWrite o.2 (g.storeBytes d o.1)) w
          .go (((s.put g).spadStep s.cur.core g.crew (fun _ => w1)).count (dieOf s.cur.core) (s.partOf s.cur.core s.cur.slot) 3
            (distinct (offs.map (fun o => o.2 / 128)))))

/-! ### Glasshouse loads (R165) -/

/-- The region that a launch bound in slot k. -/
def State.boundRegion (s : State) (w : Crew) (k : Nat) : Option Region := (w.regions[k]?).bind (fun n => mfind s.lodge.regions n)

/-- LDW (R165): the value is the region's, which stays as it was bound. -/
def execLdw (d : Dst) (a : Src) (b : BitVec 8) (s : State) : Out :=
  issue s (fun g => loadSig g d (dstVec d && g.srcOk a && b.toNat < 8) (srcRegs false a))
    (fun g =>
      let w := s.myCrew g
      let ls := g.active
      if ! g.mayAccess then .hold
      else if ls = [] then .go (s.put g)
      else
        let region := s.boundRegion w b.toNat
        let size := (region.map (fun r => r.size * 65536)).getD 0
        let bad := ls.filterMap (fun l =>
          let off := (g.rd a l).toNat
          if off % g.z ≠ 0 then some (l, BitVec.ofNat 64 off, Cond.mk 1 0x12)
          else if region.isNone || decide (size < off + g.z) then some (l, BitVec.ofNat 64 off, Cond.mk 4 0x11)
          else none)
        match firstCond bad with
        | some t => .trap t
        | none =>
          if 63 ≤ g.count 1 then .hold
          else
            let base := (region.map Region.start).getD 0
            let parts := ls.map (fun l =>
              let at_ := base + (g.rd a l).toNat
              { g.part d l with addr := at_, unit := 0, usize := 0
                                val := some (partValue g.z g.zsigned (s.bytes at_ g.z)) })
            let bad := s.firstBad (parts.map (fun p => (p.addr, p.z)))
            let t := match bad with
              | some q => s.mismatch (s.partOf s.cur.core s.cur.slot) s.cur.core q
              | none => s
            .go (t.bump.fileLoad g 1 { id := t.nextId, slot := s.cur.slot, seq := g.seq, kind := .ghl, failed := bad.isSome
                                       parts := parts }))

/-! ### Completion of loads (R48, R88, R89, R161, R171) -/

/-- The words that a part writes: one for each of its locations, from the value up. -/
def LoadPart.writes (p : LoadPart) : List (Loc × BitVec 128) :=
  p.locs.mapIdx (fun i x => (x, ((p.val.getD 0) >>> (32 * i)).setWidth 32 |>.setWidth 128))

/-- A load's reservations learn which writes they stand on (R167). -/
def Gang.settleResv (g : Gang) (x : LoadOp) : Gang :=
  x.parts.foldl (fun g p => g.modLane p.lane (fun y =>
    { y with resv := y.resv.map (fun r => if r.load = x.id then { r with stamps := p.stamps } else r) })) g

/-- The array accesses of a load: its event of R320 and their number; those of LDW are counted at the bank. (log 53, DESIGN CHOICE) -/
def LoadOp.accesses (x : LoadOp) : Nat × Nat :=
  match x.kind with
  | .cached => (3, distinct (x.parts.map (·.unit)))
  | .shared => (3, distinct (x.parts.map (fun p => p.addr / 128)))
  | .ghl => (4, distinct (x.parts.map (fun p => p.addr / 512)))
  | _ => (3, 0)

/-- The data of a load is written, and its counter or claim falls. A failed access delivers nothing (R390).
(log 36, DEDUCED) -/
def State.completeLoad (s : State) (c : Nat) (x : LoadOp) : State :=
  let die := if x.kind = .ghl then (memUnit ((x.parts.map (·.addr)).headD 0)).1 else dieOf c
  let s := s.count die (s.partOf c x.slot) x.accesses.1 x.accesses.2
  let s := s.modCore c (fun k => { k with loads := k.loads.filter (fun y => y.id ≠ x.id) })
  s.modGang c x.slot (fun g =>
    let ws := if x.failed then [] else x.parts.flatMap LoadPart.writes
    let g := g.arrive x.seq (g.owned x.seq) ws
    let g := if x.reserve then g.settleResv x else g
    let g := { g with acquiring := g.acquiring.filter (· ≠ x.seq) }
    match x.kind with
    | .cached | .home | .stc => g.finishFlight x.seq 0
    | .ghl => g.finishFlight x.seq 1
    | _ => g.freeClaim x.seq)

/-- A load can complete: every element has been served; a failed one of a crew waits for its containment (R390). -/
def LoadOp.done (x : LoadOp) : Bool := if x.failed then x.slot = privSlot else x.parts.all (fun p => p.val.isSome)

/-- Nothing of a load that was read at a home is still on its way to the core (R277, R286). -/
def State.arrived (s : State) (c : Nat) (x : LoadOp) : Bool := s.ops.all (fun o => ! (o.core = c && o.load = some x.id) || o.gotV)

/-- LOAD_COMPLETE (R88, R89, R161 to R168). -/
def execLoadComplete (s : State) : Out :=
  let c := s.arg.a
  match (s.core c).loads.find? (fun x => x.id = s.arg.b) with
  | none => .next s
  | some x =>
    if x.done && decide (x.kind ≠ .atomic) && decide (x.kind ≠ .tile) && s.arrived c x then .next (s.completeLoad c x) else .next s

/-- ATOMIC_RETURN (R89, R171): the value returns with the operation's own update. -/
def execAtomicReturn (s : State) : Out :=
  let c := s.arg.a
  match (s.core c).loads.find? (fun x => x.id = s.arg.b) with
  | none => .next s
  | some x =>
    if x.done && decide (x.kind = .atomic) && s.arrived c x then
      .next (s.completeLoad c x)
    else .next s

/-! ### Fences and cache control (R173, R174) -/

/-- The scope a FENCE names orders only what lies within it; ROW is refused (R173). (log 34, DEDUCED) -/
def execFence (a : BitVec 8) (s : State) : Out :=
  issue s (fun _ => { ok := scopeOk a 7 })
    (fun g =>
      if g.active = [] then .go (s.put g)
      else if s.earlierDone g a.toNat then .go (s.put g)
      else .jump (s.put (g.hold s (.performed a.toNat g.seq))))

/-- A prefetch of a line into the L1, unless the L1 holds it or has asked for it (R174). -/
def State.prefL1 (s : State) (r : Ref) : State :=
  let u := r.tlb.unit r.dpa
  let x := s.core s.cur.core
  if (x.line? u.1 u.2).isSome || x.fills.any (fun f => f.1 = u.1 && f.2.1 = u.2) then s
  else s.bump.askFill s.cur.core r.slice u.1 u.2 s.nextId (s.partOf s.cur.core s.cur.slot)

/-- A prefetch of a line into its home slice: a fill request that asks for no data (R174). -/
def State.prefL2 (s : State) (r : Ref) : State :=
  let u := r.tlb.unit r.dpa
  s.bump.sendM { kind := .fillReq, core := s.cur.core, slice := r.slice, unit := u.1, usize := u.2, op := s.nextId
                 part := s.partOf s.cur.core s.cur.slot, nocache := true }

/-- The references of a PREF: an address that fails a check of R158, for an element of the size of MODE.ETYPE, is dropped (R174).
(log 93, DEDUCED) -/
def State.prefRefs (s : State) (g : Gang) (a : Src) : List Ref :=
  let root := s.rootOf s.cur.core s.cur.slot
  okRefs (g.active.map (fun l => (l, g.rd64 a l, s.checkAddr s.cur.core root .load (g.rd64 a l) g.z)))

/-- PREF (R174). -/
def execPref (a : Src) (b : BitVec 8) (s : State) : Out :=
  issue s (fun g => { ok := g.src64Ok a && b.toNat ≤ 1, reads := srcRegs true a })
    (fun g =>
      if ! g.mayAccess then .hold
      else s.withWalks g (g.active.map (fun l => g.rd64 a l)) fun s =>
        .go ((s.prefRefs g a).foldl (fun (s : State) r => if b.toNat = 1 then s.prefL2 r else s.prefL1 r) (s.put g)))

/-- CCTL on the lines of the active lanes (R174): f acts on one line. (log 24, DESIGN CHOICE) -/
def cctlOp (a : Src) (wait : State → Nat × Nat → Bool) (f : State → Gang → Ref → Nat × Nat → State) (s : State) : Out :=
  issue s (fun g => { ok := g.src64Ok a, reads := srcRegs true a })
    (fun g =>
      let root := s.rootOf s.cur.core s.cur.slot
      let vas := g.active.map (fun l => (l, g.rd64 a l))
      s.withWalks g (vas.map (·.2)) fun s =>
        let bad := vas.filterMap (fun v =>
          if ! canonical v.2 then some (v.1, v.2, Cond.mk 2 0x11)
          else match s.translate s.cur.core root v.2 with
            | .error .page => some (v.1, v.2, Cond.mk 3 0x10)
            | .error .access => some (v.1, v.2, Cond.mk 4 0x11)
            | .ok _ => none)
        let refs := vas.filterMap (fun v => match s.translate s.cur.core root v.2 with
          | .ok t => some (Ref.mk v.1 (t.dpaOf (vaLow v.2)) t)
          | .error _ => none)
        match firstCond bad with
        | some t => .trap t
        | none =>
          let units := refs.map (fun r => (r, r.tlb.unit r.dpa))
          if ! g.mayAccess || units.any (fun p => wait s p.2) then .hold
          else .go (units.foldl (fun s p =>
            if targetOf p.1.dpa = .hbm || targetOf p.1.dpa = .host then f s g p.1 p.2 else s) (s.put g)))

/-- CCTL op 0 (R174, R290): the line leaves the L1 at issue; a line on its way here is waited for. (log 24, DESIGN CHOICE) -/
def execCctlEvictL1 (a : Src) (s : State) : Out :=
  cctlOp a (fun s u => (s.core s.cur.core).fills.any (fun f => f.1 = u.1 && f.2.1 = u.2))
    (fun s g r u =>
      (s.modCore s.cur.core (fun x => x.dropLine u.1 u.2)).post .evict
        (s.opOf g r.lane (.cctl 0) r.slice [{ addr := u.1, usize := u.2, delta := r.tlb.delta }])) s

/-- CCTL op 1 (R174, R288): a request to the home slice. -/
def execCctlWriteBack (a : Src) (s : State) : Out :=
  cctlOp a (fun _ _ => false)
    (fun s g r u => s.post .cctl (s.opOf g r.lane (.cctl 1) r.slice [{ addr := u.1, usize := u.2, delta := r.tlb.delta }])) s

end Sys2Proof.Machine
end

