-- ==== Sys2Proof/Machine/Barriers.lean ====
section
/-! DEFINITION. Waits, barriers and the event matrix (R183, R184, R226 to R231, R242, R243, R255, R257). -/

namespace Sys2Proof.Machine

/-! ### Waiting (R243) -/

/-- No gang of the crew in a lower slot waits on the event line (R231). -/
def State.firstWaiter (s : State) (c k crew e : Nat) : Bool :=
  match (s.core c).waiter crew e with
  | some y => k ≤ y.1
  | none => true

/-- A read of a word at its home by the gang in a slot would see what the gang has stored there and what the core's copies hold: no
store of it is on its way to the home, and nothing is on its way to the core (R159, R277, R286). -/
def State.homeSeen (s : State) (c k seq dpa n : Nat) : Bool :=
  s.ops.all (fun o => ! (o.core = c && o.slot = k && o.seq < seq && ! o.applied && o.touches dpa n)) &&
  s.net.all (fun m => ! (m.core = c && ! m.up && m.unit < dpa + n && dpa < m.unit + m.usize))

/-- The signal word of a wait may be read: the gang's own stores have come to its home, and the slice and the host let it. -/
def State.wordSeen (s : State) (c k seq : Nat) (x : Spot) : Bool := s.homeSeen c k seq x.a x.n && (s.access false x).2

/-- A freed ticket f covers a ticket t (R224). -/
def ticketDone (f t : BitVec 32) : Bool := t = 0#32 || (f - t).toNat < 2 ^ 31

/-- A write or a pulse has satisfied the wait of a gang. -/
def Gang.isMet (g : Gang) : Bool := g.held.any (·.met)

/-- The condition of a wait holds for the gang in a slot. A wait that a write or a pulse has satisfied is over (R228, R231). -/
def State.condHolds (s : State) (c k : Nat) (g : Gang) (w : WaitCond) : Bool :=
  match w with
  | .counter path t => 63 ≤ t || g.count path ≤ t
  | .performed scope n => s.performed c k scope n
  | .signal x thr _ seq => s.wordSeen c k seq x && s.rangeOk x.a x.n && decide (thr.toNat ≤ (s.word64 x.a).toNat)
  | .ticket dom t => ticketDone (mget 0#32 (s.core c).freed dom) t
  | .bar n => ! g.barPend.getLsbD n || (mget {} (s.crew c g.crew).bars n).ph != g.barPhase.getLsbD n
  | .phase off b => g.isMet || (s.crew c g.crew).phaseOf off = b
  | .event e => g.isMet || (decide (1 ≤ (mget {} (s.crew c g.crew).events e).cnt) && s.firstWaiter c k g.crew e)
  | .trapLine _ => 1 ≤ (s.core c).trapLine

/-- What a wait does as it completes; a pulse that has released the gang has been taken (R231). The read with which a wait ends is counted
(R320). (log 53, DESIGN CHOICE) -/
def State.condEffect (s : State) (c k : Nat) (met : Bool) (w : WaitCond) : State :=
  match w with
  | .bar n => s.modGang c k (fun g => { g with barPend := g.barPend &&& ~~~(1#16 <<< n) })
  | .signal x _ _ _ => (s.charge (s.partOf c k) true x).served false x.a x.n
  | .phase _ _ => s.count (dieOf c) (s.partOf c k) 3 1
  | .event e =>
    if met then s
    else match s.gang? c k with
    | some g => s.modCrew c g.crew (fun w =>
        let l := mget {} w.events e
        { w with events := minsert w.events e { l with cnt := l.cnt - 1 } })
    | none => s
  | .trapLine true => s.modCore c (fun x => { x with trapLine := x.trapLine - 1 })
  | _ => s

/-- A waiting instruction: it completes at once when its condition holds, and otherwise holds its gang. -/
def State.waitFor (s : State) (g : Gang) (w : WaitCond) : Res :=
  if s.condHolds s.cur.core s.cur.slot g w then .go ((s.put g).condEffect s.cur.core s.cur.slot false w)
  else .jump (s.put (g.hold s w))

/-- The waits whose clocks count for fairness (R255). -/
def WaitCond.fair : WaitCond → Bool
  | .bar _ | .phase _ _ | .event _ | .signal _ _ _ _ | .ticket _ _ => true
  | _ => false

/-- The fairness count with the clocks of a held wait in it (R255). (log 4, DESIGN CHOICE) -/
def Gang.fcNow (g : Gang) (clock : Nat) : Nat :=
  match g.held with
  | some h => if h.cond.fair && decide (g.lanesIn .wait ≠ []) then min (g.fc + (clock - h.since)) 4096 else g.fc
  | none => g.fc

/-- What a wait needs of the host, or of the slice, is asked for (R184, R288, R368). -/
def State.askWait (s : State) (w : WaitCond) : State :=
  match w with
  | .signal x _ _ _ => (s.access false x).1
  | _ => s

/-- The sector of a signal word that a wait finds not to match its check value (R389). -/
def State.waitBad (s : State) (c k : Nat) (w : WaitCond) : Option Nat :=
  match w with
  | .signal x _ _ seq => if s.wordSeen c k seq x then s.spotBad [x] else none
  | _ => none

/-- A gang leaves its wait without completing it: the clocks that it waited count (R255), a BARSYNC is known again by its place (R262),
and a pulse that it took is given back, since EVWAIT has consumed nothing (R351). -/
def Gang.leaveWait (g : Gang) (clock : Nat) : Gang :=
  { g with
    fc := g.fcNow clock
    resync := match g.held with
      | some h => (match h.cond with
        | .bar n => { block := g.block, slot := g.slot, bar := n, ph := g.barPhase.getLsbD n, lanes := maskOf g.active } :: g.resync
        | _ => g.resync)
      | none => g.resync
    held := none }

/-- The event line whose pulse a waiting gang has taken. -/
def Gang.tookPulse (g : Gang) : Option Nat :=
  match g.held with
  | some h => (match h.cond with
    | .event e => if h.met then some e else none
    | _ => none)
  | none => none

/-- A gang stops at its pre-emption point: its pending writes land, and a wait is left, to be issued again (R238, R351). -/
def Gang.preempt (g : Gang) (clock : Nat) : Gang :=
  { (g.leaveWait clock).landAll with coded := 0, yieldFor := [], yieldLeft := 0 }

/-- Gangs of a crew stop at their pre-emption points and are changed by f; pulses that they had taken go back to their event lines. -/
def Core.preempt (x : Core) (crew clock : Nat) (p : Gang → Bool) (f : Gang → Gang) : Core :=
  let took := ((x.gangsOf crew).filter (fun y => p y.2)).filterMap (fun y => y.2.tookPulse)
  took.foldl (fun x e => x.eventAdd crew e) (x.modGangsOf crew (fun g => if p g then f (g.preempt clock) else g))

/-- WAIT_CONDITION_MET (R243). A signal word that does not match its check value contains the crew's partition; in the privileged slot
the wait is over with the error (R389, R390). (log 100, DESIGN CHOICE) -/
def execWaitConditionMet (s : State) : Out :=
  let c := s.arg.a
  let k := s.arg.b
  match s.gang? c k with
  | none => .next s
  | some g =>
    match g.held with
    | none => .next s
    | some h =>
      if g.stopped || g.saving then .next (s.askWait h.cond)
      else if let some q := s.waitBad c k h.cond then
        let t := s.mismatch (s.partOf c k) c q
        .next (if k = privSlot then (t.setGang c k { g with held := none }).finish c k h.len h.stall none else t)
      else if ! s.condHolds c k g h.cond then .next (s.askWait h.cond)
      else .next (((s.setGang c k { g with held := none, fc := g.fcNow s.clock }).condEffect c k h.met h.cond).finish c k h.len h.stall
        none)

/-- FAIRNESS_SWITCH in a held wait (R257): the wait is abandoned and its lanes will resume at it. -/
def execFairnessSwitch (s : State) : Out :=
  let c := s.arg.a
  let k := s.arg.b
  match s.gang? c k with
  | none => .next s
  | some g =>
    match g.held with
    | none => .next s
    | some h =>
      if g.stopped || g.saving || h.met || ! h.cond.fair || g.fcNow s.clock < 4096 || g.ec ≠ 0 || g.resume.isSome || g.lanesIn .wait = [] then .next s
      else
        let waited := g.lanesIn .wait
        let r : Resume := { block := g.block, slot := g.slot, lanes := maskOf g.exm }
        let g1 := { ((g.leaveWait s.clock).park (fun _ => g.block)) with resume := some r }
        match g1.frontier g.block g.exm waited true with
        | (g2, .to b at_ _) => .next (s.setGang c k (g2.jump b at_))
        | (g2, _) => .next (s.setGang c k g2)

/-- WAITC (R183): ignores the guard. -/
def execWaitc (d : BitVec 8) (a : Src) (s : State) : Out :=
  issue s (fun g => { ok := d.toNat ≤ 11 && g.srcOk a && uniOnly a, reads := srcRegs false a, guarded := false })
    (fun g => s.waitFor g (.counter d.toNat (g.rd a 0).toNat))

/-- SIGWAIT (R184). -/
def execSigwait (d : BitVec 8) (a b : Src) (s : State) : Out :=
  issue s
    (fun g => { ok := scopeOk d 7 && g.src64Ok a && uniOnly a && g.src64Ok b && uniOnly b
                reads := srcRegs true a ++ srcRegs true b })
    (fun g =>
      let vas := [(g.active.headD 0, g.rd64 a 0)]
      if ! g.mayAccess then .hold
      else if g.active = [] then .go (s.put g)
      else s.withWalks g (vas.map (·.2)) fun s => match s.resolve .load 8 vas with
        | .error t => .trap t
        | .ok refs => s.waitFor g (.signal ((refs.map (fun r => r.tlb.spot r.dpa 8)).headD { a := 0, n := 8 }) (g.rd64 b 0) d.toNat g.seq))

/-! ### Crew barriers (R226, R227) -/

/-- The lanes of a gang arrive at a barrier (R227), but for some: a lane of the arrived set is not counted again. -/
def State.arriveBar (s : State) (g : Gang) (n : Nat) (but : List Nat := []) : State :=
  let c := s.cur.core
  let new := g.active.filter (fun l => ! (g.lane l).marks.getLsbD n && ! decide (l ∈ but))
  let b := mget {} (s.myCrew g).bars n
  let g := g.modLanes new (fun x => { x with marks := x.marks ||| (1#16 <<< n) })
  let g := { g with
    barPend := g.barPend ||| (1#16 <<< n)
    barPhase := if b.ph then g.barPhase ||| (1#16 <<< n) else g.barPhase &&& ~~~(1#16 <<< n) }
  ((s.put g).modCrew c g.crew (fun w => { w with bars := minsert w.bars n { b with cnt := b.cnt + new.length } })).barCheck c
    g.crew n

/-- The issue of a crew-barrier instruction. -/
def barSig (s : State) (n : BitVec 8) (g : Gang) : Sig := { ok := n.toNat < (s.myCrew g).nbars }

/-- BARARR (R227). -/
def execBararr (b : BitVec 8) (s : State) : Out :=
  issue s (barSig s b) (fun g =>
    if g.active = [] then .go (s.put g)
    else if ! s.earlierDone g 1 then .hold
    else .go (s.arriveBar g b.toNat))

/-- BARWAIT (R227). -/
def execBarwait (b : BitVec 8) (s : State) : Out :=
  issue s (barSig s b) (fun g => if g.active = [] then .go (s.put g) else s.waitFor g (.bar b.toNat))

/-- A record of lanes that left the BARSYNC that a gang is issuing. -/
def Resync.isHere (r : Resync) (g : Gang) (n : Nat) : Bool := r.block = g.block && r.slot = g.slot && r.bar = n

/-- The active lanes that left this BARSYNC while it waited, and whose phase has completed since (R257, R262, R351).
(log 75, DEDUCED) -/
def State.lanesOver (s : State) (g : Gang) (n : Nat) : List Nat :=
  g.active.filter (fun l => g.resync.any (fun r => r.isHere g n && r.lanes.getLsbD l && ((mget {} (s.myCrew g).bars n).ph != r.ph)))

/-- That is so of every lane that issues it again. -/
def State.phaseOver (s : State) (g : Gang) (n : Nat) : Bool := g.active.all (fun l => decide (l ∈ s.lanesOver g n))

/-- Lanes that issue a BARSYNC again leave no record of it; the records of other lanes stay. -/
def Gang.resynced (g : Gang) (n : Nat) : Gang :=
  let left := g.resync.map (fun r => if r.isHere g n then { r with lanes := r.lanes &&& ~~~(maskOf g.active) } else r)
  { g with resync := left.filter (fun r => r.lanes ≠ 0#32) }

/-- The wait of a BARSYNC whose phase has completed: nothing pends at the barrier for a phase that is not the current one. -/
def Gang.passBar (g : Gang) (n : Nat) (ph : Bool) : Gang :=
  { g.resynced n with barPend := if g.barPhase.getLsbD n != ph then g.barPend &&& ~~~(1#16 <<< n) else g.barPend }

/-- BARSYNC (R227). Issued again after it was left, it adds no arrival for lanes that have arrived, and waits for the same phase
(R262). (log 75, DEDUCED) -/
def execBarsync (b : BitVec 8) (s : State) : Out :=
  issue s (barSig s b) (fun g =>
    if g.active = [] then .go (s.put g)
    else if ! s.earlierDone g 1 then .hold
    else if s.phaseOver g b.toNat then .go (s.put (g.passBar b.toNat (mget {} (s.myCrew g).bars b.toNat).ph))
    else
      let t := s.arriveBar (g.resynced b.toNat) b.toNat (s.lanesOver g b.toNat)
      match t.gang? s.cur.core s.cur.slot with
      | some h => t.waitFor h (.bar b.toNat)
      | none => .go t)

/-! ### Phase-bit barriers (R228) -/

/-- The checks on the word's offset (R228). -/
def phaseTrap (g : Gang) (sc : Nat) (off : Nat) : Option Trap := spadTrap 4 sc [(g.active.headD 0, off)]

/-- PBARR (R228). (log 53, DESIGN CHOICE) -/
def execPbarr (a : Src) (b : BitVec 8) (s : State) : Out :=
  issue s (fun g => { ok := g.srcOk a && uniOnly a && b.toNat ≤ 1, reads := srcRegs false a })
    (fun g =>
      let w := s.myCrew g
      let off := (g.rd a 0).toNat
      if g.active = [] then .go (s.put g)
      else match phaseTrap g w.sc off with
        | some t => .trap t
        | none =>
          if ! s.earlierDone g 1 then .hold
          else
            let x := leNat (w.spadBytes off 4)
            let ph := x / 2 ^ 31
            let exp := x / 2 ^ 16 % 2 ^ 15
            let cnt := x % 2 ^ 16 + (if b.toNat = 0 then g.active.length else 1)
            let y := if exp ≤ cnt then (1 - ph) * 2 ^ 31 + exp * 2 ^ 16 else ph * 2 ^ 31 + exp * 2 ^ 16 + min cnt 65535
            .go (((s.put g).spadStep s.cur.core g.crew (fun w => w.spadWrite off (leBytes 4 y))).count (dieOf s.cur.core)
              (s.partOf s.cur.core s.cur.slot) 3 1))

/-- PBWAIT (R228). -/
def execPbwait (a b : Src) (s : State) : Out :=
  issue s (fun g => { ok := g.srcOk a && uniOnly a && g.srcOk b && uniOnly b, reads := srcRegs false a ++ srcRegs false b })
    (fun g =>
      let off := (g.rd a 0).toNat
      if g.active = [] then .go (s.put g)
      else match phaseTrap g (s.myCrew g).sc off with
        | some t => .trap t
        | none => s.waitFor g (.phase off ((g.rd b 0).getLsbD 0)))

/-! ### The event matrix (R229 to R231, R242) -/

/-- EVROUTE (R230). -/
def execEvroute (d a b : BitVec 8) (s : State) : Out :=
  issue s
    (fun g => { ok := s.cur.slot ≠ privSlot && d.toNat ≤ 7 && b.toNat ≤ 8 &&
                  (a.toNat ≤ 10 || (16 ≤ a.toNat && a.toNat < 16 + (s.myCrew g).nbars && a.toNat ≤ 31)) })
    (fun g =>
      if g.active = [] then .go (s.put g)
      else .go ((s.put g).modCrew s.cur.core g.crew (fun w =>
        let ev := if b.toNat = 0 then w.events
          else w.events.map (fun e => if e.2.sink = b.toNat ∧ e.1 ≠ d.toNat then (e.1, { e.2 with sink := 0 }) else e)
        { w with events := minsert ev d.toNat { src := a.toNat, sink := b.toNat, cnt := 0 } })))

/-- Adds one to a core's trap line (R242). -/
def State.trapPulse (s : State) (c : Nat) : State := s.modCore c (fun x => { x with trapLine := min (x.trapLine + 1) 65535 })

/-- EVPOST (R231, R242). -/
def execEvpost (b : BitVec 8) (s : State) : Out :=
  issue s (fun _ => { ok := if s.cur.slot = privSlot then b.toNat = 0 else b.toNat ≤ 7 })
    (fun g =>
      if g.active = [] then .go (s.put g)
      else if ! s.earlierDone g 1 then .hold
      else if s.cur.slot = privSlot then .go ((s.put g).trapPulse s.cur.core)
      else .go ((s.put g).modCore s.cur.core (fun x => x.eventAdd g.crew b.toNat)))

/-- EVWAIT (R231, R242). -/
def execEvwait (b : BitVec 8) (s : State) : Out :=
  issue s
    (fun g => { ok := if s.cur.slot = privSlot then b.toNat = 0
                      else b.toNat ≤ 7 && (mget {} (s.myCrew g).events b.toNat).sink = 0 })
    (fun g =>
      if g.active = [] then .go (s.put g)
      else if s.cur.slot = privSlot then s.waitFor g (.trapLine true)
      else s.waitFor g (.event b.toNat))

/-! ### Crews that end, and crews that are killed (R238, R247) -/

/-- The resources of a crew return to its core (R247): its scratchpad range waits to be cleared. -/
def State.freeCrew (s : State) (c n : Nat) : State :=
  let w := s.crew c n
  let s := w.slots.foldl (fun (s : State) k => s.forgetSlot c k) s
  s.modCore c (fun x => { x with
    slots := x.slots.filter (fun e => ! decide (e.1 ∈ w.slots))
    crews := merase x.crews n
    spads := x.spads.map (fun p => if w.sc ≠ 0 && p.1 = w.spadBase && p.2.2 then (p.1, p.2.1, false) else p) })

/-- A crew ends: its grid has one crew less in flight. -/
def State.endCrew (s : State) (c n : Nat) : State :=
  let w := s.crew c n
  let s := s.freeCrew c n
  match mfind s.pergola.grids w.grid with
  | none => s
  | some g => { s with pergola := { s.pergola with
      grids := minsert s.pergola.grids w.grid { g with live := g.live.filter (· ≠ n) } } }

/-- The crew has no gang left and nothing in its bins. -/
def State.crewOver (s : State) (c n : Nat) : Bool :=
  (mfind (s.core c).crews n).isSome && (s.core c).gangsOf n = [] && (s.crew c n).bins.all (fun b => b.2.lanes = [])


/-- A crew that is being killed ends once no command of it is under way: its lanes act as under DONE, and lanes in its
bins leave with the actions of R123 (R238). With no gang left, the crew ends (R247). (log 74, DEDUCED) -/
def State.settleKill (s : State) (c n : Nat) : State :=
  let w := s.crew c n
  if ! w.killed || (s.core c).queues.any (fun p => p.2.any (fun a => a.crew = n)) ||
      (mget {} s.cmes (c / 4)).table.any (fun e => e.core = c && e.crew = n) then s
  else
    let inBins := w.bins.flatMap (fun b => b.2.lanes.map (fun x => x.lane))
    let s := s.modCrew c n (fun w => { w with bins := [], killed := false })
    let s := inBins.foldl (fun s x => s.laneExit c (s.crew c n) x true) s
    let s := ((s.core c).gangsOf n).foldl (fun (s : State) e => s.doneGang c e.1 e.2) s
    if s.crewOver c n then s.endCrew c n else s

end Sys2Proof.Machine
end

