-- ==== Sys2Proof/Machine/Fabric.lean ====
section
/-! DEFINITION. The HilarLink ports and the commands that other modules send through fabric windows (R18, R180, R181,
R370 to R373, R389, R390). -/

namespace Sys2Proof.Machine

/-! ### Routes (R371, R372) -/

def State.nodeValid (s : State) : Bool := s.lodge.nodeid.getLsbD 31
def State.node (s : State) : Nat := s.lodge.nodeid.toNat % 2 ^ 18
def State.port (s : State) (p : Nat) : Port := mget {} s.fabric.ports p
def State.setPort (s : State) (p : Nat) (x : Port) : State :=
  { s with fabric := { s.fabric with ports := minsert s.fabric.ports p x } }

/-- The ports by which a node is reached (R372): none, and the command completes with status 1. -/
def State.upPorts (s : State) (node : Nat) : List Nat :=
  if 200000 ≤ node || ! s.nodeValid then []
  else (List.range 64).filter (fun p => (mget 0#64 s.lodge.routes (node / 64)).getLsbD p && (s.port p).up)

/-- The port of greatest weight, the lowest of those that have it. -/
def heaviest (weight : Nat → Nat) : List Nat → Option Nat
  | [] => none
  | p :: rest => match heaviest weight rest with
    | none => some p
    | some q => some (if weight q ≤ weight p then p else q)

/-- The port that a core's queue uses to a node: the hash ranks the ports, and the first of them that is up is used, so that it stays
the same while it stays up (R372). (log 10, DESIGN CHOICE) -/
def State.route (s : State) (node core queue : Nat) : Option Nat := heaviest (Config.portHash node core queue) (s.upPorts node)

/-- Node and offset of a global address (R18). -/
def globalNode (x : BitVec 64) : Nat := x.toNat / 2 ^ 46
def globalOff (x : BitVec 64) : Nat := x.toNat % 2 ^ 46

/-- A global address names this module (R180). (log 68, DEDUCED) -/
def State.ownNode (s : State) (glob : BitVec 64) : Bool := s.nodeValid && globalNode glob = s.node

/-- Remote commands are served (R380). -/
def State.fabricOn (s : State) : Bool := s.lodge.stage = 3 && ! s.lodge.fail && s.nodeValid

/-! ### Flits (R370, R371) -/

/-- The payloads that a port holds for a lane. -/
def Port.held (x : Port) (vl : Nat) : List (List (BitVec 8)) := mget [] x.buffered vl

/-- A port's free buffer for a lane sets and clears that lane's XOFF (R371). -/
def Port.watch (x : Port) (vl : Nat) : Port :=
  let free := 128 - (x.held vl).length
  if free ≤ 48 then { x with xoff := x.xoff ||| (1#8 <<< vl) }
  else if 96 < free then { x with xoff := x.xoff &&& ~~~(1#8 <<< vl) }
  else x

/-- The oldest flits of a lane leave the buffer as the packet that they carried is served. -/
def Port.take (x : Port) (vl n : Nat) : Port := { x with buffered := mput [] x.buffered vl ((x.held vl).drop n) }.watch vl

/-- A flit of R370 around a payload: the header, the payload in 222 bytes, the acknowledged sequence and the XOFF bits, the parity and
the CRC. (log 11, DESIGN CHOICE) -/
def Port.flit (x : Port) (vl : Nat) (payload : List (BitVec 8)) : List (BitVec 8) :=
  let head := leBytes 2 (vl % 8 + 8 * (Config.flitKind vl).toNat + 256 * (x.sendSeq % 256))
  let body := head ++ payload ++ leBytes 12 (Config.flitControl x.nextSeq x.xoff x.replay).toNat
  let sealed := body ++ leBytes 16 (Config.fecParity body).toNat
  sealed ++ leBytes 4 (crc32c sealed).toNat

/-- A port sends a flit, and keeps it for a replay (R370). -/
def Port.send (x : Port) (vl : Nat) (payload : List (BitVec 8)) : Port :=
  let f := x.flit vl payload
  { x with sendSeq := x.sendSeq + 1, sent := x.sent ++ [(x.sendSeq, f)], wire := x.wire ++ [f], told := (x.xoff, x.replay), owes := false }

/-- Flits up to an acknowledged sequence leave the replay buffer; where the peer asks for it, the others are sent again (R370).
(log 11, DESIGN CHOICE) -/
def Port.heard (x : Port) (ack : Nat) (again : Bool) : Port :=
  let left := x.sent.filter (fun e => 128 ≤ (ack % 256 + 256 - e.1 % 256) % 256)
  { x with acked := ack, sent := left, wire := if again then x.wire ++ left.map (·.2) else x.wire }

/-- The die of a port counts the flits that it has put on its link (R320); the flits of a port that sends again are charged to no
partition. -/
def State.sendFlits (s : State) (p vl part : Nat) (payloads : List (List (BitVec 8))) : State :=
  (s.setPort p (payloads.foldl (fun (x : Port) b => x.send vl b) (s.port p))).count (p / 16) part 2 payloads.length

/-- The payloads of a packet. (log 11, DESIGN CHOICE) -/
def RemoteOut.payloads (m : RemoteOut) : List (List (BitVec 8)) :=
  let head := [m.node, m.vl, m.core, m.queue, m.status, m.off, m.len]
  (List.range (Config.packetFlits head m.bytes)).map (fun i => (List.range 222).map (Config.packetByte head m.bytes i))

/-- A packet may leave: what it must follow is performed, and its lane is not held off (R175, R371). -/
def State.mayLeave (s : State) (m : RemoteOut) : Bool :=
  (m.after = 0 || s.settled linkPort m.after) && ! (s.port m.port).peerXoff.getLsbD m.vl

/-- The first packet that may leave does, as flits of its lane (R370, R371). -/
def State.transmit (s : State) : Option State :=
  match s.fabric.out.find? s.mayLeave with
  | none => none
  | some m =>
    some (({ s with fabric := { s.fabric with out := s.fabric.out.erase m } } : State).sendFlits m.port m.vl m.part m.payloads)

/-- The lane by which traffic of a lane is forwarded: requests on 5 and responses on 6 (R371). -/
def onwardLane (vl : Nat) : Nat := if vl = 3 || vl = 6 then 6 else 5

/-- A port by which the first flit that waits on a lane of another goes on to the module that it is meant for (R371). -/
def State.onward (s : State) (p vl : Nat) : Option (Nat × List (BitVec 8)) :=
  match (s.port p).held vl with
  | [] => none
  | b :: _ => ((s.route (Config.forwardNode b) (160 + p) vl).filter (fun q => ! (s.port q).peerXoff.getLsbD (onwardLane vl))).map (fun q => (q, b))

/-- A flit that is forwarded on behalf of another module leaves by the port that leads to it (R371). (log 94, DEDUCED) -/
def State.forward (s : State) : Option State :=
  ((mkeys s.fabric.ports).flatMap (fun p => [0, 1, 2, 3, 5, 6].map (fun vl => (p, vl)))).findSome? (fun (e : Nat × Nat) =>
    match (s.port e.1).held e.2 with
    | [] => none
    | b :: _ =>
      if Config.forwardNode b = s.node then none
      else (s.onward e.1 e.2).map (fun x => (s.setPort e.1 ((s.port e.1).take e.2 1)).sendFlits x.1 (onwardLane e.2) 64 [x.2]))

/-- A port that has something to tell its peer, and no flit to tell it with, sends one of link control (R370, R371). (log 94, DEDUCED) -/
def State.control (s : State) : Option State :=
  ((mkeys s.fabric.ports).find? (fun p =>
    let x := s.port p
    x.up && ! x.peerXoff.getLsbD 7 && (x.owes || decide (x.told ≠ (x.xoff, x.replay))))).map (fun p =>
      s.sendFlits p 7 64 [List.replicate 222 0#8])

/-- Counts a corrected error of a unit and class in the integrity record (R391, R392). -/
def State.countCorrected (s : State) (unit cls : Nat) : State :=
  s.ownAdd lodgePort 0 (0x7FFFFC0000 + 64 * unit + 8 * cls) 1

/-- A flit taken in its turn: its payload joins the buffer of its lane, but for link control and management, which are used up as they
come (R371). (log 94, DEDUCED) -/
def Port.accept (x : Port) (f : List (BitVec 8)) : Port :=
  let vl := leNat (f.take 2) % 8
  let x : Port := { x with nextSeq := x.nextSeq + 1, replay := false, peerXoff := Config.flitXoff f }
  let x := x.heard (Config.flitAck f) (Config.flitNak f)
  if vl = 7 then x
  else if vl = 4 then { x with owes := true }
  else { x with owes := true, buffered := mput [] x.buffered vl (x.held vl ++ [(f.drop 2).take 222]) }.watch vl

/-- FLIT_RECEIVE (R370, R371): a flit that fails its check after correction is asked for again; flits are taken in
sequence, once. (log 11, DESIGN CHOICE) -/
def execFlitReceive (s : State) : Out :=
  let p := s.arg.a
  let x := s.port p
  if ! x.up || s.arg.bytes.length ≠ 256 then .next s
  else match Config.fecCorrect s.arg.bytes with
    | none => .next (s.setPort p { x with replay := true })
    | some f =>
      let s := if f = s.arg.bytes then s else s.countCorrected (p / 16) 7
      let h := leNat (f.take 2)
      if (crc32c (f.take 252)).toNat ≠ leNat (f.drop 252) then .next (s.setPort p { x with replay := true })
      else if h / 256 ≠ x.nextSeq % 256 then .next s
      else .next (s.setPort p (x.accept f))

/-! ### Fabric windows (R373) -/

/-- Containment of a partition is under way (R393). -/
def State.contained (s : State) (part : Nat) : Bool := (mfind s.lodge.reported part).isSome

/-- A core has had the notice that a partition is contained, and no gang of the partition issues on it from then on (R393). -/
def State.noticed (s : State) (c part : Nat) : Bool := (mget [] s.lodge.reported part).contains c

/-- What a command asks of a window. -/
inductive WinUse where
  | get | put | atomic
deriving DecidableEq, Repr

/-- The window of an offset and the virtual address there, or the status that turns the command away (R373). -/
def State.windowAt (s : State) (use : WinUse) (off n : Nat) : Except Nat (Window × BitVec 64) :=
  let w := mget {} s.lodge.windows (off / 2 ^ 40 % 64)
  let o := off % 2 ^ 40
  let kind : Bool := match use with
    | .get => true
    | .put => w.write
    | .atomic => w.atomics
  if ! w.en || ! kind || decide (w.size.toNat ≤ o ∨ w.size.toNat < o + n) then .error 2
  else if s.contained w.part then .error 3
  else .ok (w, w.base + BitVec.ofNat 64 o)

/-- A range cut where 4 KiB pages meet: starts and lengths. -/
def pageCuts (va : BitVec 64) (n : Nat) : List (BitVec 64 × Nat) :=
  (pageStarts va n).map (fun a => (a, min (4096 - a.toNat % 4096) (n - (a.toNat - va.toNat))))
where
  pageStarts (va : BitVec 64) (n : Nat) : List (BitVec 64) :=
    if n = 0 then []
    else (List.range ((va.toNat + n - 1) / 4096 - va.toNat / 4096 + 1)).map (fun i =>
      if i = 0 then va else BitVec.ofNat 64 ((va.toNat / 4096 + i) * 4096))

/-- The physical ranges behind a range of a window, none when one of its pages may not be touched (R157, R373). -/
def State.windowSpots (s : State) (part : Nat) (a : Access) (va : BitVec 64) (n : Nat) : Option (List Spot) :=
  (pageCuts va n).mapM (fun p =>
    if ! canonical p.1 then none
    else match s.walk part (mget 0#64 s.lodge.roots part) (vaLow p.1) with
      | .error _ => none
      | .ok t =>
        let dpa := t.dpaOf (vaLow p.1)
        if a.writes && ! t.write then none
        else if (s.targetCond a dpa).isSome then none
        else some (t.spot dpa p.2))

/-- What a Pergola or the Lodge reads of the tables to translate a range. -/
def State.rangeTables (s : State) (part : Nat) (va : BitVec 64) (n : Nat) : List Spot :=
  (pageCuts va n).flatMap (fun p => if canonical p.1 then s.rootReads (mget 0#64 s.lodge.roots part) (vaLow p.1) else [])

/-- Writes bytes over ranges. -/
def State.homeWrites (s : State) (port seq : Nat) (ps : List Spot) (bs : List (BitVec 8)) (part : Nat := 64) : State :=
  match ps with
  | [] => s
  | x :: rest => (s.homeWrite port seq x.a (bs.take x.n) part).1.homeWrites port seq rest (bs.drop x.n) part

/-- The first sector that a write of some ranges finds not to match, and does not cover. -/
def State.spotWriteBad (s : State) (ps : List Spot) : Option Nat := s.writeBad (ps.map Spot.range)

/-- What a command gets at a window: nothing yet, while a slice or the host has not answered; else its status and data. -/
abbrev WinOut := State × Option (Nat × List (BitVec 8))

/-- A command of n bytes at an offset of a window, once its pages have been translated: k serves it at its physical ranges for the
partition of the window (R373, R390). Its accesses are charged to the partition by. -/
def State.atWindow (s : State) (use : WinUse) (a : Access) (z off n by_ : Nat) (k : State → Nat → List Spot → WinOut) : WinOut :=
  match s.windowAt use off n with
  | .error e => (s, some (e, []))
  | .ok (w, va) =>
    if va.toNat % z ≠ 0 then (s, some (2, []))
    else match s.readAll by_ (s.rangeTables w.part va n) with
      | (t, .wait) => (t, none)
      | (t, .bad q) => (t.mismatch w.part 0xFFFFFFFF q, some (3, []))
      | (t, .ready) => match t.windowSpots w.part a va n with
        | none => (t, some (2, []))
        | some ps => k t w.part ps

/-- RPUT and WSIG payloads at a window (R180, R373, R390). -/
def State.windowPut (s : State) (port seq off : Nat) (bs : List (BitVec 8)) (by_ : Nat := 64) : WinOut :=
  s.atWindow .put .asyncWrite 1 off bs.length by_ (fun s part ps =>
    let g := s.accessAll true ps by_
    if ! g.2 then (g.1, none)
    else match g.1.spotWriteBad ps with
      | some q => (g.1.mismatch part 0xFFFFFFFF q, some (3, []))
      | none => ((g.1.chargeAll by_ false ps).homeWrites port seq ps bs by_, some (0, [])))

/-- RGET at a window. -/
def State.windowGet (s : State) (off n : Nat) (by_ : Nat := 64) : WinOut :=
  s.atWindow .get .asyncRead 1 off n by_ (fun s part ps =>
    match s.readAll by_ ps with
    | (t, .wait) => (t, none)
    | (t, .bad q) => (t.mismatch part 0xFFFFFFFF q, some (3, []))
    | (t, .ready) => (t, some (0, ps.flatMap (fun p => s.bytes p.a p.n))))

/-- RATOM and signal adds at a window (R171, R180, R181): the old element comes back. A signal add is an async command's write
(R157). -/
def State.windowAtomic (s : State) (port seq : Nat) (a : Access) (off op ty : Nat) (x cmp : BitVec 64) (by_ : Nat := 64) : WinOut :=
  let z := elemSize ty
  if ! atomicType op ty then (s, some (2, []))
  else s.atWindow .atomic a z off z by_ (fun s part ps =>
    let p := ps.headD { a := 0, n := 0 }
    let g := s.accessBoth p by_
    if ! g.2 then (g.1, none)
    else match g.1.spotBad ps with
      | some q => (g.1.mismatch part 0xFFFFFFFF q, some (3, []))
      | none =>
        let old := g.1.bytes p.a z
        let b := if op = 7 then cmp else x
        let new := if op = 7 then x else cmp
        (((g.1.charge by_ false p).homeWrite port seq p.a (leBytes z (atomicNew op ty z (leNat old) b.toNat new.toNat)) by_).1,
          some (0, old)))

/-! ### Commands of other modules (R180, R181, R373) -/

/-- Sends a response; it leaves once the writes numbered after are performed at PACKAGE scope (R175), by the lane of its request: a
forwarded one is answered by a forwarded one (R371). (log 67, DEDUCED) (log 94, DEDUCED) -/
def State.respond (s : State) (after status : Nat) (bytes : List (BitVec 8)) : State :=
  let tag := s.arg.nats.getD 0 0
  match s.route s.arg.a (tag / 8) (tag % 8) with
  | none => s
  | some p =>
    let r : RemoteOut := { port := p, node := s.arg.a, vl := if s.arg.flag then 6 else 3, core := tag / 8, queue := tag % 8, after := after
                           status := status, bytes := bytes }
    { s with fabric := { s.fabric with out := s.fabric.out ++ [r] } }

/-- A command of another module is served at its window; it is tried again while the host has not answered. The event's
list holds the requester's 8·core + queue, the port, and the flits that the packet took; its flag tells that it came by way of
another module, on lane 5 (R371). (log 67, DEDUCED) -/
def arrivalOp (i : Instr) (vl : Nat) (f : State → Nat → WinOut) (s : State) : Out :=
  if ! s.fabricOn then .next s
  else
    let id := s.nextId
    match f s.bump id with
    | (t, none) => .next { t with agenda := t.agenda ++ [(i, s.arg)] }
    | (t, some (status, bytes)) =>
      let p := s.arg.nats.getD 1 0
      .next ((t.setPort p ((t.port p).take (if s.arg.flag then 5 else vl) (s.arg.nats.getD 2 0))).respond id status bytes)

/-- REMOTE_PUT_ARRIVAL. -/
def execRemotePutArrival (s : State) : Out :=
  arrivalOp .remotePutArrival 0 (fun s id => s.windowPut linkPort id s.arg.b s.arg.bytes) s
/-- REMOTE_GET_ARRIVAL. -/
def execRemoteGetArrival (s : State) : Out := arrivalOp .remoteGetArrival 1 (fun s _ => s.windowGet s.arg.b s.arg.c) s
/-- REMOTE_ATOMIC_ARRIVAL: the fourth number of the list is the element type. -/
def execRemoteAtomicArrival (s : State) : Out :=
  arrivalOp .remoteAtomicArrival 1
    (fun s id => s.windowAtomic linkPort id .update s.arg.b s.arg.c (s.arg.nats.getD 3 0) s.arg.x s.arg.y) s
/-- REMOTE_SIGNAL_ADD_ARRIVAL: a 64-bit add. -/
def execRemoteSignalAddArrival (s : State) : Out :=
  arrivalOp .remoteSignalAddArrival 2 (fun s id =>
    match s.windowAtomic linkPort id .asyncWrite s.arg.b 0 6 s.arg.x 0#64 with
    | (t, some (e, _)) => (t, some (e, []))
    | r => r) s

/-! ### Ports that go down (R372) -/

/-- The node of a remote command's global address. -/
def ACmd.node (a : ACmd) : Nat :=
  let pair := fun (i : Nat) => a.words.getD (i + 1) 0#32 ++ a.words.getD i 0#32
  match a.kind with
  | .ratom | .sigadd => globalNode (pair 0)
  | .wsig => if a.stage ≤ 2 then globalNode (pair 2) else globalNode (pair 6)
  | _ => globalNode (pair 2)

/-- The packets that wait for a port take another that leads to their node; where there is none they are lost (R372). -/
def State.reroute (s : State) : State :=
  { s with fabric := { s.fabric with out := s.fabric.out.filterMap (fun m =>
      if (s.port m.port).up then some m else (s.route m.node m.core m.queue).map (fun p => { m with port := p })) } }

/-- PORT_DOWN (R372): a command that waits for a node no port reaches any more completes with status 1, and so does the add of a
packet (R307). -/
def execPortDown (s : State) : Out :=
  let s := (s.setPort s.arg.a { (s.port s.arg.a) with up := false }).reroute
  .next { s with
    cores := s.cores.map (fun (c : Nat × Core) =>
      (c.1, { c.2 with queues := c.2.queues.map (fun (q : Nat × List ACmd) =>
        (q.1, q.2.map (fun (a : ACmd) =>
          if a.await && decide (s.upPorts a.node = []) then { a with await := false, status := 1 } else a))) }))
    pergola := { s.pergola with remote := s.pergola.remote.filter (fun r => decide (s.upPorts r.node ≠ [])) } }

end Sys2Proof.Machine
end

