-- ==== Sys2Proof/Machine/Tiles.lean ====
section
/-! DEFINITION. Tile descriptors, scaled blocks and accumulator tiles (R61 to R65, R188 to R193, R201 to R203, R207, R208,
R275). -/

namespace Sys2Proof.Machine

/-! ### Descriptors (R188, R189) -/

/-- A tile descriptor (R188). -/
structure TDesc where
  space : Nat
  sc : Bool
  fmt : Nat
  rows : Nat
  cols : Nat
  pitch : Nat
  base : BitVec 64
deriving DecidableEq, Repr

def tdescOf (x : BitVec 128) : TDesc :=
  { space := (x >>> 125).toNat % 4, sc := x.getLsbD 124, fmt := (x >>> 120).toNat % 16, rows := (x >>> 108).toNat % 4096
    cols := (x >>> 96).toNat % 4096, pitch := (x >>> 64).toNat % 2 ^ 32, base := x.setWidth 64 }

def TDesc.z (d : TDesc) : Nat := elemSize d.fmt

/-- Blocks of a scaled tensor (R189). -/
def TDesc.blocks (d : TDesc) : Nat := (d.rows / 32) * (d.cols / 32)

/-- Where a row, a payload and a record start, modulo 2^64 (R189). -/
def TDesc.rowAt (d : TDesc) (i : Nat) : BitVec 64 := d.base + BitVec.ofNat 64 (i * d.pitch)
def TDesc.payloadAt (d : TDesc) (k : Nat) : BitVec 64 := d.base + BitVec.ofNat 64 (1024 * k)
def TDesc.recordAt (d : TDesc) (k : Nat) : BitVec 64 := d.base + BitVec.ofNat 64 (1024 * d.pitch + 32 * k)

/-- The ranges of a tensor that an instruction touches: rows of an unscaled tensor, blocks of a scaled one. -/
def TDesc.ranges (d : TDesc) (part : List Nat) : List (BitVec 64 × Nat) :=
  if d.sc then part.flatMap (fun k => [(d.payloadAt k, 1024), (d.recordAt k, 32)])
  else part.map (fun i => (d.rowAt i, d.cols * d.z))

/-- All of a tensor. -/
def TDesc.whole (d : TDesc) : List Nat := List.range (if d.sc then d.blocks else d.rows)

/-- A descriptor that TSET accepts (R190). -/
def tdescLegal (x : BitVec 128) : Bool :=
  let d := tdescOf x
  ! x.getLsbD 127 && (d.space = 0 ||
    ((d.fmt = 0 || (7 ≤ d.fmt && d.fmt ≤ 12)) && d.rows ≠ 0 && d.cols ≠ 0 &&
     (! d.sc || ((d.fmt = 0 || d.fmt = 7 || d.fmt = 8 || d.fmt = 9) && d.rows % 32 = 0 && d.cols % 32 = 0 &&
       d.base.toNat % 1024 = 0)) &&
     (d.space ≠ 2 || d.base.toNat / 2 ^ 32 = 0) && (d.space ≠ 3 || d.base.toNat / 2 ^ 35 = 0)))

/-- Four consecutive uniform registers from a multiple of four. -/
def quadOk (g : Gang) (n : Nat) : Bool := n % 4 = 0 && n + 3 < g.ucount

/-- TSET (R190). -/
def execTset (d : BitVec 8) (a : Src) (s : State) : Out :=
  let n := match a with
    | .uni n => n
    | _ => 64
  issue s
    (fun g => { ok := g.tdescOk d && quadOk g n, reads := uniRegs n 4, writes := [tdescReg d], lat := some 4 })
    (fun g =>
      let x : BitVec 128 := g.u (n + 3) ++ g.u (n + 2) ++ g.u (n + 1) ++ g.u n
      if g.active = [] then .go (s.put g)
      else if tdescLegal x then .go (s.put (g.schedule 4 [(.t d.toNat, x)]))
      else .trap { cause := 0x02 })

/-- TGET (R190). -/
def execTget (d : Dst) (a : BitVec 8) (s : State) : Out :=
  let n := match d with
    | .uni n => n
    | _ => 64
  issueWrites s
    (fun g => { ok := g.tdescOk a && quadOk g n, reads := [tdescReg a], writes := uniRegs n 4, lat := some 4 })
    (fun g =>
      let x := g.t a.toNat
      (if g.active = [] then []
        else (List.range 4).map (fun i => (.g (n + i), ((x >>> (32 * i)).setWidth 32).setWidth 128)), 0#32))

/-! ### The memory checks of a descriptor (R191, R275) -/

/-- The pieces of a range that lie in one 4 KiB page each. -/
def pieces (va : BitVec 64) (n : Nat) : List (BitVec 64) :=
  if n = 0 then []
  else
    let a := va.toNat
    (List.range ((a + n - 1) / 4096 - a / 4096 + 1)).map (fun i =>
      if i = 0 then va else BitVec.ofNat 64 ((a / 4096 + i) * 4096))

/-- The pages of some parts of a tensor in memory. -/
def TDesc.pages (d : TDesc) (part : List Nat) : List (BitVec 64) :=
  if d.space = 1 then (d.ranges part).flatMap (fun r => pieces r.1 r.2) else []

/-- Conditions met by a list of virtual addresses, each with its address. -/
def State.vaConds (s : State) (root : Nat) (a : Access) (host : Bool) (vas : List (BitVec 64)) : List (Nat × BitVec 64 × Cond) :=
  vas.filterMap (fun va =>
    match s.checkAddr s.cur.core root a va 1 with
    | .error e => some (0, va, e)
    | .ok (dpa, _) => if ! host && targetOf dpa = .host then some (0, va, ⟨4, 0x11⟩) else none)

/-- The translations of a list of virtual addresses, each kept once. (log 32, DESIGN CHOICE) -/
def State.xlats (s : State) (c root : Nat) (vas : List (BitVec 64)) : List Tlb :=
  vas.foldl (fun ts va => match s.translate c root va with
    | .ok t => if t ∈ ts then ts else ts ++ [t]
    | .error _ => ts) []

/-- The DPA and the translation of an address among translations already made. -/
def lookup (xl : List Tlb) (va : BitVec 64) : Nat × Option Tlb :=
  match xl.find? (fun t => t.va ≤ vaLow va && vaLow va < t.va + t.size) with
  | some t => (t.dpaOf (vaLow va), some t)
  | none => (2 ^ 52, none)

/-- A block whose record is not mapped with the scale-plane attribute to its payload's home slice (R189, R275).
(log 27, DEDUCED) -/
def homesDiffer (xl : List Tlb) (d : TDesc) (k : Nat) : Bool :=
  match lookup xl (d.payloadAt k), lookup xl (d.recordAt k) with
  | (p, some tp), (r, some tr) => ! tr.spl || tp.home p ≠ tr.home r
  | _, _ => false

/-- What an instruction asks of its descriptor's memory. -/
structure TUse where
  access : Access
  spaces : List Nat := [1, 3]
  host : Bool := true
  homes : Bool := true
  part : List Nat

/-- A tensor in SPACE 3: its slot must be bound and its ranges lie within the region, and it is not written (R191). -/
def State.regionConds (s : State) (w : Crew) (d : TDesc) (writes : Bool) (rs : List (BitVec 64 × Nat)) : List (Nat × BitVec 64 × Cond) :=
  match s.boundRegion w (d.base.toNat / 2 ^ 32 % 8) with
  | none => [(0, d.base, ⟨4, 0x11⟩)]
  | some g =>
    (rs.filter (fun r => g.size * 65536 < r.1.toNat - d.base.toNat + d.base.toNat % 2 ^ 32 + r.2)).map (fun r => (0, r.1, ⟨4, 0x11⟩)) ++
      (if writes then [(0, d.base, ⟨5, 0x14⟩)] else [])

/-- The conditions of R191 that a valid descriptor meets. (log 27, DEDUCED) (log 28, DESIGN CHOICE) (log 29, DEDUCED) -/
def State.tdescConds (s : State) (w : Crew) (root : Nat) (d : TDesc) (u : TUse) : List (Nat × BitVec 64 × Cond) :=
  let rs := d.ranges u.part
  (if ! d.sc && (d.base.toNat % d.z ≠ 0 || d.pitch % d.z ≠ 0) then [(0, d.base, ⟨1, 0x12⟩)] else []) ++
  (if d.space = 3 && (u.access.writes || decide (3 ∈ u.spaces)) then s.regionConds w d u.access.writes rs
    else if ! decide (d.space ∈ u.spaces) then [(0, d.base, ⟨4, 0x11⟩)]
    else if d.space = 2 then (rs.filter (fun r => w.sc < r.1.toNat + r.2)).map (fun r => (0, r.1, ⟨6, 0x13⟩))
    else
      let vas := rs.flatMap (fun r => pieces r.1 r.2)
      let xl := s.xlats s.cur.core root vas
      s.vaConds root u.access u.host vas ++
        (if d.sc && u.homes then (u.part.filter (homesDiffer xl d)).map (fun k => (0, d.recordAt k, ⟨4, 0x11⟩)) else []))

/-- The trap of R191 for a valid descriptor. -/
def State.tdescTrap (s : State) (w : Crew) (root : Nat) (d : TDesc) (u : TUse) : Option Trap := firstCond (s.tdescConds w root d u)

/-! ### Reading a tensor (R63, R64, R189) -/

/-- A descriptor with what is needed to read its bytes: its translations, its crew's number and the start of its bound
region. -/
structure TView where
  d : TDesc
  xl : List Tlb := []
  core : Nat
  crew : Nat
  start : Nat := 0

/-- Where a byte of a tensor lies: a physical address, or a scratchpad offset in SPACE 2. -/
def TView.place (v : TView) (va : BitVec 64) : Nat :=
  match v.d.space with
  | 1 => (lookup v.xl va).1
  | 2 => va.toNat % 2 ^ 32
  | _ => v.start + va.toNat % 2 ^ 32

def State.tbytes (s : State) (v : TView) (va : BitVec 64) (n : Nat) : List (BitVec 8) :=
  (List.range n).map (fun i =>
    let p := v.place (va + BitVec.ofNat 64 i)
    if v.d.space = 2 then (s.crew v.core v.crew).spadByte p else s.byte p)

/-- A micro-exponent field as a signed number (R62). -/
def micro (r : Nat) (bit : Nat) : Int :=
  let x := r / 2 ^ bit % 8
  if x ≥ 4 then (x : Int) - 8 else x

/-- The composed exponent of an element (R63, R69). -/
def composed (r : Nat) (i j : Nat) (nbv : Bool) : Int :=
  ((r % 256 : Nat) : Int) - 127 + (if nbv then micro r (8 + 3 * i) + micro r (104 + 3 * j) else 0)

/-- DecodeScaled with strict 0 (R63). -/
def decodeScaled (fmt byte r i j : Nat) (nbv : Bool) : FVal × Flags :=
  if r % 256 = 255 then (.nan false, flagNV)
  else
    let e := composed r i j nbv
    let x := elementValue fmt byte
    if e < -127 then (x.shift (-127), flagSCOVF)
    else if 127 < e then (x.shift 127, flagSCOVF)
    else (x.shift e, 0)

/-- Element (i, j) of a tensor and the flags of its decoding (R189). -/
def State.telem (s : State) (v : TView) (nbv : Bool) (i j : Nat) : FVal × Flags :=
  let d := v.d
  if d.sc then
    let k := (i / 32) * (d.cols / 32) + j / 32
    let byte := leNat (s.tbytes v (d.payloadAt k + BitVec.ofNat 64 (32 * (i % 32) + j % 32)) 1)
    decodeScaled d.fmt byte (leNat (s.tbytes v (d.recordAt k) 32)) (i % 32) (j % 32) nbv
  else
    (elementValue d.fmt (leNat (s.tbytes v (d.rowAt i + BitVec.ofNat 64 (j * d.z)) d.z)), 0)

/-- A scale record that a strict instruction refuses (R63, R198). -/
def recordOver (r : Nat) (nbv : Bool) : Bool :=
  r % 256 ≠ 255 && allLanes.any (fun i => allLanes.any (fun j =>
    let e := composed r i j nbv
    e < -127 || 127 < e))

/-- A strict reader finds a composed exponent out of range in some record of its scaled operand (R198). (log 69, DEDUCED) -/
def State.strictBad (s : State) (v : TView) (nbv : Bool) : Bool :=
  v.d.sc && v.d.whole.any (fun k => recordOver (leNat (s.tbytes v (v.d.recordAt k) 32)) nbv)

/-- A physical range of a tensor, which lies in one page. -/
def TView.spot (v : TView) (va : BitVec 64) (n : Nat) : Spot :=
  match v.d.space, lookup v.xl va with
  | 1, (p, some t) => t.spot p n
  | _, _ => { a := v.place va, n := n }

/-- The physical ranges of the parts of a tensor in memory. -/
def TView.spots (v : TView) (part : List Nat) : List Spot :=
  if v.d.space = 2 then []
  else ((v.d.ranges part).flatMap (fun r => pageCuts r.1 r.2)).map (fun q => v.spot q.1 q.2)

/-- The first sector of the parts of a tensor that does not match its check value. (log 28, DESIGN CHOICE) -/
def State.tensorBad (s : State) (v : TView) (part : List Nat) : Option Nat := s.spotBad (v.spots part)

/-- The scale records of a tensor, which a strict instruction reads at its issue (R198). -/
def TView.records (v : TView) : List Spot :=
  if v.d.sc && v.d.space ≠ 2 then v.d.whole.map (fun k => v.spot (v.d.recordAt k) 32) else []

/-- A store of the issuing gang to one of some ranges is still on its way to its home: a read there waits for it (R159, R277). -/
def State.ownStoreIn (s : State) (g : Gang) (rs : List Spot) : Bool :=
  s.ops.any (fun o => o.core = s.cur.core && o.slot = s.cur.slot && decide (o.seq < g.seq) && ! o.applied &&
    rs.any (fun r => o.touches r.a r.n))

/-- NBV of a crew (R36). -/
def Crew.nbv (w : Crew) : Bool := w.modeb / 128 % 2 = 1

/-- The view of a descriptor for the issuing gang. -/
def State.view (s : State) (g : Gang) (d : TDesc) : TView :=
  let c := s.cur.core
  let xl := s.xlats c (s.rootOf c s.cur.slot) (d.pages d.whole)
  { d := d, xl := xl, core := c, crew := g.crew
    start := ((s.boundRegion (s.myCrew g) (d.base.toNat / 2 ^ 32 % 8)).map Region.start).getD 0 }

/-! ### Quantise (R65) -/

/-- The largest finite magnitude of a scaled format. -/
def quantMax (fmt : Nat) : Nat := if fmt = 7 then 448 else if fmt = 8 then 57344 else if fmt = 9 then 2 else 127

/-- A magnitude in units of 2^-200; every finite FP32 value is a whole number of them. -/
def FVal.units : FVal → Nat
  | .fin _ m e _ => m * pow2 (e + 200)
  | _ => 0

/-- The largest of a list. -/
def maxNat (xs : List Nat) : Nat := xs.foldl (fun m x => if m < x then x else m) 0

/-- The smallest s with u ≤ Q·2^s, for u > 0 in units of 2^-200: s lies within two of the ratio of the leading bits. -/
def smallestScale (q u : Nat) : Int :=
  let s0 : Int := (Nat.log2 u : Int) - 200 - (Nat.log2 q : Int) - 1
  ((List.range 4).map (fun (i : Nat) => s0 + (i : Int))).find? (fun t => u ≤ q * pow2 (t + 200)) |>.getD (s0 + 4)

/-- Fit (R65). -/
def fitScale (q u : Nat) (s : Int) : Int :=
  if u = 0 then -4
  else ([-4, -3, -2, -1].find? (fun (k : Int) => u ≤ q * pow2 (s + k + 200))).getD 0

/-- The record of a shared exponent and micro-exponents (R62). -/
def packRecord (s : Nat) (re ce : List Int) : Nat :=
  let put := fun (bit : Nat) (ks : List Int) => (ks.mapIdx (fun i k => (k % 8).toNat * 2 ^ (bit + 3 * i))).foldl (· + ·) 0
  s + put 8 re + put 104 ce

/-- Quantise (R65) on the 32 × 32 values of a block, row by row: payload bytes, record and flags. -/
def quantise (fmt : Nat) (nbv : Bool) (x : List FVal) : List (BitVec 8) × Nat × Flags :=
  let zero : BitVec 8 := if fmt = 9 then 0x77#8 else 0#8
  let none := (List.replicate 1024 zero)
  let special := x.any (fun v => match v with
    | .nan _ => true
    | .inf _ => true
    | _ => false)
  let us := x.map FVal.units
  let m := maxNat us
  let q := quantMax fmt
  if special then (none, 255, flagNV)
  else if m = 0 then (none, 127, 0)
  else
    let s0 := smallestScale q m
    let s := imax s0 (if nbv then -119 else -127)
    let u := fun (i j : Nat) => us.getD (32 * i + j) 0
    let re : List Int := if nbv then allLanes.map (fun i => fitScale q (maxNat (allLanes.map (u i))) s) else []
    let ce : List Int := if nbv then allLanes.map (fun j =>
        fitScale q (maxNat (allLanes.map (fun i => u i j * pow2 (-(re.getD i 0))))) s)
      else []
    let out := x.mapIdx (fun n v => convertTo fmt (v.shift (-(s + re.getD (n / 32) 0 + ce.getD (n % 32) 0))) (.mode 0) true)
    (out.map (fun r => BitVec.ofNat 8 r.1), packRecord (s + 127).toNat re ce, out.foldl (fun f r => f ||| r.2) 0)

/-! ### Scaled loads and stores (R192, R193) -/

/-- The block that TLDSC and TSTSC name: block number and transpose, or none for an illegal operand. -/
def blockOf (d : TDesc) (b : BitVec 32) : Option (Nat × Bool) :=
  let bi := b.toNat % 4096
  let bj := b.toNat / 4096 % 4096
  if d.sc && d.space = 1 && b.toNat / 2 ^ 24 % 128 = 0 && decide (bi < d.rows / 32) && decide (bj < d.cols / 32) then
    some (bi * (d.cols / 32) + bj, b.getLsbD 31)
  else none

/-- The two spans of a block: payload and record. -/
def blockSpans (xl : List Tlb) (d : TDesc) (k : Nat) : Option (Span × Span × Nat) :=
  match lookup xl (d.payloadAt k), lookup xl (d.recordAt k) with
  | (p, some tp), (r, some tr) =>
    let h := tp.home p
    some ({ addr := p, usize := (tp.unit p).2, delta := tp.delta, data := List.replicate 1024 0#8 },
      { addr := r, usize := (tr.unit r).2, delta := tr.delta, data := List.replicate 32 0#8 }, 64 * h.1 + h.2)
  | _, _ => none

/-- A range that the core's L1 holds whole, as its L1 holds it, with no store of the core pending in it. -/
def Core.held (x : Core) (p : Span) : Option (List (BitVec 8)) :=
  let us := unitsOf p.addr p.data.length p.usize
  if us.all (fun u => (x.line? u p.usize).any (fun l => l.pend = [])) then
    some (((us.flatMap (fun u => match x.line? u p.usize with
      | some l => l.bytes.map (·.1)
      | none => [])).drop (p.addr - us.headD 0)).take p.data.length)
  else none

/-- The first sector of a range held by the L1 whose carried check value does not match (R389). -/
def Core.heldBad (x : Core) (p : Span) : Option Nat :=
  (unitsOf p.addr p.data.length p.usize).findSome? (fun u => (x.line? u p.usize).bind (fun l =>
    l.bad.find? (fun q => decide (p.addr / 32 ≤ q ∧ q ≤ (p.addr + p.data.length - 1) / 32))))

/-- The issue of TLDSC and TSTSC; n is the first vector register. -/
def blockSig (g : Gang) (n : Nat) (a : BitVec 8) (b : Src) (store : Bool) : Sig :=
  let vs := (List.range 9).map (fun i => n + i)
  { ok := n + 8 < g.vcount && g.tdescOk a && g.srcOk b && uniOnly b
    reads := tdescReg a :: srcRegs false b ++ (if store then vs else []), writes := if store then [] else vs }

/-- TLDSC (R192): one snapshot of the block, from the L1 when it holds all of it, and otherwise from the home slice. While a store of
the core is pending in the L1's copy, the snapshot is that of the home. (log 53, DESIGN CHOICE) (log 95, DEDUCED) -/
def execTldsc (d : Dst) (a : BitVec 8) (b : Src) (s : State) : Out :=
  let n := match d with
    | .vec n => n
    | _ => 1000
  issue s (fun g => blockSig g n a b false)
    (fun g =>
      let t := tdescOf (g.t a.toNat)
      let c := s.cur.core
      let root := s.rootOf c s.cur.slot
      if ! g.mayAccess then .hold
      else if g.active = [] then .go (s.put g)
      else match blockOf t (g.rd b 0) with
        | none => .trap { cause := 0x02 }
        | some (k, tr) =>
          let vas := t.pages [k]
          s.withWalks g vas fun s => match s.tdescTrap (s.myCrew g) root t { access := .loadHbm, spaces := [1], part := [k] } with
          | some x => .trap x
          | none =>
            if 63 ≤ g.count 0 then .hold
            else
              match blockSpans (s.xlats c root vas) t k with
              | none => .trap { cause := 0x11 }
              | some (p, r, slice) =>
                let part := fun (val : Option (List (BitVec 8) × List (BitVec 8))) (l : Nat) =>
                  ({ lane := l, locs := (List.range 9).map (fun i => Loc.v (n + i) l), unit := 0, usize := 0
                     val := val.map (fun x => blockLane tr x.1 x.2 l) } : LoadPart)
                let own := s.ownHomeOp p.addr 1024 || s.ownHomeOp r.addr 32
                match (s.core c).held p, (s.core c).held r, own with
                | some x, some y, false =>
                  let bad := (s.core c).heldBad p <|> (s.core c).heldBad r
                  let own := s.partOf c s.cur.slot
                  let t := (match bad with
                    | some q => s.mismatchAt own c (dieOf c, 2) q
                    | none => s).count (dieOf c) own 3 ((unitsOf p.addr 1024 128).length + (unitsOf r.addr 32 128).length)
                  .go (t.bump.fileLoad g 0 { id := t.nextId, slot := s.cur.slot, seq := g.seq, kind := .home, failed := bad.isSome
                                             parts := g.active.map (part (some (x, y))) })
                | _, _, _ =>
                  let o := s.opOf g 0 (.block tr g.active) slice [p, r]
                  .go ((s.bump.post .homeOp { o with load := some s.nextId }).fileLoad g 0
                    { id := s.nextId, slot := s.cur.slot, seq := g.seq, kind := .home, parts := g.active.map (part none) }))

/-- TSTSC (R193): one home operation over the payload and its record. -/
def execTstsc (d : Src) (a : BitVec 8) (b : Src) (s : State) : Out :=
  let n := match d with
    | .vec n => n
    | _ => 1000
  issue s (fun g => blockSig g n a b true)
    (fun g =>
      let t := tdescOf (g.t a.toNat)
      let c := s.cur.core
      let root := s.rootOf c s.cur.slot
      if ! g.mayAccess then .hold
      else if g.active = [] then .go (s.put g)
      else match blockOf t (g.rd b 0) with
        | none => .trap { cause := 0x02 }
        | some (k, tr) =>
          let vas := t.pages [k]
          s.withWalks g vas fun s => match s.tdescTrap (s.myCrew g) root t { access := .update, spaces := [1], part := [k] } with
          | some x => .trap x
          | none =>
            if 64 ≤ s.storesOut then .hold
            else
              match blockSpans (s.xlats c root vas) t k with
              | none => .trap { cause := 0x11 }
              | some (p, r, slice) =>
                let byte := fun (l j : Nat) => BitVec.ofNat 8 ((g.v (n + j / 4) l).toNat / 2 ^ (8 * (j % 4)))
                let data := (List.range 1024).map (fun i =>
                  if tr then byte (i % 32) (i / 32) else byte (i / 32) (i % 32))
                let mask := (List.range 1024).map (fun i => decide ((if tr then i % 32 else i / 32) ∈ g.active))
                let words := (List.range 8).map (fun (l : Nat) => (g.cross (.vec (n + 8)) (l : Int)).toNat * 2 ^ (32 * l))
                let rec0 : BitVec 256 := BitVec.ofNat 256 (words.foldl (· + ·) 0 % 2 ^ 200)
                let record := if tr then swapRecord rec0 else rec0
                let o := s.opOf g 0 .bytes slice [{ p with data := data, mask := mask }, { r with data := leBytes 32 record.toNat }]
                .go ((s.put g).post .homeOp { o with whole := true }))

/-! ### Accumulator tiles (R24, R201 to R203, R207, R208) -/

/-- An element of a tile. -/
def Crew.acc (w : Crew) (t m n : Nat) : BitVec 32 := mget 0#32 w.tiles (16384 * t + 128 * m + n)
def Crew.setAcc (w : Crew) (t m n : Nat) (x : BitVec 32) : Crew := { w with tiles := mput 0#32 w.tiles (16384 * t + 128 * m + n) x }

/-- Rows that lanes own (R24). -/
def ownedRows (ls : List Nat) : List Nat := ls.flatMap (fun l => (List.range 4).map (fun i => 4 * l + i))

/-- A tile the crew holds. -/
def Crew.holds (w : Crew) (t : Nat) : Bool := t < 24 && w.held.getLsbD t

/-- Tiles from t, n of them. -/
def tilesFrom (t n : Nat) : List Nat := (List.range n).map (fun i => t + i)

/-- Every earlier operation on the tiles has finished with them (R201). -/
def Crew.tilesFree (w : Crew) (ts : List Nat) : Bool := w.busy.all (fun p => ! decide (p.1 ∈ ts))

/-- An operation takes hold of tiles, and lets go of them. -/
def Crew.seize (w : Crew) (id : Nat) (ts : List Nat) : Crew := { w with busy := w.busy ++ ts.map (fun t => (t, id)) }
def Crew.letGo (w : Crew) (id : Nat) : Crew := { w with busy := w.busy.filter (fun p => p.2 ≠ id) }

/-- Starts the latency of a tile operation. -/
def State.startAcc (s : State) (g : Gang) (ts : List Nat) (release : Bool) (f : Crew → Crew) : State :=
  let id := s.nextId
  ((s.put g).bump.modCrew s.cur.core g.crew (fun w => (f w).seize id ts)).modCore s.cur.core (fun x =>
    { x with accs := x.accs ++ [{ id := id, slot := s.cur.slot, crew := g.crew, tiles := ts, release := release }] })

/-- The issue of an operation over n tiles from t (R202, R208). -/
def tileRangeSig (s : State) (t n : BitVec 8) (g : Gang) : Sig :=
  { ok := 1 ≤ n.toNat && t.toNat + n.toNat ≤ 24, tiles := (tilesFrom t.toNat n.toNat).all (s.myCrew g).holds }

/-- ACLR (R202). -/
def execAclr (d b : BitVec 8) (s : State) : Out :=
  issue s (tileRangeSig s d b) (fun g =>
    let ts := tilesFrom d.toNat b.toNat
    if g.active = [] then .go (s.put g)
    else if ! (s.myCrew g).tilesFree ts then .hold
    else .go (s.startAcc g ts false (fun w => { w with tiles := w.tiles.filter (fun e =>
      ! (decide (e.1 / 16384 ∈ ts) && decide (e.1 / 128 % 128 / 4 ∈ g.active))) })))

/-- RELA (R208): the tiles go back to the core when its latency has passed. -/
def execRela (d b : BitVec 8) (s : State) : Out :=
  issue s (tileRangeSig s d b) (fun g =>
    let ts := tilesFrom d.toNat b.toNat
    if g.active = [] then .go (s.put g)
    else if ! (s.myCrew g).tilesFree ts then .hold
    else .go (s.startAcc g ts true id))

/-- The row-in-lane and column group of ARD and AWR; bits 31 to 6 must be zero (R203). -/
def accGroup (b : BitVec 32) : Option (Nat × Nat) :=
  if b.toNat / 64 ≠ 0 then none else some (b.toNat % 4, b.toNat / 4)

/-- ARD (R203): read in its issue step, written when its latency has passed. -/
def execArd (d : Dst) (a : BitVec 8) (b : Src) (s : State) : Out :=
  let n := match d with
    | .vec n => n
    | _ => 1000
  issue s
    (fun g => { ok := n % 8 = 0 && n + 7 < g.vcount && tileOk a && g.srcOk b && uniOnly b
                tiles := (s.myCrew g).holds a.toNat, reads := srcRegs false b
                writes := (List.range 8).map (fun i => n + i) })
    (fun g =>
      let w := s.myCrew g
      if g.active = [] then .go (s.put g)
      else match accGroup (g.rd b 0) with
      | none => .trap { cause := 0x02 }
      | some (r, col) =>
        if ! w.tilesFree [a.toNat] then .hold
        else
          let parts := g.active.map (fun l =>
            ({ lane := l, locs := (List.range 8).map (fun i => Loc.v (n + i) l), unit := 0, usize := 0
               val := some (BitVec.ofNat 512 (((List.range 8).map (fun i =>
                 (w.acc a.toNat (4 * l + r) (8 * col + i)).toNat * 2 ^ (32 * i))).foldl (· + ·) 0)) } : LoadPart))
          let g1 := g.claim false (parts.flatMap (·.locs))
          .go ((s.startAcc g1 [a.toNat] false id).modCore s.cur.core (fun x =>
            { x with loads := x.loads ++ [{ id := s.nextId, slot := s.cur.slot, seq := g.seq, kind := .tile, parts := parts }] })))

/-- AWR (R203). -/
def execAwr (d : BitVec 8) (a b : Src) (s : State) : Out :=
  let n := match a with
    | .vec n => n
    | _ => 1000
  issue s
    (fun g => { ok := tileOk d && n % 8 = 0 && n + 7 < g.vcount && g.srcOk b && uniOnly b
                tiles := (s.myCrew g).holds d.toNat
                reads := srcRegs false b ++ (List.range 8).map (fun i => n + i) })
    (fun g =>
      if g.active = [] then .go (s.put g)
      else match accGroup (g.rd b 0) with
      | none => .trap { cause := 0x02 }
      | some (r, col) =>
        if ! (s.myCrew g).tilesFree [d.toNat] then .hold
        else .go (s.startAcc g [d.toNat] false (fun w => g.active.foldl (fun w l =>
          (List.range 8).foldl (fun w i => w.setAcc d.toNat (4 * l + r) (8 * col + i) (g.v (n + i) l)) w) w)))

/-- ACCUMULATOR_MANAGEMENT_COMPLETE (R201, R203, R208). -/
def execAccumulatorManagementComplete (s : State) : Out :=
  let c := s.arg.a
  match (s.core c).accs.find? (fun x => x.id = s.arg.b) with
  | none => .next s
  | some x =>
    let s := s.modCore c (fun k => { k with accs := k.accs.filter (fun y => y.id ≠ x.id) })
    let s := match mfind (s.core c).crews x.crew with
      | none => s
      | some _ => s.modCrew c x.crew (fun w =>
          let w := w.letGo x.id
          if x.release then
            { w with
              held := x.tiles.foldl (fun h t => h &&& ~~~(1#24 <<< t)) w.held
              tiles := w.tiles.filter (fun e => ! decide (e.1 / 16384 ∈ x.tiles)) }
          else w)
    match (s.core c).loads.find? (fun y => y.id = x.id) with
    | some y => .next (s.completeLoad c y)
    | none => .next s

/-- Tiles a crew holds. -/
def Crew.tileCount (w : Crew) : Nat := ((List.range 24).filter w.holds).length

/-- Tiles of a core that no crew holds. -/
def Core.freeTiles (x : Core) : Nat := 24 - (x.crews.map (fun e => e.2.tileCount)).foldl (· + ·) 0

/-- ACQA (R207): grants or refuses in its issue step; the result comes through a scoreboard slot. The privileged slot, which belongs to no
crew, is refused. (log 101, DESIGN CHOICE) -/
def execAcqa (d : BitVec 8) (a : Dst) (b : BitVec 8) (s : State) : Out :=
  issue s
    (fun g => { ok := predOk d && g.dstOk a && 1 ≤ b.toNat && b.toNat ≤ 24
                writes := predReg d :: dstRegs false a })
    (fun g =>
      let w := s.myCrew g
      if g.active = [] then .go (s.put g)
      else if 8 ≤ (g.claims.filter (·.slot)).length then .hold
      else
        let ok := b.toNat ≤ (s.core s.cur.core).freeTiles && w.tileCount + b.toNat ≤ 24 && s.cur.slot ≠ privSlot
        let new := if ok then ((List.range 24).filter (fun t => ! w.holds t)).take b.toNat else []
        let mask : Nat := (new.map (fun t => 2 ^ t)).foldl (· + ·) 0
        let ls := g.active
        let part := fun (l : Nat) (locs : List Loc) (x : Nat) =>
          ({ lane := l, locs := locs, unit := 0, usize := 0, val := some (BitVec.ofNat 512 x) } : LoadPart)
        let parts := ls.map (fun l => part l [.p d.toNat l] (if ok then 1 else 0)) ++
          (match a with
            | .vec n => ls.map (fun l => part l [.v n l] mask)
            | .uni n => [part 0 [.g n] mask]
            | _ => [])
        let g1 := g.claim true (parts.flatMap (·.locs))
        .go ((((s.put g1).bump).modCrew s.cur.core g.crew (fun w =>
            { w with held := new.foldl (fun h t => h ||| (1#24 <<< t)) w.held })).modCore s.cur.core (fun x =>
          { x with loads := x.loads ++ [{ id := s.nextId, slot := s.cur.slot, seq := g.seq, kind := .status, parts := parts }] })))

end Sys2Proof.Machine
end

