-- ==== Sys2Proof/Machine/Matrix.lean ====
section
/-! DEFINITION. The cluster matrix engine (R66, R67, R69, R194 to R200, R265 to R268). -/

namespace Sys2Proof.Machine

/-! ### The format word (R194, R195) -/

/-- The depth of one K-step for a pair of formats, none when the pair is not legal (R195). -/
def kStep (a b : Nat) : Option Nat :=
  let narrow := fun (x : Nat) => x = 7 || x = 8
  if narrow a && narrow b || (a = 0 && b = 0) then some 8
  else if (a = 9 && (b = 0 || narrow b)) || (b = 9 && (a = 0 || narrow a)) then some 16
  else if (a = 10 && b = 10) || (a = 11 && b = 11) then some 4
  else none

/-- The depth of one K-step of a structure operation (R200). -/
def kStepOf (fmt : Nat) : Option Nat :=
  match fmt with
  | 0 | 7 | 8 => some 8
  | 9 => some 16
  | 10 | 11 => some 4
  | _ => none

/-- The format word (R194). -/
structure FmtWord where
  rsv : Bool
  nbvc : Nat
  acc : Nat
  ta : Bool
  tb : Bool
  sa : Bool
  sb : Bool
  afmt : Nat
  bfmt : Nat
  src : Nat
deriving DecidableEq, Repr

def fmtWord (w : BitVec 32) : FmtWord :=
  let x := w.toNat
  { rsv := x / 2 ^ 28 ≠ 0 || x / 32 % 128 ≠ 0, nbvc := x / 2 ^ 26 % 4, acc := x / 2 ^ 24 % 4, ta := w.getLsbD 23
    tb := w.getLsbD 22, sa := w.getLsbD 21, sb := w.getLsbD 20, afmt := x / 2 ^ 16 % 16, bfmt := x / 2 ^ 12 % 16, src := x % 32 }

/-- Rows and columns of an operand, read as it stands or transposed. -/
def TDesc.shape (d : TDesc) (t : Bool) : Nat × Nat := if t then (d.cols, d.rows) else (d.rows, d.cols)

/-- The operands X and Y of a product among its descriptors (R196). -/
def splitXY (kind : MxKind) (ds : List TDesc) : List TDesc × List TDesc :=
  match kind with
  | .mma => (ds.take 1, ds.drop 1)
  | .mma2 => (ds.take 2, ds.drop 2)
  | _ => ([], ds)

/-- All elements of a list are equal. -/
def allSame {α : Type} [DecidableEq α] : List α → Bool
  | [] => true
  | x :: rest => rest.all (fun y => y = x)

/-- The checks of R197 step 3 on a product. -/
def productOk (kind : MxKind) (f : FmtWord) (ds : List TDesc) : Bool :=
  let (xs, ys) := splitXY kind ds
  let yshape := ((ys.map (fun d => d.shape f.tb)).headD (0, 0))
  let xshape := (xs.map (fun d => d.shape f.ta)).headD (128, yshape.1)
  ! f.rsv && f.nbvc ≠ 1 && f.acc ≤ 1 && (kStep f.afmt f.bfmt).isSome &&
  ! ((f.sa || f.sb) && 10 ≤ f.afmt) && f.src < 24 &&
  (match kind with
    | .mmat => (f.afmt = 7 || f.afmt = 8 || f.afmt = 10 || f.afmt = 11) && ! f.sa && yshape.1 ≤ 128
    | _ => f.src = 0) &&
  ds.all (fun d => d.space ≠ 0) &&
  xs.all (fun d => d.fmt = f.afmt && d.sc = f.sa) && ys.all (fun d => d.fmt = f.bfmt && d.sc = f.sb) &&
  allSame (xs.map (fun d => d.shape f.ta)) && allSame (ys.map (fun d => d.shape f.tb)) &&
  xshape.1 ≤ 128 && yshape.2 ≤ 128 && 1 ≤ yshape.1 && xshape.2 = yshape.1

/-! ### Requests (R197 to R199) -/

/-- The core's cluster (R13). -/
def clusterOf (c : Nat) : Nat := c / 4

def State.cme (s : State) (k : Nat) : Cme := mget {} s.cmes k

/-- The memory checks over every byte of every operand, behind them the number of pages (log 104, DESIGN CHOICE), the wait and the strict
check of an entry, then the entry itself (R197 step 5, R198, R199, R201). The strict reads go behind the stores that the gang has made to
the records (R277). -/
def State.request (s : State) (g : Gang) (e : MxEntry) (ds : List TDesc) (named : List Nat) : Res :=
  s.withWalks g (ds.flatMap (fun d => d.pages d.whole)) fun s =>
  let c := s.cur.core
  let root := s.rootOf c s.cur.slot
  let w := s.myCrew g
  match firstCond (ds.flatMap (fun d => s.tdescConds w root d { access := .asyncRead, host := false, part := d.whole })) with
  | some t => .trap t
  | none =>
    let xl := s.xlats c root (ds.flatMap (fun d => d.pages d.whole))
    let recs := if g.strict then ds.flatMap (fun d => (s.view g d).records) else []
    if 1024 < xl.length then .trap { cause := 0x02 }
    else if ! w.tilesFree named then .hold
    else if 32 ≤ (s.cme (clusterOf c)).table.length || s.ownStoreIn g recs then .hold
    else match s.readAll w.part recs with
      | (t, .wait) => .ask t
      | (t, .bad q) => .go ((t.put g).mismatch w.part c q)
      | (t, .ready) =>
        if g.strict && ds.any (fun d => s.strictBad (s.view g d) w.nbv) then .trap { cause := 0x21 }
        else
          let e := { e with
            id := s.nextId, core := c, slot := s.cur.slot, crew := g.crew, part := w.part, seq := g.seq, xlat := xl
            place := w.slots.findIdx (· = s.cur.slot)
            after := s.outstanding c s.cur.slot g.seq, active := maskOf g.active, sat := g.sat, strict := g.strict
            prio := w.prio, since := s.clock, word := s.cur.word }
          let t := (t.put g).bump.modCrew c g.crew (fun w => w.seize s.nextId named)
          let m := t.cme (clusterOf c)
          .go { t with cmes := minsert t.cmes (clusterOf c) { m with table := m.table ++ [e] } }

/-- The descriptors from a register on. -/
def Gang.descs (g : Gang) (a n : Nat) : List (BitVec 128) := (List.range n).map (fun i => g.t (a + i))

/-- The output tiles of a product (R196). -/
def outTiles (kind : MxKind) (d : Nat) : List Nat := if kind = .mma2 then [d, d + 1, d + 2, d + 3] else [d]

/-- An entry as its instruction names it. -/
def mxEntry (kind : MxKind) (tile : Nat) (fw : BitVec 32) (descs : List (BitVec 128)) (idx : SMap (BitVec 32)) : MxEntry :=
  { id := 0, core := 0, slot := 0, crew := 0, part := 0, seq := 0, kind := kind, word := 0#32, tile := tile, fw := fw
    descs := descs, idx := idx, active := 0#32 }

/-- A product (R194 to R199): the checks of R197 in their order. -/
def productOp (kind : MxKind) (n : Nat) (d a : BitVec 8) (b : Src) (s : State) : Out :=
  issue s
    (fun g => { ok := tileOk d && g.srcOk b && a.toNat + n ≤ 16 && a.toNat + n ≤ g.tcount && (kind ≠ .mma2 || d.toNat % 4 = 0)
                tiles := (s.myCrew g).holds d.toNat
                reads := srcRegs false b ++ (List.range n).map (fun i => 1024 + a.toNat + i) })
    (fun g =>
      let w := s.myCrew g
      let fw := g.rd b (g.active.headD 0)
      let f := fmtWord fw
      let raw := g.descs a.toNat n
      let ds := raw.map tdescOf
      let named := outTiles kind d.toNat ++ (if kind = .mmat then [f.src] else [])
      if ! g.mayAccess then .hold
      else if g.active = [] then .go (s.put g)
      else if g.active.any (fun l => g.rd b l ≠ fw) then .trap { cause := 0x20 }
      else if 2 ≤ f.nbvc && ((f.nbvc = 3) != w.nbv) then .trap { cause := 0x20 }
      else if ! productOk kind f ds then .trap { cause := 0x02 }
      else if ! named.all w.holds then .trap { cause := 0x22 }
      else s.request g (mxEntry kind d.toNat fw raw []) ds named)

/-- MMA (R196). -/
def execMma (d a : BitVec 8) (b : Src) (s : State) : Out := productOp .mma 2 d a b s
/-- MMA2 (R196). -/
def execMma2 (d a : BitVec 8) (b : Src) (s : State) : Out := productOp .mma2 4 d a b s
/-- MMAT (R196). -/
def execMmat (d a : BitVec 8) (b : Src) (s : State) : Out := productOp .mmat 1 d a b s

/-- The extent of an entry: rows, columns and depth, the elements of one pass, its outputs (tile, X operand, Y operand),
and whether it overwrites. -/
structure Extent where
  m : Nat
  n : Nat
  k : Nat
  span : Nat
  outs : List (Nat × Nat × Nat)
  fresh : Bool
deriving DecidableEq, Repr

def MxEntry.extent (e : MxEntry) : Extent :=
  let ds := e.descs.map tdescOf
  let f := fmtWord e.fw
  let y := ds.getLast?.getD (tdescOf 0#128)
  let step := ((kStep f.afmt f.bfmt).getD 8)
  let ystep := (kStepOf y.fmt).getD 8
  match e.kind with
  | .mma => { m := ((ds.headD y).shape f.ta).1, n := (y.shape f.tb).2, k := (y.shape f.tb).1, span := 64 * step
              outs := [(e.tile, 0, 1)], fresh := f.acc = 1 }
  | .mma2 => { m := ((ds.headD y).shape f.ta).1, n := (y.shape f.tb).2, k := (y.shape f.tb).1, span := 16 * step
               outs := [(e.tile, 0, 2), (e.tile + 1, 0, 3), (e.tile + 2, 1, 2), (e.tile + 3, 1, 3)], fresh := f.acc = 1 }
  | .mmat => { m := 128, n := (y.shape f.tb).2, k := (y.shape f.tb).1, span := 64 * step, outs := [(e.tile, 0, 0)]
               fresh := f.acc = 1 }
  | .ttrans => { m := y.cols, n := y.rows, k := y.cols, span := 64 * ystep, outs := [(e.tile, 0, 0)], fresh := true }
  | .tperm => { m := 128, n := y.cols, k := y.rows, span := 64 * ystep, outs := [(e.tile, 0, 0)], fresh := true }
  | .trsum => { m := 1, n := (y.shape (e.fw ≠ 0#32)).2, k := (y.shape (e.fw ≠ 0#32)).1, span := 64 * ystep
                outs := [(e.tile, 0, 0)], fresh := false }

/-- A structure operation (R195, R196, R200); fw keeps the k of TRSUM. -/
def structureOp (kind : MxKind) (d a : BitVec 8) (ok : Gang → Bool) (reads : List Nat) (fw : BitVec 32)
    (idx : Gang → SMap (BitVec 32)) (s : State) : Out :=
  issue s
    (fun g => { ok := tileOk d && g.tdescOk a && ok g, tiles := (s.myCrew g).holds d.toNat, reads := tdescReg a :: reads })
    (fun g =>
      let raw := g.t a.toNat
      let t := tdescOf raw
      let e := mxEntry kind d.toNat fw [raw] (idx g)
      let small := match kind with
        | .trsum => (if fw = 0#32 then t.cols else t.rows) ≤ 128
        | _ => t.rows ≤ 128 && t.cols ≤ 128
      if ! g.mayAccess then .hold
      else if g.active = [] then .go (s.put g)
      else if t.space = 0 || (kStepOf t.fmt).isNone || (t.sc && 10 ≤ t.fmt) || ! small || e.extent.k = 0 then .trap { cause := 0x02 }
      else s.request g e [t] [d.toNat])

/-- TTRANS (R200). -/
def execTtrans (d a : BitVec 8) (s : State) : Out := structureOp .ttrans d a (fun _ => true) [] 0#32 (fun _ => []) s
/-- TPERM (R200): its row indices come from a vector register. -/
def execTperm (d a : BitVec 8) (b : Src) (s : State) : Out :=
  structureOp .tperm d a
    (fun g => match b with
      | .vec n => n < g.vcount
      | _ => false)
    (srcRegs false b) 0#32 (fun g => allLanes.foldl (fun m l => minsert m l (g.rd b l)) []) s
/-- TRSUM (R200). -/
def execTrsum (d a b : BitVec 8) (s : State) : Out :=
  structureOp .trsum d a (fun _ => b.toNat ≤ 1) [] (b.setWidth 32) (fun _ => []) s

/-! ### Passes (R66, R67, R196, R199, R200) -/

/-- Y's element (k, n) is read from the transpose of the stored tensor. -/
def MxEntry.ytrans (e : MxEntry) : Bool :=
  match e.kind with
  | .ttrans => true
  | .tperm => false
  | .trsum => e.fw ≠ 0#32
  | _ => (fmtWord e.fw).tb

/-- The view of an operand of an entry. -/
def State.mxView (s : State) (e : MxEntry) (i : Nat) : TView :=
  let d := tdescOf (e.descs.getD i 0#128)
  { d := d, xl := e.xlat, core := e.core, crew := e.crew
    start := ((s.boundRegion (s.crew e.core e.crew) (d.base.toNat / 2 ^ 32 % 8)).map Region.start).getD 0 }

/-- An element of an operand, as stored or transposed (R189, R196). -/
def State.opnd (s : State) (e : MxEntry) (i : Nat) (t : Bool) (r c : Nat) : FVal × Flags :=
  s.telem (s.mxView e i) (s.crew e.core e.crew).nbv (if t then c else r) (if t then r else c)

/-- X's element (m, k): none where a constant X holds a zero (R200). Of the flags of Conv, the underflow is not reported (R196). -/
def State.xElem (s : State) (e : MxEntry) (xi m k : Nat) : Option (FVal × Flags) :=
  let f := fmtWord e.fw
  match e.kind with
  | .ttrans => if m = k then some (.fin false 1 0 false, 0) else none
  | .tperm => if (mget 0#32 e.idx (m / 4)).toNat / 2 ^ (8 * (m % 4)) % 256 = k then some (.fin false 1 0 false, 0) else none
  | .trsum => some (.fin false 1 0 false, 0)
  | .mmat =>
    let x := (s.crew e.core e.crew).acc f.src (if f.ta then k else m) (if f.ta then m else k)
    let r := roundTo ((fmtOf f.afmt).getD fmtFP32) (fmtFP32.value x.toNat) (.mode 0) e.sat
    some (elementValue f.afmt r.1, r.2 &&& ~~~flagUF)
  | _ => some (s.opnd e xi f.ta m k)

/-- One block of the accumulation (R66, R67): products already formed, each with its invalid flag. -/
def accBlock (rnd : Nat) (acc : Option Nat) (ps : List (FVal × Bool)) : Option Nat × Flags :=
  if ps = [] then (acc, 0)
  else
    let vs := ps.map (·.1)
    let bad := ps.any (·.2) || (vs.any (· = .inf false) && vs.any (· = .inf true))
    let sum := (sumV 0 vs).1
    let t := match acc with
      | none => (sum, false)
      | some a => sumV 0 [fmtFP32.value a, sum]
    let r := roundToFP32 t.1 rnd
    (some r.1, r.2 ||| nvIf (bad || t.2))

/-- The products of one block for an output element. -/
def State.blockTerms (s : State) (e : MxEntry) (xi yi m n k0 k1 : Nat) : List (FVal × Bool) :=
  (List.range (k1 - k0)).filterMap (fun i =>
    (s.xElem e xi m (k0 + i)).map (fun x => x.1.mul (s.opnd e yi e.ytrans (k0 + i) n).1))

/-- An output element over a span of K (R196): its pattern and flags. -/
def State.mxElement (s : State) (e : MxEntry) (nbv : Bool) (xi yi m n k0 k1 : Nat) (acc : Option Nat) : Nat × Flags :=
  let depth := if nbv then 32 else 16
  let blocks := (List.range ((k1 - k0 + depth - 1) / depth)).map (fun b => k0 + depth * b)
  let r := blocks.foldl (fun (a : Option Nat × Flags) b =>
    let t := accBlock (if nbv then 0 else 1) a.1 (s.blockTerms e xi yi m n b (min k1 (b + depth)))
    (t.1, a.2 ||| t.2)) (acc, 0)
  (r.1.getD 0, r.2)

/-- The flags of reading the operands over a span (R63, R196): those of an X row count when its lane is active, but for the composition
check, which is made of every element that is decoded, and all of those of Y. (log 102, DESIGN CHOICE) -/
def State.decodeFlags (s : State) (e : MxEntry) (x : Extent) (rows : List Nat) (k0 k1 : Nat) : Flags :=
  let ks := (List.range (k1 - k0)).map (fun i => k0 + i)
  x.outs.foldl (fun f o =>
    ks.foldl (fun f k =>
      let f := (List.range x.m).foldl (fun f m =>
        let d := ((s.xElem e o.2.1 m k).map (·.2)).getD 0
        f ||| (if m ∈ rows then d else d &&& flagSCOVF)) f
      (List.range x.n).foldl (fun f n => f ||| (s.opnd e o.2.2 e.ytrans k n).2) f) f) 0

/-- The tiles and flags after one pass (R196, R199). -/
def State.pass (s : State) (e : MxEntry) : Crew × Flags :=
  let x := e.extent
  let w := s.crew e.core e.crew
  let k0 := e.kdone
  let k1 := min x.k (k0 + x.span)
  let ls := allLanes.filter (fun l => e.active.getLsbD l)
  let rows := (ownedRows ls).filter (· < x.m)
  x.outs.foldl (fun (r : Crew × Flags) o => rows.foldl (fun r m => (List.range x.n).foldl (fun r n =>
    let acc := if x.fresh && k0 = 0 then none else some (w.acc o.1 m n).toNat
    let v := s.mxElement e w.nbv o.2.1 o.2.2 m n k0 k1 acc
    (r.1.setAcc o.1 m n (BitVec.ofNat 32 v.1), r.2 ||| v.2)) r) r) (w, s.decodeFlags e x rows k0 k1)

/-! ### What a pass reads (R199, R365, R369, R389) -/

/-- The ranges of a tensor between two places of its rows, or of its columns. -/
def TDesc.span (d : TDesc) (cols : Bool) (k0 k1 : Nat) : List (BitVec 64 × Nat) :=
  if d.sc then d.ranges (d.whole.filter (fun b =>
    let x := 32 * (if cols then b % (d.cols / 32) else b / (d.cols / 32))
    decide (k0 < x + 32 ∧ x < k1)))
  else if cols then d.whole.map (fun i => (d.rowAt i + BitVec.ofNat 64 (k0 * d.z), (k1 - k0) * d.z))
  else d.ranges ((List.range (k1 - k0)).map (fun i => k0 + i))

/-- The operands that a pass reads from memory, each with whether its depth runs along the columns of the stored tensor. -/
def MxEntry.operands (e : MxEntry) : List (Nat × Bool) :=
  joinNew [] (e.extent.outs.flatMap (fun o =>
    (match e.kind with
      | .mma | .mma2 => [(o.2.1, ! (fmtWord e.fw).ta)]
      | _ => []) ++ [(o.2.2, e.ytrans)]))

/-- The physical ranges that an entry reads between two places of its depth. -/
def State.depthSpots (s : State) (e : MxEntry) (k0 k1 : Nat) : List Spot :=
  e.operands.flatMap (fun o =>
    let v := s.mxView e o.1
    ((v.d.span o.2 k0 k1).flatMap (fun r => pageCuts r.1 r.2)).map (fun q => v.spot q.1 q.2))

/-- The physical ranges that the next pass of an entry reads. -/
def State.passSpots (s : State) (e : MxEntry) : List Spot :=
  s.depthSpots e e.kdone (min e.extent.k (e.kdone + e.extent.span))

/-! ### Arbitration (R265 to R268) -/

/-- The effective priority of an entry (R267). -/
def MxEntry.rank (e : MxEntry) (clock : Nat) : Nat := min 7 (e.prio + (clock - e.since) / 1024)

/-- A crew that is being saved gets no further pass (R209). -/
def State.mxReady (s : State) (e : MxEntry) : Bool :=
  ! e.running && s.cleared e.core e.after && ! ((s.core e.core).gangsOf e.crew).any (fun p => p.2.saving)

/-- PASS_GRANT (R265 to R268): the ready entry of highest effective priority, the earliest among equals, goes to the lowest
free quarter. -/
def execPassGrant (s : State) : Out :=
  let k := s.arg.a
  let m := s.cme k
  let ready := m.table.filter s.mxReady
  let top := maxNat (ready.map (fun e => e.rank s.clock))
  match ready.find? (fun e => e.rank s.clock = top), (List.range 4).find? (fun q => (mfind m.quarters q).isNone) with
  | some e, some q =>
    let t : Cme :=
      { table := m.table.map (fun (x : MxEntry) => if x.id = e.id then { x with running := true } else x)
        quarters := minsert m.quarters q e.id }
    .next { s with cmes := minsert s.cmes k t }
  | _, _ => .next s

/-- An entry leaves its table. -/
def State.dropEntry (s : State) (k id : Nat) : State :=
  let m := s.cme k
  { s with cmes := minsert s.cmes k { m with table := m.table.filter (fun e => e.id ≠ id) } }

/-- K-steps of accumulator tiles that the next pass of an entry takes (R320). -/
def MxEntry.steps (e : MxEntry) : Nat :=
  let x := e.extent
  let one := match e.kind with
    | .mma2 => x.span / 16
    | _ => x.span / 64
  (min x.span (x.k - e.kdone) + one - 1) / one * x.outs.length

/-- A quarter has no pass to run any more. -/
def State.freeQuarter (s : State) (k q : Nat) : State :=
  let m := s.cme k
  { s with cmes := minsert s.cmes k { m with quarters := merase m.quarters q } }

/-- A pass meets a sector that does not match its check value: the instruction has no further effect (R390). -/
def State.passLost (s : State) (k : Nat) (e : MxEntry) (q : Nat) : State :=
  ((((s.dropEntry k e.id).modCrew e.core e.crew (fun w => w.letGo e.id)).mismatch e.part e.core q).settleKill e.core e.crew)

/-- What a pass does: it writes its tiles; the last one releases them, gives the flags and sends the completion pulse (R199, R201). -/
def State.passDone (s : State) (k : Nat) (e : MxEntry) : State :=
  let r := s.pass e
  let x := e.extent
  let s := (s.modCrew e.core e.crew (fun _ => r.1)).count (dieOf e.core) e.part 0 e.steps
  if x.k ≤ e.kdone + x.span then
    let s := ((s.dropEntry k e.id).modCrew e.core e.crew (fun w => w.letGo e.id)).pulse e.core e.crew 1
    let s := s.modGang e.core e.slot (fun g => if g.crew = e.crew then g.setFlags (e.flags ||| r.2) else g)
    s.settleKill e.core e.crew
  else
    let n := s.cme k
    let t : Cme := { n with table := n.table.map (fun (y : MxEntry) =>
      if y.id = e.id then { y with kdone := y.kdone + x.span, flags := y.flags ||| r.2, running := false, since := s.clock }
      else y) }
    { s with cmes := minsert s.cmes k t }

/-- PASS_COMPLETE (R199, R201, R390), once the slices and the host have let its reads be served. A sector that a later pass would find
not to match keeps the instruction from any further effect now. A crew that has ended has nothing for
it to write. -/
def execPassComplete (s : State) : Out :=
  let k := s.arg.a
  let m := s.cme k
  match mfind m.quarters s.arg.b with
  | none => .next s
  | some id =>
    match m.table.find? (fun e => e.id = id) with
    | none => .next (s.freeQuarter k s.arg.b)
    | some e =>
      let t := s.freeQuarter k s.arg.b
      if (mfind (s.core e.core).crews e.crew).isNone then .next (t.dropEntry k id)
      else
        match t.readAll e.part (s.passSpots e) with
        | (u, .wait) => .next (s.asked u)
        | (u, .bad q) => .next (u.passLost k e q)
        | (u, .ready) => .next (match s.spotBad (s.depthSpots e e.kdone e.extent.k) with
          | some q => t.passLost k e q
          | none => u.passDone k e)

end Sys2Proof.Machine
end

