-- ==== Sys2Proof/Machine/Async.lean ====
section
/-! DEFINITION. The asynchronous queues of a core and the drain path (R175 to R182, R185, R204 to R206). -/

namespace Sys2Proof.Machine

/-! ### Posting (R175 to R177) -/

/-- The first uniform register of a descriptor (R177). -/
def descBase (a : BitVec 8) : Nat := a.toNat - 0xC0

/-- A names an even uniform register with n of them held. -/
def Gang.descOk (g : Gang) (a : BitVec 8) (n : Nat) : Bool :=
  0xC0 ≤ a.toNat && a.toNat % 2 = 0 && decide (descBase a + n ≤ g.ucount)

/-- The words of a descriptor as read at issue. -/
def Gang.descWords (g : Gang) (a : BitVec 8) (n : Nat) : List (BitVec 32) := (List.range n).map (fun i => g.u (descBase a + i))

/-- A 64-bit field of a descriptor. -/
def pairAt (ws : List (BitVec 32)) (i : Nat) : BitVec 64 := ws.getD (i + 1) 0#32 ++ ws.getD i 0#32
def wordAt (ws : List (BitVec 32)) (i : Nat) : Nat := (ws.getD i 0#32).toNat

/-- A command as its instruction names it. -/
def command (kind : ACmdKind) (flags : Nat) (words : List (BitVec 32)) : ACmd :=
  { id := 0, slot := 0, crew := 0, part := 0, seq := 0, kind := kind, flags := flags, words := words }

/-- Posts a command for the issuing gang: its counters rise and it joins its queue (R175). -/
def State.postCommand (s : State) (g : Gang) (q : Nat) (a : ACmd) : State :=
  let c := s.cur.core
  let w := s.myCrew g
  let a := { a with
    id := s.nextId, slot := s.cur.slot, crew := g.crew, part := s.partOf c s.cur.slot, seq := g.seq, mode := g.mode
    active := maskOf g.active, nbv := w.nbv, block := g.block, slotNo := g.slot
    after := if a.kind = .fence then [] else s.outstanding c s.cur.slot g.seq }
  let g := g.raise (2 + q) []
  let g := if a.remote then g.raise 11 [] else g
  ((s.put g).bump).modCore c (fun x => { x with queues := minsert x.queues q (mget [] x.queues q ++ [a]) })

/-- What a post waits for: room in the queue and in the counters. -/
def State.postWaits (s : State) (g : Gang) (q : Nat) (remote : Bool) : Bool :=
  32 ≤ (mget [] (s.core s.cur.core).queues q).length || 63 ≤ g.count (2 + q) || (remote && 63 ≤ g.count 11)

/-- A post: the command, or the trap of its checks at issue. -/
def postOp (sig : Gang → Sig) (q : Nat) (f : Gang → Except Trap ACmd) (s : State) : Out :=
  issue s sig (fun g =>
    if ! g.mayAccess then .hold
    else if g.active = [] then .go (s.put g)
    else match f g with
      | .error t => .trap t
      | .ok a => if s.postWaits g q a.remote then .hold else .go (s.postCommand g q a))

/-- The issue of a command with a descriptor of n words. -/
def descSig (q a : BitVec 8) (n : Nat) (ok : Gang → Bool) (reads : List Nat) (g : Gang) : Sig :=
  { ok := q.toNat ≤ 7 && g.descOk a n && ok g, reads := uniRegs (descBase a) n ++ reads }

/-- An address that a check names, with its condition; the conditions rank as R177 lists them. (log 108, DEDUCED) -/
abbrev AddrCond := Nat × BitVec 64 × Cond

/-- A local address must be canonical (R177). -/
def canonCheck (x : BitVec 64) : List AddrCond := if canonical x then [] else [(0, x, ⟨2, 0x11⟩)]

/-- An address must be a multiple of z. -/
def alignCheck (x : BitVec 64) (z : Nat) : List AddrCond := if x.toNat % z = 0 then [] else [(0, x, ⟨3, 0x12⟩)]

/-- A scratchpad range must lie within Sc; an empty one touches nothing. (log 69, DEDUCED) -/
def spadCheck (sc : Nat) (off : Int) (n : Nat) : List AddrCond :=
  if n = 0 || (decide (0 ≤ off) && decide (off + n ≤ sc)) then [] else [(0, BitVec.ofInt 64 off, ⟨1, 0x13⟩)]

/-- A field of the descriptor must hold what its rule says. -/
def fieldCheck (ok : Bool) : List AddrCond := if ok then [] else [(0, 0#64, ⟨4, 0x02⟩)]

/-- The command, or the trap of its checks. -/
def checked (conds : List AddrCond) (a : ACmd) : Except Trap ACmd :=
  match firstCond conds with
  | some t => .error t
  | none => .ok a

/-- A local side of a copy: scratchpad or memory (R177). -/
def sideCheck (spad : Bool) (sc : Nat) (ws : List (BitVec 32)) (i n : Nat) : List AddrCond :=
  if spad then spadCheck sc (wordAt ws i) n else canonCheck (pairAt ws i)

/-- A status or result address: a multiple of 8, canonical, or 0. -/
def cellCheck (x : BitVec 64) : List AddrCond := alignCheck x 8 ++ canonCheck x

/-- ACPY (R178). -/
def execAcpy (d a b : BitVec 8) (s : State) : Out :=
  postOp (descSig d a 5 (fun _ => b.toNat ≤ 3) []) d.toNat (fun g =>
    let ws := g.descWords a 5
    let sc := (s.myCrew g).sc
    checked (sideCheck (b.getLsbD 0) sc ws 0 (wordAt ws 4) ++ sideCheck (b.getLsbD 1) sc ws 2 (wordAt ws 4))
      (command .copy b.toNat ws)) s

/-- The scratchpad ranges of the rows of ACPYS: the first and the last bound all of them. -/
def rowsCheck (spad : Bool) (sc : Nat) (ws : List (BitVec 32)) (i pitch : Nat) : List AddrCond :=
  let n := wordAt ws 5
  if ! spad then canonCheck (pairAt ws i)
  else if n = 0 then []
  else
    let off : Int := (wordAt ws i : Int)
    spadCheck sc off (wordAt ws 4) ++ spadCheck sc (off + ((n : Int) - 1) * (ws.getD pitch 0#32).toInt) (wordAt ws 4)

/-- ACPYS (R178). -/
def execAcpys (d a b : BitVec 8) (s : State) : Out :=
  postOp (descSig d a 8 (fun _ => b.toNat ≤ 3) []) d.toNat (fun g =>
    let ws := g.descWords a 8
    let sc := (s.myCrew g).sc
    checked (rowsCheck (b.getLsbD 0) sc ws 0 6 ++ rowsCheck (b.getLsbD 1) sc ws 2 7) (command .copyRows b.toNat ws)) s

/-- AGATH and ASCAT (R179): the row index is read in each active lane. -/
def gatherOp (kind : ACmdKind) (d a : BitVec 8) (b : Src) (s : State) : Out :=
  postOp (descSig d a 5 (fun g => g.srcOk b) (srcRegs false b)) d.toNat (fun g =>
    let ws := g.descWords a 5
    let r := wordAt ws 2
    let sc := (s.myCrew g).sc
    let idx : SMap (BitVec 32) := g.active.map (fun l => (l, g.rd b l))
    checked (canonCheck (pairAt ws 0) ++ fieldCheck (1 ≤ r && r ≤ 65536) ++
        g.active.flatMap (fun l => (spadCheck sc ((wordAt ws 4 + l * r : Nat) : Int) r).map (fun x => (l, x.2))))
      { command kind 0 ws with idx := idx }) s

/-- AGATH (R179). -/
def execAgath (d a : BitVec 8) (b : Src) (s : State) : Out := gatherOp .gather d a b s
/-- ASCAT (R179). -/
def execAscat (d a : BitVec 8) (b : Src) (s : State) : Out := gatherOp .scatter d a b s

/-- RPUT and RGET (R180). -/
def remoteOp (kind : ACmdKind) (d a b : BitVec 8) (s : State) : Out :=
  postOp (descSig d a 8 (fun _ => b.toNat ≤ 1) []) d.toNat (fun g =>
    let ws := g.descWords a 8
    checked (sideCheck (b.getLsbD 0) (s.myCrew g).sc ws 0 (wordAt ws 4) ++ cellCheck (pairAt ws 6) ++ fieldCheck (wordAt ws 5 = 0))
      { command kind b.toNat ws with remote := ! s.ownNode (pairAt ws 2) }) s

/-- RPUT (R180). -/
def execRput (d a b : BitVec 8) (s : State) : Out := remoteOp .rput d a b s
/-- RGET (R180). -/
def execRget (d a b : BitVec 8) (s : State) : Out := remoteOp .rget d a b s

/-- RATOM (R180): its type is MODE.ETYPE under R170. -/
def execRatom (d a b : BitVec 8) (s : State) : Out :=
  postOp (descSig d a 10 (fun g => b.toNat ≤ 7 && atomicType b.toNat g.etype) []) d.toNat (fun g =>
    let ws := g.descWords a 10
    checked (alignCheck (pairAt ws 0) g.z ++ cellCheck (pairAt ws 6) ++ cellCheck (pairAt ws 8))
      { command .ratom b.toNat ws with remote := ! s.ownNode (pairAt ws 0) }) s

/-- WSIG (R181). -/
def execWsig (d a b : BitVec 8) (s : State) : Out :=
  postOp (descSig d a 10 (fun _ => b.toNat ≤ 3) []) d.toNat (fun g =>
    let ws := g.descWords a 10
    let far := b.getLsbD 1
    checked (sideCheck (b.getLsbD 0) (s.myCrew g).sc ws 0 (wordAt ws 4) ++ cellCheck (pairAt ws 8) ++
        alignCheck (pairAt ws 6) 8 ++ (if far then [] else canonCheck (pairAt ws 2) ++ canonCheck (pairAt ws 6)))
      { command .wsig b.toNat ws with remote := far && ! (s.ownNode (pairAt ws 2) && s.ownNode (pairAt ws 6)) }) s

/-- SIGADD (R181). -/
def execSigadd (d a b : BitVec 8) (s : State) : Out :=
  postOp (descSig d a 6 (fun _ => b = 0#8 || b = 2#8) []) d.toNat (fun g =>
    let ws := g.descWords a 6
    let far := b.getLsbD 1
    checked (alignCheck (pairAt ws 0) 8 ++ (if far then [] else canonCheck (pairAt ws 0)) ++ cellCheck (pairAt ws 4))
      { command .sigadd b.toNat ws with remote := far && ! s.ownNode (pairAt ws 0) }) s

/-- AQFENCE (R182): it waits for every command posted earlier into the queues of its mask. -/
def execAqfence (d a : BitVec 8) (s : State) : Out :=
  issue s (fun _ => { ok := d.toNat ≤ 7 }) (fun g =>
    if g.active = [] then .go (s.put g)
    else if s.postWaits g d.toNat false then .hold
    else
      let before := ((s.core s.cur.core).queues.filter (fun p => a.getLsbD p.1)).flatMap (fun p => p.2.map (·.id))
      .go (s.postCommand g d.toNat { command .fence a.toNat [] with before := before }))

/-! ### Tile commands (R204, R205) -/

/-- Rows of a tensor that lanes own (R24). -/
def TDesc.rowsOf (d : TDesc) (ls : List Nat) : List Nat := (ownedRows ls).filter (· < d.rows)

/-- The rows or blocks of a tensor that a load touches: a scaled one is decoded whole, whichever lanes are active (R63, R198).
(log 69, DEDUCED) -/
def TDesc.touched (d : TDesc) (ls : List Nat) : List Nat := if d.sc then d.whole else d.rowsOf ls

/-- A block row of a scaled destination is drained when its eight lanes are active (R205). -/
def blockRowOn (ls : List Nat) (bi : Nat) : Bool := (List.range 8).all (fun i => decide (8 * bi + i ∈ ls))

/-- The rows or blocks that a drain writes (R205). -/
def TDesc.drained (d : TDesc) (ls : List Nat) : List Nat :=
  if d.sc then d.whole.filter (fun k => blockRowOn ls (k / (d.cols / 32))) else d.rowsOf ls

/-- A tile as captured, row by row (R201). -/
def Crew.capture (w : Crew) (t : Nat) (d : TDesc) : SMap (BitVec 32) :=
  (w.tiles.filter (fun e => e.1 / 16384 = t && e.1 / 128 % 128 < d.rows && e.1 % 128 < d.cols)).map
    (fun e => (e.1 % 16384, e.2))

/-- The issue of a tile command; ok are its further field rules. -/
def tileCmdSig (s : State) (d a : BitVec 8) (ok : Bool) (g : Gang) : Sig :=
  { ok := ok && tileOk d && g.tdescOk a, tiles := (s.myCrew g).holds d.toNat, reads := [tdescReg a] }

/-- A tile command over a descriptor: its checks, its waits and its post; more are changes to the crew as it posts. A strict one reads
the scale records behind the stores that the gang has made to them (R198, R277). -/
def tileCommand (s : State) (g : Gang) (q t : Nat) (desc : BitVec 128) (u : TUse) (ok : Bool) (strict : Bool) (a : ACmd)
    (more : Crew → Crew) : Res :=
  let d := tdescOf desc
  let w := s.myCrew g
  if ! g.mayAccess then .hold
  else if g.active = [] then .go (s.put g)
  else if d.space = 0 || 128 < d.rows || 128 < d.cols || ! ok then .trap { cause := 0x02 }
  else s.withWalks g (d.pages (if strict && g.strict then d.whole else u.part)) fun s => match s.tdescTrap w (s.rootOf s.cur.core s.cur.slot) d u with
    | some x => .trap x
    | none =>
      let v := s.view g d
      let recs := if strict && g.strict then v.records else []
      if ! w.tilesFree [t] || s.postWaits g q false || s.ownStoreIn g recs then .hold
      else match s.readAll w.part recs with
        | (x, .wait) => .ask x
        | (x, .bad q) => .go ((x.put g).mismatch w.part s.cur.core q)
        | (x, .ready) =>
          if strict && g.strict && s.strictBad v w.nbv then .trap { cause := 0x21 }
          else .go ((x.postCommand g q { a with desc := desc, tileNo := t }).modCrew s.cur.core g.crew more)

/-- ALD (R204): the tile is its own until its values are written. -/
def execAld (d a b : BitVec 8) (s : State) : Out :=
  issue s (tileCmdSig s d a (b.toNat ≤ 7)) (fun g =>
    let t := tdescOf (g.t a.toNat)
    tileCommand s g b.toNat d.toNat (g.t a.toNat) { access := .asyncRead, spaces := [1, 2, 3], homes := false, part := t.touched g.active }
      true true (command .ald 0 []) (fun w => w.seize s.nextId [d.toNat]))

/-- AST (R204): FP32 only, unscaled. -/
def execAst (d a b : BitVec 8) (s : State) : Out :=
  issue s (tileCmdSig s d a (b.toNat ≤ 7)) (fun g =>
    let t := tdescOf (g.t a.toNat)
    tileCommand s g b.toNat d.toNat (g.t a.toNat)
      { access := .asyncWrite, spaces := [1, 2], part := t.rowsOf g.active }
      (t.fmt = 12 && ! t.sc) false { command .ast 0 [] with tile := (s.myCrew g).capture d.toNat t } id)

/-- ADRAIN (R205): the tile is captured as it stands, and CLR clears what is drained. -/
def execAdrain (d a b : BitVec 8) (s : State) : Out :=
  issue s (tileCmdSig s d a (b.toNat / 32 = 0)) (fun g =>
    let t := tdescOf (g.t a.toNat)
    let ks := t.drained g.active
    let rows := if t.sc then (List.range t.rows).filter (fun i => blockRowOn g.active (i / 32)) else ks
    tileCommand s g (b.toNat % 8) d.toNat (g.t a.toNat)
      { access := .asyncWrite, spaces := [1, 2], part := ks } true false
      { command .drain b.toNat [] with tile := (s.myCrew g).capture d.toNat t }
      (fun w => if b.getLsbD 4 then { w with tiles := w.tiles.filter (fun e =>
          ! (e.1 / 16384 = d.toNat && decide (e.1 / 128 % 128 ∈ rows) && e.1 % 128 < t.cols)) }
        else w))

/-! ### Moving bytes (R178, R179, R185) -/

/-- A place some bytes on. -/
def Place.plus (p : Place) (n : Nat) : Place :=
  match p with
  | .mem va => .mem (va + BitVec.ofNat 64 n)
  | .spad off => .spad (off + n)
  | .buf off => .buf (off + n)

/-- Bytes up to the end of a page. -/
def Place.room : Place → Nat
  | .mem va => 4096 - va.toNat % 4096
  | _ => 2 ^ 32

/-- Where a place stands, for telling whether two ranges overlap: its kind and its physical position, and in memory the DELTA of an SPL
page. -/
structure Stand where
  kind : Nat
  at_ : Nat
  spl : Option Nat := none
deriving DecidableEq, Repr

/-- The range of n bytes that stands there. -/
def Stand.spot (x : Stand) (n : Nat) : Spot := { a := x.at_, n := n, spl := x.spl }

/-- Where a place of a command stands: 0 is memory, 1 the scratchpad, 2 and 3 the command's own buffer. -/
def State.spotOf (s : State) (c : Nat) (a : ACmd) (write : Bool) (p : Place) : Except Cond Stand :=
  match p with
  | .mem va => (s.checkAddr c a.part (if write then .asyncWrite else .asyncRead) va 1).map (fun r =>
      { kind := 0, at_ := r.1, spl := (r.2.spot r.1 1).spl })
  | .spad off => .ok { kind := 1, at_ := off }
  | .buf off => .ok { kind := if write then 2 else 3, at_ := off }

/-- How an engine's step ends: it is done, it waits for the host, it meets a page fault, an error with a cause, or a
check value that does not match. -/
inductive Moved where
  | done | wait | fault | bad (cause : Nat) (addr : BitVec 64) | lost (sector : Nat)
deriving DecidableEq, Repr

/-- Bytes of a list replaced from an offset on. -/
def putBytes (xs : List (BitVec 8)) (off : Nat) (bs : List (BitVec 8)) : List (BitVec 8) :=
  (xs ++ List.replicate (off - xs.length) 0#8).take off ++ bs ++ xs.drop (off + bs.length)

/-- The bytes at a place; the scratchpad shows what the command itself has put there. -/
def State.readSpot (s : State) (c : Nat) (a : ACmd) (x : Stand) (n : Nat) : List (BitVec 8) :=
  match x.kind with
  | 0 => s.bytes x.at_ n
  | 1 => (List.range n).map (fun i => (mfind a.out (x.at_ + i)).getD ((s.crew c a.crew).spadByte (x.at_ + i)))
  | _ => (a.buf.drop x.at_).take n

/-- The first sector of a read that must match its check value and does not: one that goes whole into an aligned sector carries its
check value along (R389). -/
def State.readBad (s : State) (x dst : Stand) (n : Nat) : Option Nat :=
  if x.kind ≠ 0 then none
  else (s.badSectors x.at_ n).find? (fun q => ! (dst.kind = 0 && x.at_ % 32 = dst.at_ % 32 && covers x.at_ n q))

/-- A read is let through by the slice and the host, and matches its check values. -/
def State.readReady (s : State) (part : Nat) (x dst : Stand) (n : Nat) : State × Moved :=
  if x.kind ≠ 0 then (s, .done)
  else
    let g := s.access false (x.spot n) part
    if ! g.2 then (g.1, .wait)
    else match g.1.readBad x dst n with
      | some q => (g.1, .lost q)
      | none => (g.1, .done)

/-- Writes bytes at a place. -/
def State.writeSpot (s : State) (c : Nat) (a : ACmd) (x : Stand) (bs : List (BitVec 8)) : State × ACmd × Moved :=
  match x.kind with
  | 0 =>
    let y := x.spot bs.length
    let g := s.access true y a.part
    if ! g.2 then (g.1, a, .wait)
    else match g.1.spotWriteBad [y] with
      | some q => (g.1, a, .lost q)
      | none => (((g.1.charge a.part false y).homeWrite (enginePort c) a.id x.at_ bs a.part).1, a, .done)
  | 1 =>
    let out := ((List.range bs.length).zip bs).foldl (fun (m : SMap (BitVec 8)) p => minsert m (x.at_ + p.1) p.2) a.out
    (s, { a with out := out }, .done)
  | _ => (s, { a with buf := putBytes a.buf x.at_ bs }, .done)

/-- Whole sectors that have been moved keep the check values that they had (R389). -/
def State.carry (s : State) (old : SMap (BitVec 32)) (src dst : Stand) (n : Nat) : State :=
  if src.kind = 0 && dst.kind = 0 && src.at_ % 32 = dst.at_ % 32 then
    ((sectorsOf dst.at_ n).filter (covers dst.at_ n)).foldl (fun (s : State) q =>
      match mfind old (q + src.at_ / 32 - dst.at_ / 32) with
      | some v => { s with bad := minsert s.bad q v }
      | none => s) s
  else s

/-- A condition that an engine meets at an address (R185). (log 80, DEDUCED) -/
def condMoved (e : Cond) (va : BitVec 64) : Moved := if e.cause = 0x10 then .fault else .bad e.cause va

/-- The address of a place in memory. -/
def Place.va : Place → BitVec 64
  | .mem va => va
  | _ => 0#64

/-- How far the next piece of a segment goes: far is what the pages and the distance of the ranges leave; a piece ends where an aligned
word of the destination ends, or the segment does, and goes on to the end of the word where it would not reach one (R175, R278). -/
def pieceLen (n far dst : Nat) : Nat :=
  if far = n then n
  else if (dst + far) % 4 < far then far - (dst + far) % 4
  else min n (4 - dst % 4)

/-- The next n bytes from a place, cut where a page ends; they lie in at most two pages. -/
def Place.cut (p : Place) (n : Nat) : List (Place × Nat) :=
  (p, min n p.room) :: (if n ≤ p.room then [] else [(p.plus p.room, n - p.room)])

/-- An address in each page of the next n bytes from a place in memory. -/
def Place.pages (p : Place) (n : Nat) : List (BitVec 64) :=
  match p with
  | .mem _ => (p.cut n).map (fun x => x.1.va)
  | _ => []

/-- The places of the next n bytes from a place. -/
def State.spotsOf (s : State) (c : Nat) (a : ACmd) (p : Place) (n : Nat) : Except (Cond × BitVec 64) (List (Stand × Nat)) :=
  (p.cut n).mapM (fun x =>
    match s.spotOf c a false x.1 with
    | .ok q => .ok (q, x.2)
    | .error e => .error (e, x.1.va))

/-- Every one of some reads is ready. -/
def State.allReady (s : State) (part : Nat) (dst : Stand) (ps : List (Stand × Nat)) : State × Moved :=
  ps.foldl (fun (r : State × Moved) p => if r.2 = .done then r.1.readReady part p.1 dst p.2 else r) (s, .done)

/-- Bytes repeated from the start: what copying one byte after another gives over a distance shorter than the piece (R178). -/
def repeatTo (n : Nat) (bs : List (BitVec 8)) : List (BitVec 8) := (List.range n).map (fun i => bs.getD (i % max bs.length 1) 0#8)

/-- The accesses of a piece that has moved are counted, and its reads have been served (R320, R365). (log 53, DESIGN CHOICE) -/
def State.countReads (s : State) (c : Nat) (a : ACmd) (ps : List (Stand × Nat)) : State :=
  ps.foldl (fun (s : State) p => match p.1.kind with
    | 0 => (s.charge a.part true (p.1.spot p.2)).served false p.1.at_ p.2
    | 1 => s.count (dieOf c) a.part 3 (unitsOf p.1.at_ p.2 128).length
    | _ => s) s

/-- The walks that an engine needs for some addresses of a command (R359, R360). -/
def State.engineWalk (s : State) (c : Nat) (a : ACmd) (vas : List (BitVec 64)) : State × Moved :=
  match s.walked c a.part vas with
  | (t, .ready) => (t, .done)
  | (t, .wait) => (t, .wait)
  | (t, .bad q) => (t, .lost q)

/-- The next bytes of a segment move, up to the end of a page; where the ranges overlap, the result is that of one byte after
another (R178). Answers how many moved. (log 26, DESIGN CHOICE) -/
def State.moveSome (s : State) (c : Nat) (a : ACmd) (g : Seg) : State × ACmd × Moved × Nat :=
  match s.engineWalk c a (g.src.pages g.n ++ (g.dst.pages g.n).take 1) with
  | (s, .done) =>
    (match s.spotOf c a false g.src with
    | .error e => (s, a, condMoved e g.src.va, 0)
    | .ok src =>
      match s.spotOf c a true g.dst with
      | .error e => (s, a, condMoved e g.dst.va, 0)
      | .ok dst =>
        let far := min g.n (min g.src.room g.dst.room)
        let gap := if src.kind = dst.kind && decide (src.at_ < dst.at_) then dst.at_ - src.at_ else g.n
        let far := min far gap
        let k := if dst.kind = 0 then pieceLen g.n far dst.at_ else far
        match s.spotsOf c a g.src (min k gap) with
        | .error e => (s, a, condMoved e.1 e.2, 0)
        | .ok ps =>
          let r := s.allReady a.part dst ps
          if r.2 ≠ .done then (r.1, a, r.2, 0)
          else
            let bs := repeatTo k (ps.flatMap (fun p => r.1.readSpot c a p.1 p.2))
            let w := r.1.writeSpot c a dst bs
            (if w.2.2 = .done then (w.1.countReads c a ps).carry s.bad src dst k else w.1, w.2.1, w.2.2, k))
  | (t, m) => (t, a, m, 0)

/-- What a command does when an engine's step does not go through (R185, R390). (log 44, DEDUCED) -/
def State.stopCommand (s : State) (c : Nat) (a : ACmd) (m : Moved) : State × ACmd :=
  match m with
  | .done | .wait => (s, a)
  | .fault => (s.postChore 2 [c, a.slot, a.id], { a with suspended := true })
  | .bad cause va =>
    (s, { a with todo := [], err := some (a.err.getD cause), errAddr := if a.err.isSome then a.errAddr else va, status := 2 })
  | .lost q =>
    let t := s.mismatch a.part c q
    if 64 ≤ a.part then (t, { a with todo := [], status := 2 }) else (t, { a with suspended := true })

/-- The first sector that a command would read or write in part, and that does not match its check value: such a command has no effect
(R390). -/
def State.segsBad (s : State) (c : Nat) (a : ACmd) (gs : List Seg) : Option Nat :=
  if s.bad = [] then none
  else gs.findSome? (fun g =>
    let n := g.n
    let bad := fun (write : Bool) (p : Place) (f : Stand → Nat → Option Nat) => match p with
      | .mem va => (pageCuts va n).findSome? (fun q => match s.spotOf c a write (.mem q.1) with
        | .ok spot => f spot q.2
        | .error _ => none)
      | _ => none
    let dst : Stand := match g.dst with
      | .mem va => { kind := 0, at_ := match g.src with
        | .mem ua => 2 ^ 12 + va.toNat % 32 - ua.toNat % 32
        | _ => va.toNat }
      | _ => { kind := 1, at_ := 0 }
    bad false g.src (fun x k => s.readBad x { dst with at_ := x.at_ + dst.at_ } k) <|>
      bad true g.dst (fun x k => s.writeBad [(x.at_, k)]))

/-- Moves what is still to be moved; n bounds the pieces. (log 26, DESIGN CHOICE) -/
def State.moveAll (s : State) (c : Nat) (a : ACmd) : Nat → State × ACmd
  | 0 => (s, a)
  | n + 1 =>
    match a.todo with
    | [] => (s, a)
    | g :: rest =>
      if g.n = 0 then s.moveAll c { a with todo := rest } n
      else match s.moveSome c a g with
        | (t, b, .done, k) => t.moveAll c { b with todo := { src := g.src.plus k, dst := g.dst.plus k, n := g.n - k } :: rest } n
        | (t, b, m, _) => t.stopCommand c b m

/-- An upper bound on the pieces of a list of segments. -/
def segBound (gs : List Seg) : Nat := (gs.map (fun g => g.n + 1)).foldl (· + ·) 1

/-- The side of a copy named by a descriptor's pair. -/
def sideOf (spad : Bool) (ws : List (BitVec 32)) (i : Nat) : Place := if spad then .spad (wordAt ws i) else .mem (pairAt ws i)

/-- A place moved by a signed distance. -/
def Place.move (p : Place) (d : Int) : Place :=
  match p with
  | .mem va => .mem (va + BitVec.ofInt 64 d)
  | .spad off => .spad (((off : Int) + d) % 2 ^ 32).toNat
  | .buf off => .buf off

/-- What a command has to move when it starts (R178 to R181). -/
def ACmd.segs (a : ACmd) : List Seg :=
  let ws := a.words
  let bit := fun (i : Nat) => a.flags / 2 ^ i % 2 = 1
  let row := fun (l : Nat) => Place.mem (pairAt ws 0 +
    BitVec.ofInt 64 (((mget 0#32 a.idx l).toNat : Int) * (ws.getD 3 0#32).toInt))
  let cell := fun (l : Nat) => Place.spad (wordAt ws 4 + l * wordAt ws 2)
  match a.kind with
  | .copy => [⟨sideOf (bit 0) ws 0, sideOf (bit 1) ws 2, wordAt ws 4⟩]
  | .copyRows => (List.range (wordAt ws 5)).map (fun (i : Nat) =>
      ⟨(sideOf (bit 0) ws 0).move ((i : Int) * (ws.getD 6 0#32).toInt),
        (sideOf (bit 1) ws 2).move ((i : Int) * (ws.getD 7 0#32).toInt), wordAt ws 4⟩)
  | .gather => (mkeys a.idx).map (fun l => ⟨row l, cell l, wordAt ws 2⟩)
  | .scatter => (mkeys a.idx).map (fun l => ⟨cell l, row l, wordAt ws 2⟩)
  | .rput => [⟨sideOf (bit 0) ws 0, .buf 0, wordAt ws 4⟩]
  | .wsig => [⟨sideOf (bit 0) ws 0, if bit 1 then .buf 0 else .mem (pairAt ws 2), wordAt ws 4⟩]
  | _ => []

/-! ### Tensor work of the drain path (R204 to R206) -/

/-- The active lanes of a command. -/
def ACmd.lanes (a : ACmd) : List Nat := allLanes.filter (fun l => a.active.getLsbD l)

/-- The view of a command's descriptor. -/
def State.cmdView (s : State) (c : Nat) (a : ACmd) (part : List Nat) : TView :=
  let d := tdescOf a.desc
  { d := d, xl := s.xlats c a.part (d.pages part), core := c, crew := a.crew
    start := ((s.boundRegion (s.crew c a.crew) (d.base.toNat / 2 ^ 32 % 8)).map Region.start).getD 0 }

/-- The first condition that a command's accesses to ranges meet. -/
def State.rangeCond (s : State) (c : Nat) (a : ACmd) (access : Access) (rs : List (BitVec 64 × Nat)) : Option Moved :=
  (rs.flatMap (fun r => pieces r.1 r.2)).findSome? (fun va =>
    match s.checkAddr c a.part access va 1 with
    | .error e => some (condMoved e va)
    | .ok _ => none)

/-- The flags of decoding every element of a scaled tensor that reach NSTAT whichever lanes are active: the composition check (R63). -/
def State.composeFlags (s : State) (v : TView) (nbv : Bool) : Flags :=
  if v.d.sc then (List.range v.d.rows).foldl (fun f i => (List.range v.d.cols).foldl (fun f j =>
    f ||| ((s.telem v nbv i j).2 &&& flagSCOVF)) f) 0
  else 0

/-- The accesses to the ranges of a tensor are counted: in memory, or in the scratchpad (R320). (log 53, DESIGN CHOICE) -/
def State.chargeTensor (s : State) (v : TView) (part : Nat) (read : Bool) (rs : List (BitVec 64 × Nat)) (spots : List Spot) : State :=
  if v.d.space = 2 then s.count (dieOf v.core) part 3 ((rs.map (fun r => (unitsOf r.1.toNat r.2 128).length)).foldl (· + ·) 0)
  else s.chargeAll part read spots

/-- ALD reads its tensor (R204): the values of the active rows wait in the command until it completes. -/
def State.loadTensor (s : State) (c : Nat) (a : ACmd) : State × ACmd × Moved :=
  let d := tdescOf a.desc
  let part := d.touched a.lanes
  match s.engineWalk c a (d.pages part) with
  | (s, .done) =>
    (match if d.space = 1 then s.rangeCond c a .asyncRead (d.ranges part) else none with
    | some m => (s, a, m)
    | none =>
    let v := s.cmdView c a part
    let spots := v.spots part
    let g := s.accessAll false spots a.part
    if ! g.2 then (g.1, a, .wait)
    else match s.tensorBad v part with
      | some q => (g.1, a, .lost q)
      | none =>
        let vals := (d.rowsOf a.lanes).flatMap (fun i => (List.range d.cols).map (fun j =>
          let x := s.telem v a.nbv i j
          let r := roundToFP32 x.1 0
          (128 * i + j, r.1, x.2 ||| r.2 ||| nvIf x.1.isSig)))
        ((g.1.chargeTensor v a.part true (d.ranges part) spots).servedAll spots,
          { a with tile := vals.map (fun p => (p.1, BitVec.ofNat 32 p.2.1))
                   flagsOut := vals.foldl (fun f p => f ||| p.2.2) (a.flagsOut ||| s.composeFlags v a.nbv) }, .done))
  | (t, m) => (t, a, m)

/-- The blocks of a destination, row-major: first row and column. -/
def TDesc.grid (d : TDesc) : List (Nat × Nat) :=
  (List.range ((d.rows + 31) / 32)).flatMap (fun bi => (List.range ((d.cols + 31) / 32)).map (fun bj => (32 * bi, 32 * bj)))

/-- The value that a drain gives an element, before its format, with its flags (R205). -/
def State.drainElem (s : State) (a : ACmd) (v : TView) (i j : Nat) : Nat × Flags :=
  let x := mget 0#32 a.tile (128 * i + j)
  if a.kind = .drain && a.flags / 8 % 2 = 1 then
    let d := s.telem v a.nbv i j
    let y := sumV 0 [fmtFP32.value x.toNat, d.1]
    let r := roundToFP32 y.1 0
    (r.1, r.2 ||| d.2 ||| nvIf y.2)
  else if a.kind = .drain then
    let x1 := fmtFP32.value x.toNat
    (if x1.isNan then 0x7FC00000 else x.toNat, nvIf x1.isSig)
  else (x.toNat, 0)

/-- What a drain writes in one block: ranges with their bytes, and the flags (R205). -/
def State.drainBlock (s : State) (a : ACmd) (v : TView) (b : Nat × Nat) : List (BitVec 64 × List (BitVec 8)) × Flags :=
  let d := v.d
  let w := min 32 (d.cols - b.2)
  if d.sc then
    if ! blockRowOn a.lanes (b.1 / 32) then ([], 0)
    else
      let k := (b.1 / 32) * (d.cols / 32) + b.2 / 32
      let xs := (List.range 1024).map (fun n => s.drainElem a v (b.1 + n / 32) (b.2 + n % 32))
      let q := quantise d.fmt a.nbv (xs.map (fun x => fmtFP32.value x.1))
      ([(d.payloadAt k, q.1), (d.recordAt k, leBytes 32 q.2.1)], (xs.foldl (fun f x => f ||| x.2) 0) ||| q.2.2)
  else
    let rnd := a.mode.toNat / 4096 % 8
    let rows := (d.rowsOf a.lanes).filter (fun i => b.1 ≤ i && i < b.1 + 32)
    rows.foldl (fun (acc : List (BitVec 64 × List (BitVec 8)) × Flags) i =>
      let cells := (List.range w).map (fun j =>
        let x := s.drainElem a v i (b.2 + j)
        if d.fmt = 12 then (leBytes 4 x.1, x.2)
        else
          let r := convertTo d.fmt (fmtFP32.value x.1) (.mode (if rnd = 5 then 0 else rnd)) (a.mode.getLsbD 15)
          (leBytes d.z r.1, x.2 ||| r.2))
      (acc.1 ++ [(d.rowAt i + BitVec.ofNat 64 (b.2 * d.z), cells.flatMap (·.1))],
        cells.foldl (fun f x => f ||| x.2) acc.2)) ([], 0)

/-- The physical ranges of a block's bytes under the command's translations. -/
def blockCells (v : TView) (ws : List (BitVec 64 × List (BitVec 8))) : List (Spot × List (BitVec 8)) :=
  ws.flatMap (fun p => (pageCuts p.1 p.2.length).map (fun q =>
    (v.spot q.1 q.2, (p.2.drop (q.1 - p.1).toNat).take q.2)))

/-- The rows or the block that a drain touches in one block of its destination (R205, R206). -/
def ACmd.blockPart (a : ACmd) (b : Nat × Nat) : List Nat :=
  let d := tdescOf a.desc
  if d.sc then if blockRowOn a.lanes (b.1 / 32) then [(b.1 / 32) * (d.cols / 32) + b.2 / 32] else []
  else (d.rowsOf a.lanes).filter (fun i => b.1 ≤ i && i < b.1 + 32)

/-- A drain adds to what it finds. -/
def ACmd.adds (a : ACmd) : Bool := a.kind = .drain && a.flags / 8 % 2 = 1

/-- The first sector of a block that its drain reads, or writes in part, and that does not match its check value. -/
def State.blockBad (s : State) (a : ACmd) (v : TView) (part : List Nat) (cells : List (Spot × List (BitVec 8))) : Option Nat :=
  (if a.adds then s.tensorBad v part else none) <|> s.spotWriteBad (cells.map (·.1))

/-- One block of a drain to memory, as one step (R206). -/
def State.drainStep (s : State) (c : Nat) (a : ACmd) (b : Nat × Nat) : State × ACmd × Moved :=
  let d := tdescOf a.desc
  let part := a.blockPart b
  match s.engineWalk c a (d.pages part) with
  | (s, .done) =>
    (match s.rangeCond c a .asyncWrite (d.ranges part) with
    | some m => (s, a, m)
    | none =>
      let v := s.cmdView c a part
      let r := s.drainBlock a v b
      let cells := blockCells v r.1
      let spots := cells.map (·.1)
      let g := (if a.adds then s.accessAll false spots a.part else (s, true))
      let g := if g.2 then g.1.accessAll true spots a.part else g
      if ! g.2 then (g.1, a, .wait)
      else match s.blockBad a v part cells with
        | some q => (g.1, a, .lost q)
        | none =>
          let t := (if a.adds then g.1.chargeAll a.part true spots else g.1).chargeAll a.part false spots
          ((t.homeBlock (enginePort c) a.id (cells.map (fun p => (p.1.a, p.2))) a.part).1,
            { a with done := a.done + 1, flagsOut := a.flagsOut ||| r.2 }, .done))
  | (t, m) => (t, a, m)

/-- The first sector that keeps a drain from having any effect (R390). -/
def State.drainBad (s : State) (c : Nat) (a : ACmd) : Option Nat :=
  if s.bad = [] then none
  else ((tdescOf a.desc).grid.drop a.done).findSome? (fun b =>
    let v := s.cmdView c a (a.blockPart b)
    s.blockBad a v (a.blockPart b) (blockCells v (s.drainBlock a v b).1))

/-- The blocks of a drain still to be written, in order. -/
def State.drainAll (s : State) (c : Nat) (a : ACmd) : List (Nat × Nat) → State × ACmd × Moved
  | [] => (s, a, .done)
  | b :: rest =>
    match s.drainStep c a b with
    | (t, a, .done) => t.drainAll c a rest
    | r => r

/-- A drain into the scratchpad takes effect as it completes (R164). (log 69, DEDUCED) -/
def State.drainSpad (s : State) (c : Nat) (a : ACmd) : State × ACmd :=
  (tdescOf a.desc).grid.foldl (fun (r : State × ACmd) b =>
    let v := r.1.cmdView c r.2 []
    let x := r.1.drainBlock r.2 v b
    (x.1.foldl (fun t p => (t.spadStep c a.crew (fun w => w.spadWrite (v.place p.1) p.2)).count (dieOf c) a.part 3
        (unitsOf (v.place p.1) p.2.length 128).length) r.1,
      { r.2 with flagsOut := r.2.flagsOut ||| x.2 })) (s, a)

/-! ### The engine (R175, R180, R181, R185) -/

/-- Puts a remote command on its way; none while its lane is held off (R371). -/
def State.sendRemote (s : State) (c q : Nat) (a : ACmd) (vl : Nat) (glob : BitVec 64) (len : Nat) (bytes : List (BitVec 8))
    (stage : Nat) : State × ACmd :=
  match s.route (globalNode glob) c q with
  | none => (s, { a with stage := stage, status := 1 })
  | some p =>
    if (s.port p).peerXoff.getLsbD vl then (s, a)
    else
      let m : RemoteOut := { port := p, node := globalNode glob, vl := vl, core := c, queue := q, part := a.part
                             off := globalOff glob, len := len, bytes := bytes }
      ({ s with fabric := { s.fabric with out := s.fabric.out ++ [m] } }, { a with stage := stage, await := true })

/-- The answer to a remote command arrives: data that it brought is written locally before the status (R180).
(log 68, DEDUCED) -/
def ACmd.answered (a : ACmd) (status : Nat) (bytes : List (BitVec 8)) : ACmd :=
  let a := { a with await := false, status := status }
  let result := pairAt a.words 6
  match a.kind with
  | .rget =>
    if status = 0 then
      { a with stage := 5, buf := bytes
               todo := [⟨.buf 0, sideOf (a.flags % 2 = 1) a.words 0, min bytes.length (wordAt a.words 4)⟩] }
    else { a with stage := 2 }
  | .ratom =>
    if status = 0 && result ≠ 0#64 then { a with stage := 5, buf := bytes, todo := [⟨.buf 0, .mem result, bytes.length⟩] }
    else { a with stage := 2 }
  | _ => { a with stage := max a.stage 2 }

/-- What a window of this module answers to a command of its own. (log 68, DEDUCED) -/
def ownAnswer (a : ACmd) (stage : Nat) (r : WinOut) : State × ACmd :=
  match r with
  | (t, none) => (t, a)
  | (t, some (st, bytes)) => (t, ({ a with stage := stage }).answered st bytes)

/-- A command goes on to a global address: through this module's own window, or out by a port; remote commands work from STAGE 3 on
(R180, R380). (log 96, DESIGN CHOICE) -/
def State.goFar (s : State) (glob : BitVec 64) (a : ACmd) (stage : Nat) (own : State → WinOut) (send : State → State × ACmd) : State × ACmd :=
  if ! s.worksFrom 3 then (s, { a with stage := stage, status := 1 })
  else if s.ownNode glob then ownAnswer a stage (own s)
  else send s

/-- The status address of a command; 0 where it has none (R177). -/
def ACmd.statusAddr (a : ACmd) : BitVec 64 :=
  match a.kind with
  | .rput | .rget => pairAt a.words 6
  | .ratom | .wsig => pairAt a.words 8
  | .sigadd => pairAt a.words 4
  | _ => 0#64

/-- What a command writes in memory once its bytes have moved: its status, its result, its signal word (R180, R181). -/
def ACmd.laterCells (a : ACmd) : List (BitVec 64 × Nat) :=
  let near := a.flags / 2 % 2 = 0
  (if a.statusAddr = 0#64 then [] else [(a.statusAddr, 4)]) ++
  (match a.kind with
    | .wsig => if near then [(pairAt a.words 6, 8)] else []
    | .sigadd => if near then [(pairAt a.words 0, 8)] else []
    | .rget => if a.flags % 2 = 0 then [(pairAt a.words 0, wordAt a.words 4)] else []
    | .ratom => if pairAt a.words 6 = 0#64 then [] else [(pairAt a.words 6, elemSize (a.mode.toNat / 256 % 16))]
    | _ => [])

/-- The first sector that keeps such a write from being made, and so the command from having any effect (R390). -/
def State.laterBad (s : State) (c : Nat) (a : ACmd) : Option Nat :=
  if s.bad = [] then none
  else (a.laterCells.flatMap (fun p => pageCuts p.1 p.2)).findSome? (fun q => match s.spotOf c a true (.mem q.1) with
    | .ok x => s.writeBad [(x.at_, q.2)]
    | .error _ => none)

/-- A command whose local bytes are at hand goes on to the other module, or is done moving (R180, R181). -/
def State.launchRemote (s : State) (c q : Nat) (a : ACmd) : State × ACmd :=
  let ws := a.words
  let ty := a.mode.toNat / 256 % 16
  let port := enginePort c
  match a.kind with
  | .rput => s.goFar (pairAt ws 2) a 2 (fun s => s.windowPut port a.id (globalOff (pairAt ws 2)) a.buf a.part)
      (fun s => s.sendRemote c q a 0 (pairAt ws 2) 0 a.buf 2)
  | .wsig =>
    if a.flags / 2 % 2 = 0 || wordAt ws 4 = 0 then (s, { a with stage := 2 })
    else s.goFar (pairAt ws 2) a 2 (fun s => s.windowPut port a.id (globalOff (pairAt ws 2)) a.buf a.part)
      (fun s => s.sendRemote c q a 0 (pairAt ws 2) 0 a.buf 2)
  | .rget => s.goFar (pairAt ws 2) a 2 (fun s => s.windowGet (globalOff (pairAt ws 2)) (wordAt ws 4) a.part)
      (fun s => s.sendRemote c q a 1 (pairAt ws 2) (wordAt ws 4) [] 2)
  | .ratom => s.goFar (pairAt ws 0) a 2
      (fun s => s.windowAtomic port a.id .update (globalOff (pairAt ws 0)) a.flags ty (pairAt ws 2) (pairAt ws 4) a.part)
      (fun s => s.sendRemote c q a 1 (pairAt ws 0) a.flags
        (leBytes 1 ty ++ leBytes 8 (pairAt ws 2).toNat ++ leBytes 8 (pairAt ws 4).toNat) 2)
  | _ => (s, { a with stage := 2 })

/-- An engine's step that did not go through stops its command; a wait leaves it as it is, and an error moves it on to a stage. -/
def State.stopAt (s : State) (c : Nat) (a : ACmd) (m : Moved) (stage : Nat) : State × ACmd :=
  let r := s.stopCommand c a m
  (r.1, if r.2.suspended then r.2 else { r.2 with stage := stage })

/-- The signal add of WSIG and SIGADD (R181), once the payload is performed. -/
def State.signalAdd (s : State) (c q : Nat) (a : ACmd) : State × ACmd :=
  let on : Bool := (a.kind = .wsig || a.kind = .sigadd) && a.status = 0 && a.err.isNone
  let addr := pairAt a.words (if a.kind = .wsig then 6 else 0)
  let inc : BitVec 64 := if a.kind = .wsig then (a.words.getD 5 0#32).setWidth 64 else pairAt a.words 2
  if ! on then (s, { a with stage := 3 })
  else if a.flags / 2 % 2 = 1 then
    if ! s.worksFrom 3 then (s, { a with stage := 3, status := 1 })
    else if s.ownNode addr then
      match s.windowAtomic (enginePort c) a.id .asyncWrite (globalOff addr) 0 6 inc 0#64 a.part with
      | (t, none) => (t, a)
      | (t, some (st, _)) => (t, { a with stage := 3, status := st })
    else s.sendRemote c q a 2 addr 0 (leBytes 8 inc.toNat) 3
  else match s.engineWalk c a [addr] with
    | (s, .done) =>
      (match s.checkAddr c a.part .asyncWrite addr 8 with
      | .error e => s.stopAt c a (condMoved e addr) 3
      | .ok (dpa, x) =>
        let g := s.accessBoth (x.spot dpa 8) a.part
        if ! g.2 then (g.1, a)
        else match g.1.firstBad [(dpa, 8)] with
          | some q => g.1.stopAt c a (.lost q) 3
          | none =>
            (((g.1.charge a.part false (x.spot dpa 8)).homeWrite (enginePort c) a.id dpa (leBytes 8 (g.1.word64 dpa + inc).toNat) a.part).1,
              { a with stage := 3 }))
    | (t, .wait) => (t, a)
    | (t, m) => t.stopAt c a m 3

/-- A command goes on from the stage it has reached, as far as it can. (log 69, DEDUCED) -/
def State.engineGo (s : State) (c q : Nat) (a : ACmd) : State × ACmd :=
  match a.stage with
  | 1 =>
    let tensor := fun (r : State × ACmd × Moved) =>
      if r.2.2 = .done then (r.1, { r.2.1 with stage := 2 })
      else if r.2.2 = .wait then (r.1, r.2.1)
      else r.1.stopAt c r.2.1 r.2.2 2
    match a.kind with
    | .ald => tensor (s.loadTensor c a)
    | .ast | .drain =>
      if (tdescOf a.desc).space = 2 then (s, { a with stage := 2 })
      else match s.drainBad c a with
        | some q => s.stopAt c a (.lost q) 2
        | none => tensor (s.drainAll c a ((tdescOf a.desc).grid.drop a.done))
    | _ =>
      let r := match s.segsBad c a a.todo <|> s.laterBad c a with
        | some q => s.stopCommand c a (.lost q)
        | none => s.moveAll c a (segBound a.todo)
      if r.2.suspended || r.2.todo ≠ [] then r
      else if r.2.status ≠ 0 then (r.1, { r.2 with stage := 2 })
      else r.1.launchRemote c q r.2
  | 5 =>
    let r := s.moveAll c a (segBound a.todo)
    (r.1, if r.2.suspended || r.2.todo ≠ [] then r.2 else { r.2 with stage := 2 })
  | 2 => s.signalAdd c q a
  | 3 =>
    if a.statusAddr = 0#64 then (s, { a with stage := 4 })
    else
      let a := { a with stage := 4, buf := leBytes 4 a.status, todo := [⟨.buf 0, .mem a.statusAddr, 4⟩] }
      s.moveAll c a (segBound a.todo)
  | _ => s.moveAll c a (segBound a.todo)

/-- Commands of a crew that have not started leave their queues, and their counters fall (R238, R393). -/
def State.dropCommands (s : State) (c n : Nat) : State :=
  (s.core c).queues.foldl (fun (s : State) p =>
    let mine := fun (a : ACmd) => a.crew = n && a.part ≠ 64 && a.stage = 0
    let gone := p.2.filter mine
    let left := p.2.filter (fun a => ! mine a)
    let s := s.modCore c (fun x => { x with queues := minsert x.queues p.1 left })
    gone.foldl (fun s a =>
      (s.modCrew c n (fun w => { w with busy := w.busy.filter (fun b => b.2 ≠ a.id) })).modGang c a.slot (fun g =>
        let g := g.finishFlight a.seq (2 + p.1)
        if a.remote then g.finishFlight a.seq 11 else g)) s) s

/-- The head of a queue. -/
def State.headCmd (s : State) (c q : Nat) : Option ACmd := (mget [] (s.core c).queues q).head?

/-- Replaces the head of a queue. -/
def State.setHead (s : State) (c q : Nat) (a : ACmd) : State :=
  s.modCore c (fun x => { x with queues := minsert x.queues q (a :: (mget [] x.queues q).drop 1) })

/-- The line of its crew that gates a queue (R230). -/
def Crew.gateLine (w : Crew) (q : Nat) : Option Nat := (w.events.find? (fun e => e.2.sink = q + 1)).map (·.1)

/-- A command may start (R175, R182, R230). -/
def State.mayStart (s : State) (c q : Nat) (a : ACmd) : Bool :=
  let w := s.crew c a.crew
  s.cleared c a.after &&
  ! (s.core c).queues.any (fun p => p.2.any (fun b => decide (b.id ∈ a.before))) &&
  (match w.gateLine q with
    | some e => 1 ≤ (mget {} w.events e).cnt
    | none => true)

/-- ASYNC_COMMAND_START: the command at the head of its queue starts, or goes on where the host held it.
(log 26, DESIGN CHOICE) -/
def execAsyncCommandStart (s : State) : Out :=
  let c := s.arg.a
  let q := s.arg.b
  match s.headCmd c q with
  | none => .next s
  | some a =>
    if a.suspended || a.await then .next s
    else if a.stage = 1 || a.stage = 5 then
      let r := s.engineGo c q a
      .next (r.1.setHead c q r.2)
    else if a.stage ≠ 0 || ! s.mayStart c q a then .next s
    else
      let s := s.modCrew c a.crew (fun w => match w.gateLine q with
        | some e =>
          let l := mget {} w.events e
          { w with events := minsert w.events e { l with cnt := l.cnt - 1 } }
        | none => w)
      let r := if a.kind = .fence then (s, { a with stage := 4 }) else s.engineGo c q { a with stage := 1, todo := a.segs }
      .next (r.1.setHead c q r.2)

/-- The words of a command's descriptor: those it captured, or its tile descriptor. -/
def ACmd.descriptor (a : ACmd) : List (BitVec 32) :=
  if a.words = [] then (List.range 4).map (fun i => (a.desc >>> (32 * i)).setWidth 32) else a.words

/-- A command is complete (R175, R204, R205): what its completion writes, its flags, counters and pulse, and the trap of an
error it met. -/
def State.endCommand (s : State) (c q : Nat) (a : ACmd) : State :=
  let s := s.modCore c (fun x => { x with queues := minsert x.queues q ((mget [] x.queues q).drop 1) })
  let r := if (a.kind = .drain || a.kind = .ast) && (tdescOf a.desc).space = 2 then s.drainSpad c a else (s, a)
  let a := r.2
  let s := (r.1.spadStep c a.crew (fun w => { w with spad := mputs 0#8 w.spad a.out })).count (dieOf c) a.part 3
    (distinct (a.out.map (fun p => p.1 / 128)))
  let s := s.modCrew c a.crew (fun w =>
    if a.kind = .ald then
      { (a.tile.foldl (fun w p => w.setAcc a.tileNo (p.1 / 128) (p.1 % 128) p.2) w) with
        busy := w.busy.filter (fun p => p.2 ≠ a.id) }
    else w)
  let s := s.pulse c a.crew (2 + q)
  let s := s.modGang c a.slot (fun g =>
    if g.crew = a.crew then
      let g := (g.setFlags a.flagsOut).finishFlight a.seq (2 + q)
      if a.remote then g.finishFlight a.seq 11 else g
    else g)
  let s := s.settleKill c a.crew
  match a.err with
  | none => s
  | some cause => s.reportTrap c a.crew
      { gang := a.slot, cause := cause, info := q, addr := a.errAddr, block := a.block, slot := a.slotNo, desc := a.descriptor }

/-- ASYNC_COMMAND_COMPLETE: once its writes are performed at PACKAGE scope the command adds its signal, then writes its
status, then completes. (log 26, DESIGN CHOICE) -/
def execAsyncCommandComplete (s : State) : Out :=
  let c := s.arg.a
  let q := s.arg.b
  match s.headCmd c q with
  | none => .next s
  | some a =>
    if a.suspended || a.await || ! s.settled (enginePort c) a.id then .next s
    else if a.stage = 2 || a.stage = 3 || (a.stage = 4 && a.todo ≠ []) then
      let r := s.engineGo c q a
      .next (r.1.setHead c q r.2)
    else if a.stage = 4 then .next (s.endCommand c q a)
    else .next s

/-- The suspended command at the head of a queue goes on, once its fault has been serviced (R185). -/
def State.resumeQueue (s : State) (c q : Nat) : State :=
  match s.headCmd c q with
  | none => s
  | some a =>
    if ! a.suspended then s
    else
      let r := s.engineGo c q { a with suspended := false }
      if r.2.suspended then s else r.1.setHead c q r.2

/-- ASYNC_TRAP (R185, R232, R234): a gang learns of an error of a command it posted, in the order in which they came. -/
def execAsyncTrap (s : State) : Out :=
  let c := s.arg.a
  match takeAt (s.core c).asyncQ s.arg.b with
  | none => .next s
  | some (t, rest) =>
    if ((s.core c).asyncQ.take s.arg.b).any (fun x => x.gang = t.gang) then .next s
    else
      let s := s.modCore c (fun x => { x with asyncQ := rest })
      match s.gang? c t.gang with
      | none => .next s
      | some g =>
        let r := { s.trapRecord c t.gang g { cause := t.cause, lane := t.lane, addr := t.addr, info := t.info } true 0#32 with
          desc := t.desc }
        let s := s.modCore c (fun x => { x with trapQ := x.trapQ ++ [r] })
        if t.gang = privSlot then .next (s.enterHandler c)
        else .next (s.modGang c t.gang (fun g => { g with stopped := true }))

/-- The response to the command at the head of a queue (R180, R371). (log 55, DEDUCED) -/
def State.answerCommand (s : State) (c q status : Nat) (bytes : List (BitVec 8)) : State :=
  match s.headCmd c q with
  | none => s
  | some a =>
    if ! a.await then s
    else s.setHead c q (if 3 ≤ a.stage then { a with await := false, status := status }
      else ({ a with await := false }).answered status bytes)

end Sys2Proof.Machine
end

