-- ==== Sys2Proof/Machine/Trellis.lean ====
section
/-! DEFINITION. The Trellis (R20, R210 to R219, R322 to R328): records, their index and image, and the SX instructions. -/

namespace Sys2Proof.Machine

/-! ### Records (R210, R322 to R326) -/

/-- The length classes of the index (R323). -/
def trellisClasses : List Nat := [1, 2, 3, 4, 6, 8, 12, 16, 24, 32, 48, 64]

/-- ⌈log₂ c⌉. -/
def log2Up (c : Nat) : Nat := if c ≤ 1 then 0 else Nat.log2 (c - 1) + 1

/-- The bucket exponent of a capacity (R323). -/
def bucketExp (c : Nat) : Nat := max 4 (log2Up c - 2)

/-- Blocks of index SRAM that a record occupies (R323). -/
def recordBlocks (c : Nat) : Nat := (64 + 4 * c + 192 * 2 ^ bucketExp c + 4095) / 4096

/-- Positions from here on are held. -/
def TRec.lo (r : TRec) : Nat := r.n - min r.n r.cap
def TRec.tok (r : TRec) (e : Nat) : BitVec 32 := mget 0#32 r.hist e

/-- One token of TrellisHash (R324). -/
def hashStep (x : BitVec 64) (t : BitVec 32) : BitVec 64 :=
  let y := (x ^^^ t.setWidth 64) * 0xD3A26B5C1F478E93#64
  y ^^^ (y >>> 29)

/-- TrellisHash (R324). -/
def TRec.hash (r : TRec) (len e : Nat) : Nat :=
  let x := (List.range len).foldl (fun x i => hashStep x (r.tok (e + 1 - len + i)))
    (r.seed ^^^ (BitVec.ofNat 64 len * 0x5BF03635C1E87A2D#64))
  x.toNat / 2 ^ (64 - bucketExp r.cap)

/-- The key of a bucket of a class. -/
def TRec.bucket (r : TRec) (len e : Nat) : Nat := 2 ^ 20 * len + r.hash len e

/-- An occurrence joins its bucket; in a full one it takes the place of the oldest (R325). -/
def bucketAdd (b : List Nat) (e : Nat) : List Nat :=
  if b.length < 4 then b ++ [e]
  else b.filter (fun x => x ≠ (minNat b).getD 0) ++ [e]

/-- The occurrences of the classes up to a length that end at e enter the index (R325). -/
def TRec.insertAt (r : TRec) (most e : Nat) : TRec :=
  (trellisClasses.filter (· ≤ most)).foldl (fun r len =>
    let k := r.bucket len e
    { r with index := minsert r.index k (bucketAdd (mget [] r.index k) e) }) r

/-- One append (R214): whether it succeeds, and the record after it. -/
def TRec.append (r : TRec) (tok pos : BitVec 32) : Bool × TRec :=
  let p := pos.toNat
  if p = r.n ∧ r.n < 2 ^ 32 - 1 then
    let hist := minsert r.hist r.n tok
    let r1 := { r with hist := if r.cap ≤ r.n then merase hist (r.n - r.cap) else hist, n := r.n + 1 }
    (true, r1.insertAt (min (r.n + 1) r.cap) r.n)
  else (p < r.n && r.lo ≤ p && r.tok p = tok, r)

/-- Candidates of a class for the current suffix, verified (R215, R326). -/
def TRec.candidates (r : TRec) (len : Nat) : List Nat :=
  if min r.n r.cap < len then []
  else (mget [] r.index (r.bucket len (r.n - 1))).filter (fun p =>
    decide (p < r.n - 1) && decide (r.lo + len ≤ p + 1) &&
    (List.range len).all (fun i => r.tok (p - i) = r.tok (r.n - 1 - i)))

/-- MLEN, d and the tokens of SXMATCH (R215). -/
def TRec.findMatch (r : TRec) (dreq : Nat) : Nat × Nat × List (BitVec 32) :=
  match trellisClasses.reverse.find? (fun len => r.candidates len ≠ []) with
  | none => (0, 0, [])
  | some len =>
    let p := maxNat (r.candidates len)
    let m := ((List.range 64).takeWhile (fun i => decide (r.lo + i ≤ p) && r.tok (p - i) = r.tok (r.n - 1 - i))).length
    let m := if m < r.minl then 0 else m
    let d := if m = 0 then 0 else min dreq (r.n - p - 1)
    (m, d, (List.range d).map (fun k => r.tok (p + 1 + k)))

/-! ### Images (R327, R328) -/

/-- The canonical image of a record (R327). -/
def TRec.image (r : TRec) : List (BitVec 8) :=
  let t := min r.n r.cap
  let head := leBytes 4 0x4D495853 ++ leBytes 2 1 ++ leBytes 1 r.minl ++ leBytes 1 0 ++ leBytes 4 r.n ++ leBytes 4 r.cap ++
    leBytes 8 r.seed.toNat ++ leBytes 4 r.dtab.toNat ++ leBytes 4 t
  let toks := (List.range t).flatMap (fun i => leBytes 4 (r.tok (r.n - t + i)).toNat)
  head ++ leBytes 4 (crc32c (head ++ toks)).toNat ++ List.replicate 28 0#8 ++ toks

/-- A little-endian field of an image. -/
def fieldAt (bs : List (BitVec 8)) (i n : Nat) : Nat := leNat ((bs.drop i).take n)

/-- The header of an image is acceptable as far as it goes without its CHECK (R328). -/
def headerOk (h : List (BitVec 8)) : Bool :=
  let n := fieldAt h 8 4
  let c := fieldAt h 12 4
  let m := fieldAt h 6 1
  fieldAt h 0 4 = 0x4D495853 && fieldAt h 4 2 = 1 && decide (1 ≤ m ∧ m ≤ 64) && decide (1 ≤ c ∧ c ≤ 2 ^ 20) &&
  fieldAt h 28 4 = min n c && fieldAt h 7 1 = 0 && fieldAt h 36 28 = 0

/-- The record of an accepted image (R328). -/
def recordOf (h toks : List (BitVec 8)) (gen part : Nat) : TRec :=
  let n := fieldAt h 8 4
  let t := fieldAt h 28 4
  let hist : SMap (BitVec 32) := (List.range t).map (fun i => (n - t + i, BitVec.ofNat 32 (fieldAt toks (4 * i) 4)))
  let r : TRec :=
    { gen := gen, part := part, cap := fieldAt h 12 4, minl := fieldAt h 6 1, seed := BitVec.ofNat 64 (fieldAt h 16 8)
      dtab := BitVec.ofNat 32 (fieldAt h 24 4), n := n, hist := hist }
  (List.range t).foldl (fun r i => r.insertAt (i + 1) (n - t + i)) r

/-! ### The Trellis of a die -/

def State.trel (s : State) (d : Nat) : Trel := mget {} s.trels d
def State.setTrel (s : State) (d : Nat) (t : Trel) : State := { s with trels := minsert s.trels d t }

def handleIdx (h : BitVec 32) : Nat := h.toNat % 4096
def handleGen (h : BitVec 32) : Nat := h.toNat / 2 ^ 24

/-- The record of a valid handle (R210): a word with a reserved bit set is none. (log 105, DESIGN CHOICE) -/
def State.record? (s : State) (h : BitVec 32) : Option TRec :=
  if h.toNat / 2 ^ 14 % 2 ^ 10 ≠ 0 || handleGen h = 0 then none
  else (mfind (s.trel (handleDie h)).recs (handleIdx h)).filter (fun r => r.gen = handleGen h)

/-- Replaces the record of a handle. -/
def State.setRecord (s : State) (h : BitVec 32) (r : TRec) : State :=
  let t := s.trel (handleDie h)
  s.setTrel (handleDie h) { t with recs := minsert t.recs (handleIdx h) r }

/-- A record is made at the lowest free index, when the die has an index and enough index SRAM (R323).
(log 30, DESIGN CHOICE) -/
def State.createRecord (s : State) (die : Nat) (r : TRec) : State × BitVec 32 :=
  let t := s.trel die
  let used := (t.recs.map (fun e => recordBlocks e.2.cap)).foldl (· + ·) 0
  match (List.range 4096).find? (fun i => (mfind t.recs i).isNone) with
  | none => (s, 0#32)
  | some i =>
    if 16384 < used + recordBlocks r.cap then (s, 0#32)
    else
      let gen := mget 1 t.gens i
      (s.setTrel die { t with recs := minsert t.recs i { r with gen := gen } }, BitVec.ofNat 32 (2 ^ 24 * gen + 4096 * die + i))

/-- A record closes: its index SRAM is freed and its generation advances (R210, R218). -/
def State.closeRecord (s : State) (h : BitVec 32) : State :=
  match s.record? h with
  | none => s
  | some r =>
    let t := s.trel (handleDie h)
    s.setTrel (handleDie h)
      { recs := merase t.recs (handleIdx h)
        gens := minsert t.gens (handleIdx h) (if r.gen = 255 then 1 else r.gen + 1) }

/-! ### Issue (R211 to R218) -/

/-- A lane's binding is valid (R210). -/
def State.bound (s : State) (x : Lane) : Bool := x.bindValid && (s.record? x.handle).isSome

/-- The trap of R212 over lanes. -/
def State.unbound (s : State) (g : Gang) (ls : List Nat) : Option Trap :=
  (ls.find? (fun l => ! s.bound (g.lane l))).map (fun l => { cause := 0x30, lane := l })

/-- Sends a Trellis operation: its counter rises, with its destinations (R211). -/
def State.sendTrellis (s : State) (g : Gang) (locs : List Loc) (t : TOp) : State :=
  let c := s.cur.core
  let t := { t with
    id := s.nextId, core := c, slot := s.cur.slot, crew := g.crew, part := s.partOf c s.cur.slot, seq := g.seq
    active := maskOf g.active, block := g.block, slotNo := g.slot }
  let s := (s.put (g.raise 10 locs)).bump
  { s with tops := s.tops ++ [t] }

/-- A Trellis operation as its instruction names it. -/
def trellisOp (kind : TKind) (args : List (Nat × BitVec 32 × BitVec 32 × BitVec 32)) : TOp :=
  { id := 0, core := 0, slot := 0, crew := 0, part := 0, seq := 0, kind := kind, args := args }

/-- The issue of a Trellis instruction. -/
def trellisIssue (sig : Gang → Sig) (f : Gang → Except Trap (List Loc × TOp)) (s : State) : Out :=
  issue s sig (fun g =>
    if g.active = [] then .go (s.put g)
    else match f g with
      | .error t => .trap t
      | .ok (locs, t) => if 63 ≤ g.count 10 then .hold else .go (s.sendTrellis g locs t))

/-- The lanes of a gang with their handles and operands. -/
def Gang.trellisArgs (g : Gang) (ls : List Nat) (x y : Nat → BitVec 32) : List (Nat × BitVec 32 × BitVec 32 × BitVec 32) :=
  ls.map (fun l => (l, (g.lane l).handle, x l, y l))

/-- A parameter block that SXOPEN accepts (R213). -/
def paramsOk (ws : List (BitVec 32)) : Bool :=
  let c := wordAt ws 0
  let m := wordAt ws 1
  decide (1 ≤ c ∧ c ≤ 2 ^ 20) && decide (1 ≤ m ∧ m ≤ 64) && wordAt ws 5 = 0

/-- SXOPEN (R213): a record of its own, or bindings to handles. -/
def execSxopen (d : Dst) (a : Src) (b : BitVec 8) (s : State) : Out :=
  let n := match a with
    | .uni n => n
    | _ => 64
  if b = 0#8 then
    trellisIssue
      (fun g => { ok := g.dstOk d && n % 2 = 0 && decide (n + 5 < g.ucount), reads := uniRegs n 6, writes := dstRegs false d })
      (fun g =>
        let ws := (List.range 6).map (fun i => g.u (n + i))
        if ! paramsOk ws then .error { cause := 0x02 }
        else .ok (dstLocs d false g.active,
          { trellisOp .opn (g.trellisArgs g.active (fun _ => 0#32) (fun _ => 0#32)) with words := ws, dest := d })) s
  else
    trellisIssue
      (fun g => { ok := b = 1#8 && g.dstOk d && g.srcOk a && pathOk d [a], reads := srcRegs false a, writes := dstRegs false d })
      (fun g => .ok (dstLocs d false g.active,
        { trellisOp .bind (g.active.map (fun l => (l, g.rd a l, 0#32, 0#32))) with dest := d })) s

/-- SXAPPEND (R214). -/
def execSxappend (d : BitVec 8) (a b : Src) (s : State) : Out :=
  trellisIssue
    (fun g => { ok := predOk d && g.srcOk a && g.srcOk b, reads := srcRegs false a ++ srcRegs false b, writes := [predReg d] })
    (fun g => match s.unbound g g.active with
      | some t => .error t
      | none => .ok (g.active.map (fun l => Loc.p d.toNat l),
          { trellisOp .append (g.trellisArgs g.active (g.rd a) (g.rd b)) with pdst := d.toNat })) s

/-- SXMATCH (R215): it writes every lane position. -/
def execSxmatch (d : Dst) (a : Src) (b : Dst) (s : State) : Out :=
  trellisIssue
    (fun g => { ok := g.dstOk d && dstVec d && g.srcOk a && uniOnly a && g.dstOk b && dstUni b
                reads := srcRegs false a, writes := dstRegs false d ++ dstRegs false b })
    (fun g =>
      let key := g.active.take 1
      match s.unbound g key with
      | some t => .error t
      | none => .ok (dstLocs d false allLanes ++ dstLocs b false [],
          { trellisOp .matchOp (g.trellisArgs key (fun _ => g.rd a 0) (fun _ => 0#32)) with dest := d, dest2 := b })) s

/-- SXSTAT (R216). -/
def execSxstat (d : Dst) (b : BitVec 8) (s : State) : Out :=
  trellisIssue (fun g => { ok := g.dstOk d && b.toNat ≤ 4, writes := dstRegs false d })
    (fun g => match (if b = 0#8 then none else s.unbound g g.active) with
      | some t => .error t
      | none => .ok (dstLocs d false g.active,
          { trellisOp (.stat b.toNat) (g.active.map (fun l =>
              (l, (g.lane l).handle, if (g.lane l).bindValid then 1#32 else 0#32, 0#32))) with dest := d })) s

/-- The address checks of an image (R217). (log 70, DEDUCED) -/
def imageCheck (va : BitVec 64) : List AddrCond := alignCheck va 64 ++ canonCheck va

/-- SXSAVE (R217). -/
def execSxsave (a : Src) (s : State) : Out :=
  trellisIssue (fun g => { ok := g.src64Ok a && uniOnly a, reads := srcRegs true a })
    (fun g =>
      let key := g.active.take 1
      match s.unbound g key, firstCond (imageCheck (g.rd64 a 0)) with
      | some t, _ => .error t
      | none, some t => .error t
      | none, none => .ok ([], { trellisOp .save (g.trellisArgs key (fun _ => 0#32) (fun _ => 0#32)) with addr := g.rd64 a 0 })) s

/-- SXLOAD (R217). (log 70, DEDUCED) -/
def execSxload (d : Dst) (a : Src) (s : State) : Out :=
  trellisIssue (fun g => { ok := g.dstOk d && g.src64Ok a && uniOnly a, reads := srcRegs true a, writes := dstRegs false d })
    (fun g => match firstCond (imageCheck (g.rd64 a 0)) with
      | some t => .error t
      | none => .ok (dstLocs d false g.active,
          { trellisOp .load (g.trellisArgs g.active (fun _ => 0#32) (fun _ => 0#32)) with addr := g.rd64 a 0, dest := d })) s

/-- SXCLOSE (R218). (log 70, DEDUCED) -/
def execSxclose (b : BitVec 8) (s : State) : Out :=
  trellisIssue (fun _ => { ok := b.toNat ≤ 1 })
    (fun g => match (if b = 0#8 then none else s.unbound g g.active) with
      | some t => .error t
      | none => .ok ([], trellisOp (.close b.toNat) (g.trellisArgs g.active (fun _ => 0#32) (fun _ => 0#32)))) s

/-- SXDEPTH (R216). -/
def execSxdepth (d : Dst) (a : Src) (s : State) : Out :=
  trellisIssue
    (fun g => { ok := g.dstOk d && g.srcOk a && pathOk d [a], reads := srcRegs false a, writes := dstRegs false d })
    (fun g => match s.unbound g g.active with
      | some t => .error t
      | none => .ok (dstLocs d false g.active,
          { trellisOp .depth (g.trellisArgs g.active (g.rd a) (fun _ => 0#32)) with dest := d })) s

/-! ### Arrival and completion (R211, R217 to R219) -/

/-- A result in each lane of a list, or once for a uniform destination. -/
def trellisWrites (d : Dst) (vs : List (Nat × BitVec 32)) : List (Loc × BitVec 32) :=
  match d with
  | .vec n => vs.map (fun p => (.v n p.1, p.2))
  | .uni n => (vs.take 1).map (fun p => (.g n, p.2))
  | _ => []

/-- Handles that an operation needs open at its arrival (R218), by lane. -/
def TOp.needs (t : TOp) : List (Nat × BitVec 32) :=
  match t.kind with
  | .append | .matchOp | .depth | .save | .close 1 => t.args.map (fun a => (a.1, a.2.1))
  | .stat k => if k = 0 then [] else t.args.map (fun a => (a.1, a.2.1))
  | _ => []

/-- The appends of an instruction, lane by lane (R214). -/
def State.appendLanes (s : State) (p : Nat) : List (Nat × BitVec 32 × BitVec 32 × BitVec 32) →
    State × List (Loc × BitVec 32)
  | [] => (s, [])
  | (l, h, tok, pos) :: rest =>
    match s.record? h with
    | none => s.appendLanes p rest
    | some r =>
      let x := r.append tok pos
      let y := (s.setRecord h x.2).appendLanes p rest
      (y.1, (.p p l, if x.1 then 1#32 else 0#32) :: y.2)

/-- A field of the record of a handle. -/
def State.recField (s : State) (h : BitVec 32) (f : TRec → BitVec 32) : BitVec 32 := ((s.record? h).map f).getD 0#32

/-- The value of SXSTAT (R216). -/
def State.statOf (s : State) (k : Nat) (a : Nat × BitVec 32 × BitVec 32 × BitVec 32) : BitVec 32 :=
  match k with
  | 0 => if a.2.2.1 = 1#32 && (s.record? a.2.1).isSome then a.2.1 else 0#32
  | 1 => s.recField a.2.1 (fun r => BitVec.ofNat 32 r.n)
  | 2 => s.recField a.2.1 (fun r => BitVec.ofNat 32 r.cap)
  | 3 => s.recField a.2.1 (fun r => BitVec.ofNat 32 r.minl)
  | _ => s.recField a.2.1 (fun r => r.dtab)

/-- Reads a range through a translation root, page by page: its bytes, or why it cannot be read. -/
def State.readRange (s : State) (c part : Nat) (va : BitVec 64) (n : Nat) : State × Except Moved (List (BitVec 8)) :=
  let cuts := pageCuts va n
  match s.walked c part (cuts.map (·.1)) with
  | (t, .wait) => (t, .error .wait)
  | (t, .bad q) => (t, .error (.lost q))
  | (s, .ready) =>
    let spots := cuts.map (fun p => (s.checkAddr c part .asyncRead p.1 1, p))
    match spots.findSome? (fun p => match p.1 with
      | .error e => some (condMoved e p.2.1)
      | .ok _ => none) with
    | some m => (s, .error m)
    | none =>
      let ps := spots.filterMap (fun p => match p.1 with
        | .ok x => some (x.2.spot x.1 p.2.2)
        | .error _ => none)
      match s.readAll part ps with
      | (t, .wait) => (t, .error .wait)
      | (t, .bad q) => (t, .error (.lost q))
      | (t, .ready) => (t, .ok (ps.flatMap (fun p => s.bytes p.a p.n)))

/-- How a transfer's failure leaves the operation (R217, R390). -/
def State.stopTrellis (s : State) (t : TOp) (m : Moved) : State × TOp :=
  match m with
  | .done | .wait => (s, t)
  | .fault => (s.postChore 2 [t.core, t.slot, t.id], { t with suspended := true })
  | .bad cause va => (s, { t with arrived := true, trap := some (cause, 0), trapAddr := va, bytes := [], done := 0 })
  | .lost q => (s.mismatch t.part t.core q, if 64 ≤ t.part then { t with arrived := true, bytes := [], done := 0 }
      else { t with suspended := true })

/-- The first sector that what is left of a saved image writes in part and that does not match its check value: the save has no effect
(R390). -/
def State.imageBad (s : State) (t : TOp) : Option Nat :=
  if s.bad = [] then none
  else (pageCuts (t.addr + BitVec.ofNat 64 t.done) (t.bytes.length - t.done)).findSome? (fun p =>
    match s.checkAddr t.core t.part .asyncWrite p.1 1 with
    | .ok (dpa, _) => s.writeBad [(dpa, p.2)]
    | .error _ => none)

/-- Writes what is left of a saved image, page by page; n bounds the pages. -/
def State.saveGo (s : State) (t : TOp) : Nat → State × TOp
  | 0 => (s, t)
  | n + 1 =>
    if t.bytes.length ≤ t.done then (s, t)
    else
      let va := t.addr + BitVec.ofNat 64 t.done
      let k := min (4096 - va.toNat % 4096) (t.bytes.length - t.done)
      match s.walked t.core t.part [va] with
      | (u, .wait) => (u, t)
      | (u, .bad q) => u.stopTrellis t (.lost q)
      | (s, .ready) =>
        match s.checkAddr t.core t.part .asyncWrite va 1 with
        | .error e => s.stopTrellis t (condMoved e va)
        | .ok (dpa, x) =>
          let g := s.access true (x.spot dpa k) t.part
          if ! g.2 then (g.1, t)
          else (((g.1.charge t.part false (x.spot dpa k)).homeWrite (enginePort t.core) t.id dpa ((t.bytes.drop t.done).take k)
            t.part).1).saveGo { t with done := t.done + k } n

/-- A save goes on, unless a check value forbids it. -/
def State.saveOn (s : State) (t : TOp) : State × TOp :=
  match s.imageBad t with
  | some q => s.stopTrellis t (.lost q)
  | none => s.saveGo t (t.bytes.length + 1)

/-- SXLOAD reads its image and makes its record (R328). -/
def State.loadImage (s : State) (t : TOp) : State × TOp :=
  let none0 := fun (s : State) =>
    (s, { t with arrived := true, writes := trellisWrites t.dest (t.args.map (fun a => (a.1, 0#32))) })
  match s.readRange t.core t.part t.addr 64 with
  | (s, .error m) => s.stopTrellis t m
  | (s, .ok h) =>
    if ! headerOk h then none0 s
    else match s.readRange t.core t.part (t.addr + 64#64) (4 * fieldAt h 28 4) with
      | (s, .error m) => s.stopTrellis t m
      | (s, .ok toks) =>
        if (crc32c (h.take 32 ++ toks)).toNat ≠ fieldAt h 32 4 then none0 s
        else
          let r := s.createRecord (dieOf t.core) (recordOf h toks 0 t.part)
          if r.2 = 0#32 then none0 r.1
          else (r.1, { t with
            arrived := true, writes := trellisWrites t.dest (t.args.map (fun a => (a.1, r.2)))
            binds := t.args.map (fun a => (a.1, r.2, true)) })

/-- An operation takes effect at its Trellis (R211 to R219); the appends of an instruction take a step each, in increasing lane number,
so that what others do there may come between (R219): a record that has been closed by then stops the rest of it (R218). (log 70, DEDUCED) -/
def State.trellisEffect (s : State) (t : TOp) : State × TOp :=
  match (t.needs.drop t.done).find? (fun a => (s.record? a.2).isNone) with
  | some a => (s, { t with arrived := true, trap := some (0x30, a.1) })
  | none =>
    let done := { t with arrived := true }
    match t.kind with
    | .opn =>
      let r := s.createRecord (dieOf t.core)
        { gen := 0, part := t.part, cap := wordAt t.words 0, minl := wordAt t.words 1, seed := pairAt t.words 2
          dtab := t.words.getD 4 0#32 }
      (r.1, { done with
        writes := trellisWrites t.dest (t.args.map (fun a => (a.1, r.2)))
        binds := if r.2 = 0#32 then [] else t.args.map (fun a => (a.1, r.2, true)) })
    | .bind =>
      let vs := t.args.map (fun a =>
        (a.1, if ((s.record? a.2.1).filter (fun r => r.part = t.part)).isSome then a.2.1 else 0#32))
      (s, { done with writes := trellisWrites t.dest vs, binds := vs.map (fun v => (v.1, v.2, v.2 ≠ 0#32)) })
    | .append =>
      let r := s.appendLanes t.pdst ((t.args.drop t.done).take 1)
      (r.1, { t with done := t.done + 1, writes := t.writes ++ r.2, arrived := decide (t.args.length ≤ t.done + 1) })
    | .matchOp =>
      match t.args with
      | (_, h, dreq, _) :: _ =>
        let m := ((s.record? h).map (fun r => r.findMatch (min dreq.toNat 32))).getD (0, 0, [])
        (s, { done with
          writes := trellisWrites t.dest (allLanes.map (fun k => (k, m.2.2.getD k 0xFFFFFFFF#32))) ++
            trellisWrites t.dest2 [(0, BitVec.ofNat 32 (m.1 + 256 * m.2.1))] })
      | [] => (s, done)
    | .stat k => (s, { done with writes := trellisWrites t.dest (t.args.map (fun a => (a.1, s.statOf k a))) })
    | .depth =>
      (s, { done with writes := trellisWrites t.dest (t.args.map (fun a =>
        (a.1, s.recField a.2.1 (fun r => BitVec.ofNat 32 (r.dtab.toNat / 2 ^ (4 * min a.2.2.1.toNat 7) % 16))))) })
    | .save =>
      match t.args with
      | (_, h, _) :: _ =>
        s.saveOn { done with bytes := ((s.record? h).map TRec.image).getD [] }
      | [] => (s, done)
    | .load => s.loadImage t
    | .close k =>
      if k = 0 then (s, { done with binds := t.args.map (fun a => (a.1, a.2.1, false)) })
      else (t.args.foldl (fun s a => s.closeRecord a.2.1) s, done)

/-- Replaces a Trellis operation in flight. -/
def State.setTop (s : State) (t : TOp) : State := { s with tops := s.tops.map (fun x => if x.id = t.id then t else x) }

/-- The operations of a gang arrive in the order of their issue, and those of a core at one die likewise (R219). -/
def State.mayArrive (s : State) (i : Nat) (t : TOp) : Bool :=
  ! t.arrived && ! t.suspended &&
  ! (s.tops.take i).any (fun x => ! x.arrived && x.core = t.core && (x.slot = t.slot || x.dies.any (fun d => decide (d ∈ t.dies))))

/-- TRELLIS_ARRIVAL. -/
def execTrellisArrival (s : State) : Out :=
  match s.tops[s.arg.a]? with
  | none => .next s
  | some t =>
    if s.mayArrive s.arg.a t then
      let r := s.trellisEffect t
      .next (r.1.setTop r.2)
    else .next s

/-- Results, bindings, counter and pulse of an operation that is complete (R211, R213, R229). -/
def State.endTrellis (s : State) (t : TOp) : State :=
  let s : State := { s with tops := s.tops.filter (fun x => x.id ≠ t.id) }
  let s := s.modGang t.core t.slot (fun g =>
    if g.crew ≠ t.crew then g
    else
      let ws : List (Loc × BitVec 128) := if t.trap.isSome then [] else t.writes.map (fun w => (w.1, w.2.setWidth 128))
      let g := (g.arrive t.seq (g.owned t.seq) ws).finishFlight t.seq 10
      if t.trap.isSome then g
      else t.binds.foldl (fun g b => g.modLane b.1 (fun x => { x with handle := b.2.1, bindValid := b.2.2 })) g)
  let s := s.pulse t.core t.crew 10
  match t.trap with
  | none => s
  | some (cause, lane) => s.reportTrap t.core t.crew
      { gang := t.slot, cause := cause, info := 8, lane := lane, addr := t.trapAddr, block := t.block, slot := t.slotNo }

/-- TRELLIS_COMPLETE: a save goes on writing where the host held it, and completes once its writes are performed. -/
def execTrellisComplete (s : State) : Out :=
  match s.tops[s.arg.a]? with
  | none => .next s
  | some t =>
    if ! t.arrived || t.suspended then .next s
    else if t.done < t.bytes.length then
      let r := s.saveOn t
      .next (r.1.setTop r.2)
    else if s.settled (enginePort t.core) t.id then .next (s.endTrellis t)
    else .next s

/-- A suspended image transfer goes on, once its fault has been serviced (R217). -/
def State.resumeTop (s : State) (i : Nat) : State :=
  match s.tops[i]? with
  | none => s
  | some t =>
    if ! t.suspended then s
    else
      let u := { t with suspended := false }
      let r := if t.arrived then s.saveOn u else s.trellisEffect u
      if r.2.suspended then s else r.1.setTop r.2

/-- ENGINE_FAULT_RESUME (R185, R217): queue q of a core, or, from 8 on, operation q − 8 of those in flight at the
Trellises. -/
def execEngineFaultResume (s : State) : Out :=
  if s.arg.b < 8 then .next (s.resumeQueue s.arg.a s.arg.b) else .next (s.resumeTop (s.arg.b - 8))

end Sys2Proof.Machine
end

