-- ==== Sys2Proof/Machine/System.lean ====
section
/-! DEFINITION. The privileged slot: ERET, TLBINV, HALTC, SLOTCFG, and the trap ring (R233, R234, R236 to R242, R357,
R359). -/

namespace Sys2Proof.Machine

/-- Where ERET sends the lanes of its slot: to the target in the lowest active one. (log 73, DEDUCED) -/
def Gang.eretGoals (g : Gang) (a : Src) : List (Nat × Goal) :=
  g.goals (fun _ => regGoal 0#64 (g.rd a (g.active.headD 0)))

/-- The issue of ERET; R90 gives it no fixed latency. -/
def eretSig (s : State) (a : Src) (g : Gang) : Sig :=
  let sg : Sig := { ok := g.srcOk a, reads := srcRegs false a, priv := true
                    seeks := decide (s.cur.slot = privSlot) && decide (srcRegs false a ≠ []) }
  if s.cur.slot = privSlot && decide (g.active ≠ []) && g.srcOk a then sg.toward s (g.eretGoals a) else sg

/-- ERET (R237): the slot leaves the handler state and transfers to the target in its lowest active lane. (log 73, DEDUCED) -/
def execEret (a : Src) (s : State) : Out :=
  issue s (eretSig s a) (fun g =>
    let goals := g.eretGoals a
    if g.active = [] then .go (s.put g)
    else match goalTrap s goals with
      | some t => .trap t
      | none =>
        let h := g.park (goalOf goals)
        .jump ((s.land s.cur.core s.cur.slot (h.frontier g.block g.exm (g.lanesIn .wait) false)).modCore s.cur.core
          (fun x => { x with handler := false })))

/-- Translations of every root that cover an address, or all of them. -/
def dropTlb (all : Bool) (va : Nat) (ts : List Tlb) : List Tlb :=
  if all then [] else ts.filter (fun t => ! (t.va ≤ va && va < t.va + t.size))

/-- A core drops translations and takes up the roots as they stand (R239, R357). -/
def State.flushCore (s : State) (all : Bool) (va c : Nat) : State :=
  s.modCore c (fun x => { x with tlb := dropTlb all va x.tlb, roots := s.lodge.roots })

/-- TLBINV (R239). -/
def execTlbinv (a : Src) (b : BitVec 8) (s : State) : Out :=
  issue s (fun g => { ok := g.src64Ok a && uniOnly a && b.toNat ≤ 3, reads := srcRegs true a, priv := true }) (fun g =>
    let c := s.cur.core
    let va := vaLow (g.rd64 a 0)
    let all := b.toNat % 2 = 1
    if g.active = [] then .go (s.put g)
    else if b.toNat ≤ 1 then .go ((s.put g).flushCore all va c)
    else
      let die := dieOf c
      let t : State := { s.put g with dieTlbs := minsert s.dieTlbs die (dropTlb all va (mget [] s.dieTlbs die)) }
      .go ((List.range 40).foldl (fun t i => t.flushCore all va (40 * die + i)) t))

/-- HALTC with k = 0 (R241): the slot sleeps until its trap line is not zero. -/
def execHaltcWaitTrapLine (s : State) : Out :=
  issue s (fun _ => { ok := true, priv := true }) (fun g =>
    if g.active = [] then .go (s.put g) else s.waitFor g (.trapLine false))
/-- HALTC with k = 1 (R241). -/
def execHaltcHaltCrews (s : State) : Out :=
  issue s (fun _ => { ok := true, priv := true }) (fun g =>
    if g.active = [] then .go (s.put g) else .go ((s.put g).modCore s.cur.core (fun x => { x with halted := true })))
/-- HALTC with k = 2 (R241). -/
def execHaltcResumeCrews (s : State) : Out :=
  issue s (fun _ => { ok := true, priv := true }) (fun g =>
    if g.active = [] then .go (s.put g) else .go ((s.put g).modCore s.cur.core (fun x => { x with halted := false })))

/-! ### SLOTCFG (R238) -/

/-- A SLOTCFG operation on the crew gang in the slot that A names; a slot with none leaves it without effect. -/
def slotOp (a : Src) (f : State → Nat → Nat → Gang → State) (s : State) : Out :=
  issue s (fun g => { ok := g.srcOk a && uniOnly a, reads := srcRegs false a, priv := true }) (fun g =>
    let c := s.cur.core
    let k := (g.rd a 0).toNat
    if g.active = [] || 64 ≤ k then .go (s.put g)
    else match s.gang? c k with
      | none => .go (s.put g)
      | some h => .go (f (s.put g) c k h))

/-- A stopped gang may issue again. -/
def Gang.resumed (g : Gang) : Gang := { g with stopped := false, faultStop := false, opStop := false }

/-- SLOTCFG op 0. -/
def execSlotcfgResume (a : Src) (s : State) : Out :=
  slotOp a (fun s c k h =>
    if ! h.stopped then s
    else if h.faultStop then s.modCore c (fun x => x.modGangsOf h.crew (fun g => if g.faultStop then g.resumed else g))
    else s.modGang c k Gang.resumed) s

/-- SLOTCFG op 1: the recorded instruction has no effect, and the gang goes on after it and its literals, behind its coded gap (R79, R83).
(log 74, DEDUCED) -/
def execSlotcfgSkipResume (a : Src) (s : State) : Out :=
  slotOp a (fun s c k h =>
    if ! h.stopped then s
    else
      let t := s.modGang c k (fun g => { (g.leaveWait s.clock).resumed with resync := g.resync })
      let w := s.wordsNow c k
      t.finish c k w.1 w.2.1 (latencyOf (Sys2Proof.fieldOp w.2.2).toNat)) s

/-- SLOTCFG op 2: the crew is killed. (log 74, DEDUCED) -/
def execSlotcfgKill (a : Src) (s : State) : Out :=
  slotOp a (fun s c _ h =>
    let n := h.crew
    let k := clusterOf c
    let mine := fun (e : MxEntry) => e.core = c && e.crew = n && ! e.running && e.kdone = 0
    let gone := (s.cme k).table.filter mine
    let m := s.cme k
    let s : State := { s.dropCommands c n with cmes := minsert s.cmes k { m with table := m.table.filter (fun e => ! mine e) } }
    let s := gone.foldl (fun (s : State) e => s.modCrew c n (fun w => w.letGo e.id)) s
    let s := s.modCore c (fun x => x.modGangsOf n (fun g => { g with stopped := true }))
    (s.modCrew c n (fun w => { w with killed := true })).settleKill c n) s

/-- SLOTCFG op 3: a base that is not a multiple of 8,192 traps. The ring starts again at its first entry. (log 74, DEDUCED) -/
def execSlotcfgRingBase (a : Src) (s : State) : Out :=
  issue s (fun g => { ok := g.src64Ok a && uniOnly a, reads := srcRegs true a, priv := true }) (fun g =>
    let x := g.rd64 a 0
    if g.active = [] then .go (s.put g)
    else if x.toNat % 8192 ≠ 0 then .trap { cause := 0x02 }
    else
      .go ((s.put g).modCore s.cur.core (fun k => { k with ringBase := x, ringIdx := 0 })))

/-- SLOTCFG op 4. -/
def execSlotcfgTrapVector (a : Src) (s : State) : Out :=
  issue s (fun g => { ok := g.srcOk a && uniOnly a, reads := srcRegs false a, priv := true }) (fun g =>
    let goals := [(0, regGoal 0#64 (g.rd a 0))]
    if g.active = [] then .go (s.put g)
    else match goalTrap s goals with
      | some t => .trap t
      | none => .go ((s.put g).modCore s.cur.core (fun k => { k with trapVec := goalOf goals 0 })))

/-- SLOTCFG op 5: every gang of the crew that is not stopped stops at its pre-emption point. -/
def execSlotcfgStopCrew (a : Src) (s : State) : Out :=
  slotOp a (fun s c _ h => s.modCore c (fun x =>
    x.preempt h.crew s.clock (fun g => ! g.stopped) (fun g => { g with stopped := true, opStop := true }))) s

/-! ### The trap ring (R233, R234) -/

/-- The 32 bytes of a trap record (R233). -/
def TrapRec.bytes (r : TrapRec) (core : Nat) : List (BitVec 8) :=
  leBytes 32 (r.cause + 2 ^ 8 * r.lane + (if r.async then 2 ^ 14 else 0) + (if r.priv then 2 ^ 15 else 0) + 2 ^ 16 * r.slotno +
    2 ^ 24 * r.info + 2 ^ 32 * r.block + 2 ^ 56 * r.slot + 2 ^ 64 * r.addr.toNat + 2 ^ 128 * r.word.toNat +
    2 ^ 160 * r.crew + 2 ^ 192 * core + 2 ^ 200 * (r.part % 64) + 2 ^ 224)

/-- The entry of the trap ring that a core writes next, as the Arbor root translates its address; where the root gives none, the address
is taken as it is. (log 74, DEDUCED) -/
def State.ringSpot (s : State) (c : Nat) : Spot :=
  let x := s.core c
  let va := x.ringBase + BitVec.ofNat 64 (32 * x.ringIdx)
  match s.translate c privSlot va with
  | .ok t => t.spot (t.dpaOf (vaLow va)) 32
  | .error _ => { a := va.toNat, n := 32 }

/-- TRAP_RECORD_WRITE (R234, R242, R382): the core waits while the next entry is still valid. An entry that does not match its check value
is logged, and the record replaces all of it (R390). (log 100, DESIGN CHOICE) -/
def execTrapRecordWrite (s : State) : Out :=
  let c := s.arg.a
  match (s.core c).trapQ with
  | [] => .next s
  | r :: rest =>
    match s.walked c privSlot [(s.core c).ringBase + BitVec.ofNat 64 (32 * (s.core c).ringIdx)] with
    | (t, .wait) => .next t
    | (t, .bad q) => .next (t.mismatch 64 c q)
    | (t, .ready) =>
      let x := t.ringSpot c
      let g := t.accessBoth x
      if ! g.2 then .next g.1
      else if g.1.rangeOk x.a 32 && (g.1.byte (x.a + 28)).getLsbD 0 then .next g.1
      else
        let u := match g.1.spotBad [x] with
          | some q => g.1.mismatch 64 c q
          | none => g.1
        let u := (u.homeWrite (enginePort c) 0 x.a (r.bytes c)).1
        let u := (u.modCore c (fun k => { k with trapQ := rest, ringIdx := (k.ringIdx + 1) % 256 })).trapPulse c
        .next (if r.cause = 0x10 then u.postChore 1 [c, r.slotno] else u)

end Sys2Proof.Machine
end

