-- ==== Sys2Proof/Machine/Admit.lean ====
section
/-! DEFINITION. The resources of a core (R244 to R248): what a crew demands, whether it fits, where its gangs and its
scratchpad go, and what returns when it ends. -/

namespace Sys2Proof.Machine

/-- What a crew demands of a core (R244): the vector count of each slot in crew-position order, the spare slot last;
scratchpad bytes, barriers and tiles. -/
structure Demand where
  vs : List Nat
  sc : Nat
  bars : Nat
  tiles : Nat
deriving DecidableEq, Repr

/-- A sum. -/
def sumNat (xs : List Nat) : Nat := xs.foldl (· + ·) 0

/-- Crew slots that belong to a crew. -/
def Core.taken (x : Core) : List Nat := x.crews.flatMap (fun e => e.2.slots)

/-- The next slot (R246): the scheduler with the most free slots, the lower of equals, and its lowest free slot. -/
def nextSlot (taken : List Nat) : Option Nat :=
  let free := fun (j : Nat) => (List.range 16).filter (fun i => ! decide (16 * j + i ∈ taken))
  let best := [1, 2, 3].foldl (fun (b j : Nat) => if (free b).length < (free j).length then j else b) 0
  (free best).head?.map (fun i => 16 * best + i)

/-- Slots for n gangs, in order (R246). -/
def pickSlots : Nat → List Nat → Option (List Nat)
  | 0, _ => some []
  | n + 1, taken =>
    match nextSlot taken with
    | none => none
    | some k => (pickSlots n (k :: taken)).map (fun ks => k :: ks)

/-- Lane-registers of a core that crews hold (R244). -/
def Core.regsHeld (x : Core) : Nat := sumNat (x.crews.map (fun e => 32 * sumNat e.2.vOf))

/-- The lowest free and cleared range of n scratchpad bytes (R244). -/
def Core.spadFit (x : Core) (n : Nat) : Option Nat :=
  if n = 0 then some 0
  else
    let clear := fun (b : Nat) => b + n ≤ 262144 && x.spads.all (fun p => p.1 + p.2.1 ≤ b || b + n ≤ p.1)
    minNat ((0 :: x.spads.map (fun p => p.1 + p.2.1)).filter clear)

/-- The free barrier slots of a core (R244). -/
def Core.freeBars (x : Core) : List Nat :=
  (List.range 16).filter (fun i => ! x.crews.any (fun e => decide (i ∈ e.2.barSlots)))

/-- Where a demand would go on a core. -/
structure Placing where
  slots : List Nat
  spad : Nat
  bars : List Nat
deriving DecidableEq, Repr

/-- A demand fits in a core's free resources (R244, R245). -/
def Core.fits (x : Core) (d : Demand) : Option Placing :=
  match pickSlots d.vs.length x.taken, x.spadFit d.sc with
  | some ks, some b =>
    if x.regsHeld + 32 * sumNat d.vs ≤ 131072 && d.bars ≤ x.freeBars.length && d.tiles ≤ x.freeTiles then
      some { slots := ks, spad := b, bars := x.freeBars.take d.bars }
    else none
  | _, _ => none

/-- A crew takes its place on a core. -/
def Core.takePlace (x : Core) (n : Nat) (w : Crew) (p : Placing) (gangs : List (Nat × Gang)) : Core :=
  let x := { x with
    slots := gangs.foldl (fun (m : SMap Gang) (g : Nat × Gang) => minsert m g.1 g.2) x.slots
    spads := if w.sc = 0 then x.spads else x.spads ++ [(p.spad, w.sc, true)] }
  x.setCrew n { w with num := n, slots := p.slots, spadBase := p.spad, barSlots := p.bars }

/-- SCRATCHPAD_CLEARED (R247): the cleared range may be admitted again. -/
def execScratchpadCleared (s : State) : Out :=
  .next (s.modCore s.arg.a (fun x => { x with spads := x.spads.filter (fun p => ! (p.1 = s.arg.b && ! p.2.2)) }))

/-- GANG_READY (R248, R355). -/
def execGangReady (s : State) : Out :=
  .next (s.modCore s.arg.a (fun x => x.modGangsOf s.arg.b (fun g => { g with ready := true })))

/-! ### Slots that retire and crews that end (R117, R247) -/

/-- Every counter of a gang is zero, its scoreboard slots are free, and its ARDs have written their registers (R117, R123). -/
def Gang.idle (g : Gang) : Bool := g.flights = [] && g.claims = []

/-- GANG_SLOT_RETIRE (R117, R247): the slot is a free crew slot, and the crew ends with its last one. The privileged slot is never
free: one left with no lane stays as it is. (log 82, DESIGN CHOICE) -/
def execGangSlotRetire (s : State) : Out :=
  let c := s.arg.a
  let k := s.arg.b
  match s.gang? c k with
  | none => .next s
  | some g =>
    if k = privSlot || ! g.retiring || ! g.idle || (s.core c).trapDue k then .next s
    else
      let t := ((s.keepChain c k g).forgetSlot c k).modCore c (fun x => { x with slots := merase x.slots k })
      .next (if t.crewOver c g.crew then t.endCrew c g.crew else t)

/-! ### Fills of regroup bins (R260, R261) -/

/-- The timer of the running fill of a bin. (log 4, DESIGN CHOICE) (log 40, DEDUCED) -/
def Bin.timer (b : Bin) (clock : Nat) : Nat := if b.running = 0 then 0 else b.base + (clock - b.since)

/-- A crew that is being saved: its timers stand still and its fills wait (R356). (log 40, DEDUCED) -/
def Crew.isSaving (w : Crew) : Bool := w.saving.isSome

/-- The running fill of a bin is due (R260). -/
def State.fillDue (s : State) (c n : Nat) (b : Bin) : Bool :=
  let w := s.crew c n
  ! w.isSaving && b.running ≠ 0 &&
  ((w.rgto ≠ 0 && w.rgto ≤ b.timer s.clock) || (s.core c).gangsOf n = [])

/-- BIN_TIMER_EXPIRE (R260). -/
def execBinTimerExpire (s : State) : Out :=
  let c := s.arg.a
  let n := s.arg.b
  match mfind (s.crew c n).bins s.arg.c with
  | none => .next s
  | some b =>
    if ! s.fillDue c n b then .next s
    else .next (s.modCrew c n (fun w => { w with bins := minsert w.bins s.arg.c b.expire }))

/-- The fused gang of a fill (R44, R46, R126). It has arrived at a barrier when one of its lanes carries a mark for the current phase
(R226). -/
def fusedGang (w : Crew) (b : Bin) (xs : List BinLane) : Gang :=
  let ix := (List.range xs.length).zip xs
  let g : Gang := { crew := w.num, role := b.role, vcount := b.vcount, ucount := w.ucount, tcount := w.tcount
                    block := b.block, ready := false }
  let pend : BitVec 16 := xs.foldl (fun m x => m ||| x.lane.marks) 0#16
  let g := { g with
    barPend := pend
    barPhase := (List.range 16).foldl (fun (m : BitVec 16) n =>
      if pend.getLsbD n && (mget {} w.bars n).ph then m ||| (1#16 <<< n) else m) 0#16
    lanes := ix.foldl (fun m p => mput {} m p.1 { p.2.lane with st := .run }) []
    uregs := (xs.head?.map (·.uregs)).getD []
    tdescs := (xs.head?.map (·.tdescs)).getD [] }
  ix.foldl (fun g p =>
    let regs := ((List.range p.2.live.length).zip p.2.live).map (fun r => (Loc.v (w.liveLo + r.1) p.1, r.2.setWidth 128))
    let preds := (List.range 95).map (fun i => (Loc.p (i + 1) p.1, if p.2.preds.getLsbD (i + 1) then 1#128 else 0#128))
    (regs ++ preds).foldl (fun g x => g.store x.1 x.2) g) g

/-- FILL_LAUNCH (R261): the oldest full or expired fill of a bin starts in the lowest free crew slot. -/
def execFillLaunch (s : State) : Out :=
  let c := s.arg.a
  let n := s.arg.b
  let w := s.crew c n
  match mfind w.bins s.arg.c with
  | none => .next s
  | some b =>
    match b.fixed, minNat (w.slots.filter (fun k => (s.gang? c k).isNone)) with
    | size :: more, some k =>
      if w.isSaving then .next s
      else
        let left := { b with lanes := b.lanes.drop size, fixed := more }
        let bins := if left.lanes = [] then merase w.bins s.arg.c else minsert w.bins s.arg.c left
        .next (((s.modCrew c n (fun w => { w with bins := bins })).dropChain c w (w.slots.findIdx (· = k))).setGang c k
          (fusedGang w b (b.lanes.take size)))
    | _, _ => .next s

end Sys2Proof.Machine
end

