-- ==== Sys2Proof/Machine/Context.lean ====
section
/-! DEFINITION. Saving a crew and restoring it: the save area, CTXST and CTXLD (R187, R209, R240, R262, R333, R345 to
R356). -/

namespace Sys2Proof.Machine

/-! ### The layout of an area (R345) -/

/-- The counts that fix an area's layout: the vector counts of its slots, barriers, bins, live registers, matrix entries,
tiles, scratchpad bytes. -/
structure AreaShape where
  vs : List Nat
  bars : Nat
  bins : Nat
  live : Nat
  mx : Nat
  tiles : Nat
  sc : Nat
deriving DecidableEq, Repr

def AreaShape.ovreg (a : AreaShape) : Nat := 256 + 2048 * a.vs.length
def AreaShape.obar (a : AreaShape) : Nat := a.ovreg + 128 * sumNat a.vs
def AreaShape.oevt (a : AreaShape) : Nat := a.obar + 384 * a.bars
def AreaShape.obin (a : AreaShape) : Nat := a.oevt + 64
def AreaShape.binSize (a : AreaShape) : Nat := 64 + 64 * (48 + 4 * a.live)
def AreaShape.omx (a : AreaShape) : Nat := a.obin + a.bins * a.binSize
def AreaShape.oacc (a : AreaShape) : Nat := a.omx + 256 * a.mx
def AreaShape.ospad (a : AreaShape) : Nat := a.oacc + 65536 * a.tiles
def AreaShape.size (a : AreaShape) : Nat := a.ospad + a.sc

/-- The offsets that the header records (R346). -/
def AreaShape.offsets (a : AreaShape) : List Nat := [256, a.ovreg, a.obar, a.oevt, a.obin, a.omx, a.oacc, a.ospad]

/-- Bytes filled up with zeros to a length. -/
def padTo (n : Nat) (bs : List (BitVec 8)) : List (BitVec 8) := (bs ++ List.replicate (n - bs.length) 0#8).take n

/-- The width of a range of registers; empty when its first is above its last (R310). -/
def rangeWidth (lo hi : Nat) : Nat := hi + 1 - lo

/-! ### Writing the sections (R346 to R349) -/

/-- Where a hold stands (R346, R348). -/
def holdCode : HoldAt → Nat
  | .nowhere => 0xFFFF
  | .parked i => 0x8000 + i
  | .leaf c => c

def LaneSt.code : LaneSt → Nat
  | .run => 0
  | .held => 1
  | .wait => 2
  | .gone => 3
  | .empty => 4

/-- A lane's 32 bytes (R348). (log 78, DESIGN CHOICE) -/
def Lane.image (x : Lane) : List (BitVec 8) :=
  leBytes 8 x.wid.toNat ++ leBytes 4 x.rngctr.toNat ++ leBytes 4 x.handle.toNat ++
  leBytes 1 (x.st.code + (if x.bindValid then 8 else 0)) ++
  leBytes 1 (x.nest + (if x.nest ≠ 0 && x.colour then 16 else 0)) ++
  leBytes 2 (if x.nest = 0 then 0xFFFF else holdCode x.holdAt) ++ leBytes 4 x.rsver.toNat ++
  leBytes 4 (if x.st = .wait then x.fblock else 0) ++ leBytes 4 0

/-- ROLE of a slot (R347). -/
def roleWord (role v : Nat) : Nat := role + 256 * (v / 8)

/-- The record of a slot that holds a gang (R347). -/
def Gang.image (g : Gang) (slotno v : Nat) : List (BitVec 8) :=
  let flags := 1 + (if g.resume.isSome then 2 else 0) + (if g.stopped && ! g.opStop then 8 else 0) + (if g.faultStop then 16 else 0)
  let r := g.resume.getD { block := 0, slot := 0, lanes := 0#32 }
  let head := leBytes 4 g.mode.toNat ++ leBytes 4 (maskOf g.exm).toNat ++ leBytes 4 (g.block + 2 ^ 24 * g.slot) ++
    leBytes 4 g.nstat.toNat ++ leBytes 4 g.cychi.toNat ++ leBytes 2 g.fc ++ leBytes 1 g.ec ++ leBytes 1 flags ++
    leBytes 4 (r.block + 2 ^ 24 * r.slot) ++ leBytes 4 r.lanes.toNat ++ leBytes 2 g.barPend.toNat ++ leBytes 2 g.barPhase.toNat ++
    leBytes 4 0 ++ leBytes 4 (roleWord g.role v) ++ leBytes 4 slotno
  let uregs := (List.range g.ucount).flatMap (fun i => leBytes 4 (g.u i).toNat)
  let descs := (List.range 16).flatMap (fun i => leBytes 16 (g.t i).toNat)
  let preds := (List.range 96).flatMap (fun p => leBytes 4 (if p = 0 then 0xFFFFFFFF else (mget 0#32 g.preds p).toNat))
  let lanes := allLanes.flatMap (fun l => (g.lane l).image)
  padTo 2048 (padTo 320 (padTo 64 head ++ uregs) ++ descs ++ preds ++ lanes)

/-- The vector count of a slot of a crew: of the gang that stands in it, or of the slot when it is free or about to be (R263, R345).
(log 38, DESIGN CHOICE) -/
def State.slotV (s : State) (c : Nat) (w : Crew) (i : Nat) : Nat :=
  match s.gang? c (w.slots.getD i 0) with
  | some g => if g.retiring then w.vOf.getD i 8 else g.vcount
  | none => w.vOf.getD i 8

/-- A slot's record: a slot without a gang has its ROLE only (R347). -/
def State.slotImage (s : State) (c : Nat) (w : Crew) (i : Nat) : List (BitVec 8) :=
  let k := w.slots.getD i 0
  let v := s.slotV c w i
  match s.gang? c k with
  | some g => g.image k v
  | none => padTo 2048 (List.replicate 40 0#8 ++ leBytes 4 (roleWord (w.roleOf.getD i 0) v))

/-- The vector registers of a slot (R349). -/
def State.vregImage (s : State) (c : Nat) (w : Crew) (i : Nat) : List (BitVec 8) :=
  let v := s.slotV c w i
  match s.gang? c (w.slots.getD i 0) with
  | some g => (List.range (32 * v)).flatMap (fun j => leBytes 4 (mget 0#32 g.vregs j).toNat)
  | none => List.replicate (128 * v) 0#8

/-- Bits as a number, the first lowest. -/
def bitsNat : List Bool → Nat
  | [] => 0
  | b :: rest => (if b then 1 else 0) + 2 * bitsNat rest

/-- The bins of a crew that hold lanes, in increasing key (R349). -/
def Crew.occupied (w : Crew) : List Bin := (w.bins.map (·.2)).filter (fun b => b.lanes ≠ [])

/-- A barrier's 384 bytes (R349). -/
def State.barImage (s : State) (c : Nat) (w : Crew) (n : Nat) : List (BitVec 8) :=
  let b := mget {} w.bars n
  let arrived := (List.range w.slots.length).flatMap (fun i => match s.gang? c (w.slots.getD i 0) with
    | some g => allLanes.map (fun l => (g.lane l).marks.getLsbD n)
    | none => List.replicate 32 false)
  let inBins := w.occupied.flatMap (fun x =>
    (x.lanes.map (fun y => y.lane.marks.getLsbD n)) ++ List.replicate (64 - x.lanes.length) false)
  padTo 384 (padTo 32 (leBytes 2 b.cnt ++ leBytes 2 b.exp ++ leBytes 1 (if b.ph then 1 else 0)) ++
    leBytes 260 (bitsNat arrived) ++ leBytes 32 (bitsNat inBins))

/-- An event line's 8 bytes (R349). -/
def EvLine.image (e : EvLine) : List (BitVec 8) := leBytes 8 (e.src + 2 ^ 8 * e.sink + 2 ^ 16 * e.cnt)

/-- A bin with its lane entries (R349): the timer of its running fill, which stands at base while the crew is being saved, or of an
expired one that waits with none behind it, at the timeout. (log 38, DESIGN CHOICE) (log 40, DEDUCED) -/
def Bin.image (b : Bin) (live rgto : Nat) : List (BitVec 8) :=
  let full := decide (32 ∈ b.fixed)
  let timer := if b.running ≠ 0 then b.base else if b.fixed ≠ [] && ! full then rgto else 0
  let entry := fun (x : BinLane) => x.lane.image ++ leBytes 16 (x.preds.toNat / 2 * 2) ++
    padTo (4 * live) (x.live.flatMap (fun r => leBytes 4 r.toNat))
  padTo (64 + 64 * (48 + 4 * live)) (padTo 64 (leBytes 4 (b.block + 2 ^ 24 * b.role) ++ leBytes 1 b.lanes.length ++ leBytes 3 0 ++
    leBytes 4 timer ++ leBytes 1 (if full then 1 else 0)) ++ b.lanes.flatMap entry)

/-- A matrix entry's 256 bytes (R349). (log 41, DESIGN CHOICE) -/
def MxEntry.image (e : MxEntry) : List (BitVec 8) :=
  let head := leBytes 4 e.word.toNat ++ leBytes 4 e.fw.toNat ++ padTo 64 (e.descs.flatMap (fun d => leBytes 16 d.toNat)) ++
    leBytes 4 e.kdone ++ leBytes 4 e.flags.toNat ++ leBytes 1 e.place
  padTo 256 (padTo 128 head ++ allLanes.flatMap (fun l => leBytes 4 (mget 0#32 e.idx l).toNat))

/-- The tiles that a crew holds, in increasing index. -/
def Crew.tileList (w : Crew) : List Nat := (List.range 24).filter w.holds

/-- A tile's 65,536 bytes (R349). -/
def Crew.tileImage (w : Crew) (t : Nat) : List (BitVec 8) :=
  (List.range 16384).flatMap (fun i => leBytes 4 (mget 0#32 w.tiles (16384 * t + i)).toNat)

/-- A crew's entries in its cluster's table, in order (R209, R349). -/
def State.entriesOf (s : State) (c n : Nat) : List MxEntry :=
  (s.cme (clusterOf c)).table.filter (fun e => e.core = c && e.crew = n)

/-- The layout of a crew's area as the crew stands. -/
def State.areaShape (s : State) (c n : Nat) : AreaShape :=
  let w := s.crew c n
  { vs := (List.range w.slots.length).map (s.slotV c w), bars := w.nbars, bins := w.occupied.length, live := rangeWidth w.liveLo w.liveHi
    mx := (s.entriesOf c n).length, tiles := w.tileList.length, sc := w.sc }

/-- PARKREF (R346): where the holds that this save moved stand. -/
def State.parkWord (s : State) (c : Nat) (w : Crew) : Nat :=
  let ls := ((s.core c).gangsOf w.num).flatMap (fun e => allLanes.map e.2.lane) ++
    w.occupied.flatMap (fun b => b.lanes.map (·.lane))
  match w.parkRef with
  | some i => 0x8000 + i
  | none => if ls.any (fun x => x.nest ≠ 0 && x.holdAt = HoldAt.leaf c) then c else 0xFFFF

/-- The header (R346), but for MAGIC, which stands as 0 until all else is written (R352). -/
def State.headerImage (s : State) (c : Nat) (w : Crew) (a : AreaShape) : List (BitVec 8) :=
  padTo 256 (leBytes 4 0 ++ leBytes 2 1 ++ leBytes 2 w.slots.length ++ leBytes 8 a.size ++ leBytes 8 w.codeBase.toNat ++
    leBytes 4 w.num ++ leBytes 1 w.part ++ leBytes 1 w.dom ++ leBytes 1 w.modeb ++ leBytes 1 w.nbars ++ leBytes 4 w.sc ++
    leBytes 1 a.tiles ++ leBytes 1 a.bins ++ leBytes 1 a.mx ++ leBytes 1 a.live ++ leBytes 1 w.liveLo ++ leBytes 1 w.liveHi ++
    leBytes 1 (w.ucount / 4) ++ leBytes 1 w.tcount ++ leBytes 4 w.rgto ++ leBytes 8 w.karg.toNat ++ leBytes 8 w.rngk.toNat ++
    leBytes 4 w.held.toNat ++ leBytes 2 (s.parkWord c w) ++ leBytes 2 0 ++ a.offsets.flatMap (leBytes 8))

/-- The whole area, with MAGIC 0. -/
def State.areaImage (s : State) (c n : Nat) : List (BitVec 8) :=
  let w := s.crew c n
  let a := s.areaShape c n
  let ix := List.range w.slots.length
  s.headerImage c w a ++ ix.flatMap (s.slotImage c w) ++ ix.flatMap (s.vregImage c w) ++
  (List.range w.nbars).flatMap (s.barImage c w) ++ (List.range 8).flatMap (fun e => (mget {} w.events e).image) ++
  w.occupied.flatMap (fun b => b.image a.live w.rgto) ++ (s.entriesOf c n).flatMap MxEntry.image ++
  w.tileList.flatMap w.tileImage ++ (List.range w.sc).map w.spadByte

/-! ### CTXST (R350 to R353) -/

def areaMagic : Nat := 0x43524557

/-- The checks of an area of n bytes, and its physical ranges (R350, R354). (log 32, DESIGN CHOICE) -/
def State.areaSpots (s : State) (a : Access) (va : BitVec 64) (n : Nat) : Except Trap (List Spot) :=
  let ps := pageCuts va n
  match s.resolve a 4096 (ps.map (fun p => (0, p.1))) with
  | .error t => .error (if t.cause = 0x14 then { t with cause := 0x11 } else t)
  | .ok refs =>
    if 32 < (s.xlats s.cur.core privSlot (ps.map (·.1))).length then .error { cause := 0x02 }
    else .ok ((refs.zip ps).map (fun p => p.1.tlb.spot p.1.dpa p.2.2))

/-- The first n bytes of some ranges. -/
def clipSpots : List Spot → Nat → List Spot
  | [], _ => []
  | x :: rest, n => if n = 0 then [] else { x with n := min x.n n } :: clipSpots rest (n - min x.n n)

/-- A gang that has stopped at its pre-emption point for a save: its reservations are dropped (R167, R351). -/
def Gang.forSave (g : Gang) : Gang := { (g.modLanes allLanes (fun x => { x with resv := none })) with saving := true }

/-- A save begins: every gang of the crew stops and its timers stand still. -/
def State.beginSave (s : State) (c n : Nat) (v : Saving) : State :=
  (s.modCore c (fun x => x.preempt n s.clock (fun _ => true) Gang.forSave)).modCrew c n (fun w => { w with
    saving := some v, parking := 0, parkRef := none
    bins := w.bins.map (fun (b : Nat × Bin) => (b.1, { b.2 with base := b.2.timer s.clock, since := s.clock })) })

/-- Every lane of a crew on its core, with those in its bins. -/
def State.lanesOf (s : State) (c n : Nat) : List Lane :=
  ((s.core c).gangsOf n).flatMap (fun e => allLanes.map e.2.lane) ++
    ((s.crew c n).bins).flatMap (fun b => b.2.lanes.map (·.lane))

/-- The crew is drained (R352): counters at zero, scoreboard slots free, granted passes and tile operations done, Trellis
operations in effect, its stores performed, and every asynchronous trap of it recorded. -/
def State.drained (s : State) (c n : Nat) : Bool :=
  let w := s.crew c n
  let x := s.core c
  (x.gangsOf n).all (fun e => e.2.flights = [] && e.2.claims = [] && ! e.2.retiring) &&
  x.accs.all (fun a => a.crew ≠ n) && (s.entriesOf c n).all (fun e => ! e.running) &&
  x.queues.all (fun q => q.2.all (fun a => a.crew ≠ n)) && s.tops.all (fun t => ! (t.core = c && t.crew = n)) &&
  x.asyncQ.all (fun t => ! decide (t.gang ∈ w.slots)) &&
  s.ops.all (fun o => ! (o.core = c && decide (o.slot ∈ w.slots)) || o.performedAt 5)

/-- The crew's resources go back to the core, and what its area has no place for is kept (R352). -/
def State.endSave (s : State) (c n : Nat) : State :=
  let w := s.crew c n
  let mx := s.entriesOf c n
  let resyncs := ((List.range w.slots.length).zip w.slots).filterMap (fun p =>
    (s.gang? c p.2).bind (fun g => if g.resync = [] then none else some (p.1, g.resync)))
  let kept : SavedCrew := { crew := { w with tiles := [], spad := [], busy := [], saving := none }, mx := mx, resyncs := resyncs }
  let m := s.cme (clusterOf c)
  let s := s.freeCrew c n
  { s with
    cmes := minsert s.cmes (clusterOf c) { m with table := m.table.filter (fun e => ! (e.core = c && e.crew = n)) }
    pergola := { s.pergola with saved := minsert s.pergola.saved n kept } }

/-- A save goes on as far as it can (R333, R352). (log 39, DEDUCED) -/
def State.saveStep (s : State) (c n : Nat) (v : Saving) : State :=
  let w := s.crew c n
  let here := (s.lanesOf c n).filter (fun x => x.nest ≠ 0 && x.holdAt = HoldAt.leaf c)
  match w.parking with
  | 0 =>
    if ! s.drained c n then s
    else if here = [] then s.modCrew c n (fun w => { w with parking := 2 })
    else
      let n1 := (here.filter (fun x => x.colour)).length
      (s.modCrew c n (fun w => { w with parking := 1 })).sendL (.park c n w.dom w.part (here.length - n1) n1)
  | 1 => s
  | 2 =>
    let body := s.areaImage c n
    let spots := clipSpots v.spots body.length
    let g := s.accessAll true spots
    if ! g.2 then g.1
    else (g.1.homeWrites (enginePort c) v.id spots body).modCrew c n (fun w => { w with parking := 3 })
  | 3 =>
    let spots := clipSpots v.spots 4
    let g := s.accessAll true spots
    if ! s.settled (enginePort c) v.id then s
    else if ! g.2 then g.1
    else (g.1.homeWrites (enginePort c) v.id spots (leBytes 4 areaMagic)).modCrew c n (fun w => { w with parking := 4 })
  | _ => s

/-- An instruction that writes a status word and goes on, before the next one issues (R240). -/
def State.giveNow (s : State) (g : Gang) (d : Dst) (v : BitVec 32) : Res :=
  let ws := (g.results d (fun _ => ([v], 0#32))).1
  .go (s.put ((ws.foldl (fun (g : Gang) w => g.write g.seq w) g).repack (ws.map (fun w => (w.1, g.whole)))))

/-- The crew on a core that is being saved and owns a slot. (log 39, DEDUCED) -/
def Core.savingOf (x : Core) (k : Nat) : Option (Nat × Crew × Saving) :=
  x.crews.findSome? (fun e => if decide (k ∈ e.2.slots) then e.2.saving.map (fun v => (e.1, e.2, v)) else none)

/-- CTXST (R240, R350 to R353): it is issued again until the save is complete. A second CTXST of the crew waits with the first,
and then receives 1; one whose save containment abandons receives 1 (R353). (log 39, DEDUCED) -/
def execCtxst (d : Dst) (a b : Src) (s : State) : Out :=
  issue s
    (fun g => { ok := g.dstOk d && g.src64Ok a && uniOnly a && g.srcOk b && uniOnly b
                reads := srcRegs true a ++ srcRegs false b, writes := dstRegs false d, priv := true })
    (fun g =>
      let c := s.cur.core
      let k := (g.rd b 0).toNat
      if g.active = [] then .go (s.put g)
      else if g.seq ∈ (s.core c).saveLost then
        (s.modCore c (fun x => { x with saveLost := x.saveLost.filter (· ≠ g.seq) })).giveNow g d 1#32
      else match (s.core c).savingOf k with
        | some (n, w, v) =>
          if s.contained w.part then .hold
          else if w.parking = 4 && s.settled (enginePort c) v.id then
            (s.endSave c n).giveNow g d (if v.seq = g.seq then 0#32 else 1#32)
          else .jump (s.saveStep c n v)
        | none =>
          match if k < privSlot then s.gang? c k else none with
          | none => s.giveNow g d 1#32
          | some h =>
            let va := g.rd64 a 0
            let size := (s.areaShape c h.crew).size
            if s.contained (s.crew c h.crew).part then .hold
            else s.withWalks g ((pageCuts va size).map (·.1)) fun s => match s.areaSpots .update va size with
              | .error t => .trap t
              | .ok spots => .jump ((s.beginSave c h.crew { spots := spots, id := s.nextId, seq := g.seq }).bump))

/-! ### Reading the sections (R346 to R349) -/

/-- The header's fields lie within their ranges (R310, R346, R354). (log 43, DEDUCED) -/
def areaHeadOk (h : List (BitVec 8)) : Bool :=
  let f := fieldAt h
  f 0 4 = areaMagic && f 4 2 = 1 && 1 ≤ f 6 2 && f 6 2 ≤ 65 && f 16 8 % 64 = 0 && f 28 1 < 64 && f 29 1 < 16 &&
  f 30 1 / 8 % 16 = 0 && f 31 1 ≤ 16 && f 32 4 % 256 = 0 && f 32 4 ≤ 262144 && f 36 1 ≤ 24 && f 37 1 ≤ 4 && f 38 1 ≤ 32 &&
  f 39 1 = rangeWidth (f 40 1) (f 41 1) && 1 ≤ f 42 1 && f 42 1 ≤ 15 && f 43 1 ≤ 16 && f 64 4 < 2 ^ 24 &&
  ((List.range 24).filter (fun i => f 64 4 / 2 ^ i % 2 = 1)).length = f 36 1

/-- ROLE of the slots of an area. -/
def areaRoles (bs : List (BitVec 8)) : List Nat :=
  (List.range (fieldAt bs 6 2)).map (fun i => fieldAt bs (256 + 2048 * i + 40) 4)

/-- The layout that an area's header and slot records give. -/
def areaShapeOf (bs : List (BitVec 8)) : AreaShape :=
  { vs := (areaRoles bs).map (fun r => 8 * (r / 256 % 32)), bars := fieldAt bs 31 1, bins := fieldAt bs 37 1
    live := fieldAt bs 39 1, mx := fieldAt bs 38 1, tiles := fieldAt bs 36 1, sc := fieldAt bs 32 4 }

/-- The offsets agree with R345, and the slots' vector counts lie in their range. -/
def areaShapeOk (bs : List (BitVec 8)) : Bool :=
  let a := areaShapeOf bs
  fieldAt bs 8 8 = a.size && decide ((List.range 8).map (fun i => fieldAt bs (72 + 8 * i) 8) = a.offsets) &&
  a.vs.all (fun v => 8 ≤ v && v ≤ 192) && (areaRoles bs).all (fun r => r % 256 ≤ 3 && r / 2 ^ 13 = 0) &&
  (a.live = 0 || a.vs.any (fun v => fieldAt bs 41 1 < v))

/-- A code of a hold's place that R346 lists. -/
def holdCodeOk (code : Nat) : Bool := code = 0xFFFF || (0x8000 ≤ code && code < 0x9000) || code < 160

/-- The codes of a lane's 32 bytes are listed (R7, R346, R348). -/
def laneCodesOk (bs : List (BitVec 8)) (i : Nat) : Bool :=
  fieldAt bs (i + 16) 1 % 8 ≤ 4 && (fieldAt bs (i + 17) 1 % 16 = 0 || holdCodeOk (fieldAt bs (i + 18) 2))

/-- A source and a sink of an event line that R229 lists. -/
def eventCodesOk (src sink : Nat) : Bool := (src ≤ 10 || (16 ≤ src && src ≤ 31)) && sink ≤ 8

/-- The codes that an area holds are listed by their tables: MODE and lane states of gangs, lanes of bins, event lines, operations of
matrix entries (R7, R29, R229, R348, R349). (log 43, DEDUCED) -/
def areaCodesOk (bs : List (BitVec 8)) : Bool :=
  let a := areaShapeOf bs
  (List.range a.vs.length).all (fun s =>
    let o := 256 + 2048 * s
    fieldAt bs (o + 23) 1 % 2 = 0 || (modeOk (BitVec.ofNat 32 (fieldAt bs o 4)) && fieldAt bs (o + 11) 1 % 16 ≠ 0 &&
      allLanes.all (fun l => laneCodesOk bs (o + 960 + 32 * l)))) &&
  (List.range 8).all (fun e => eventCodesOk (fieldAt bs (a.oevt + 8 * e) 1) (fieldAt bs (a.oevt + 8 * e + 1) 1)) &&
  (List.range a.bins).all (fun j =>
    let o := a.obin + j * a.binSize
    let n := fieldAt bs (o + 4) 1
    1 ≤ n && n ≤ 64 && (List.range n).all (fun i => laneCodesOk bs (o + 64 + i * (48 + 4 * a.live)))) &&
  (List.range a.mx).all (fun j =>
    let op := fieldAt bs (a.omx + 256 * j + 3) 1
    0xC4 ≤ op && op ≤ 0xC9 && fieldAt bs (a.omx + 256 * j + 80) 1 < a.vs.length)

def laneStOf : Nat → LaneSt
  | 0 => .run
  | 1 => .held
  | 2 => .wait
  | 3 => .gone
  | _ => .empty

def holdOf (code : Nat) : HoldAt :=
  if code = 0xFFFF then .nowhere else if 0x8000 ≤ code then .parked (code % 4096) else .leaf (code % 256)

/-- A lane from its 32 bytes. -/
def laneOf (bs : List (BitVec 8)) (i : Nat) (marks : BitVec 16) : Lane :=
  let f := fun (j n : Nat) => fieldAt bs (i + j) n
  let nest := f 17 1 % 16
  { st := laneStOf (f 16 1 % 8), fblock := f 24 4 % 2 ^ 24, wid := BitVec.ofNat 64 (f 0 8), rngctr := BitVec.ofNat 32 (f 8 4)
    nest := nest, colour := nest ≠ 0 && f 17 1 / 16 % 2 = 1, holdAt := if nest = 0 then .nowhere else holdOf (f 18 2)
    rsver := BitVec.ofNat 32 (f 20 4), handle := BitVec.ofNat 32 (f 12 4), bindValid := f 16 1 / 8 % 2 = 1, marks := marks }

/-- One bit of an area. -/
def bitAt (bs : List (BitVec 8)) (i n : Nat) : Bool := (bs.getD (i + n / 8) 0#8).getLsbD (n % 8)

/-- The barrier marks of a place in the arrived sets: j is its bit, i the byte at which a barrier's bits begin. -/
def marksAt (bs : List (BitVec 8)) (a : AreaShape) (i j : Nat) : BitVec 16 :=
  (List.range a.bars).foldl (fun (m : BitVec 16) n => if bitAt bs (a.obar + 384 * n + i) j then m ||| (1#16 <<< n) else m) 0#16

/-- Words of an area as a map, from a key on. -/
def areaWords (bs : List (BitVec 8)) (i n key : Nat) : List (Nat × BitVec 32) :=
  (List.range n).map (fun j => (key + j, BitVec.ofNat 32 (fieldAt bs (i + 4 * j) 4)))

/-- The gang of a slot record, when it is LIVE (R347). -/
def gangOf (bs : List (BitVec 8)) (i : Nat) : Option Gang :=
  let a := areaShapeOf bs
  let o := 256 + 2048 * i
  let f := fun (j n : Nat) => fieldAt bs (o + j) n
  let v := a.vs.getD i 8
  let flags := f 23 1
  let tcount := fieldAt bs 43 1
  if flags % 2 = 0 then none
  else some
    { crew := fieldAt bs 24 4, role := f 40 4 % 4, vcount := v, ucount := 4 * fieldAt bs 42 1, tcount := tcount
      mode := BitVec.ofNat 32 (f 0 4), block := f 8 4 % 2 ^ 24, slot := f 8 4 / 2 ^ 24 % 16, nstat := BitVec.ofNat 32 (f 12 4)
      cychi := BitVec.ofNat 32 (f 16 4), fc := f 20 2, ec := f 22 1
      resume := if flags / 2 % 2 = 1 then
          some { block := f 24 4 % 2 ^ 24, slot := f 24 4 / 2 ^ 24 % 16, lanes := BitVec.ofNat 32 (f 28 4) } else none
      stopped := flags / 8 % 2 = 1, faultStop := flags / 16 % 2 = 1, ready := false
      barPend := BitVec.ofNat 16 (f 32 2), barPhase := BitVec.ofNat 16 (f 34 2)
      lanes := mputs {} [] (allLanes.map (fun l => (l, laneOf bs (o + 960 + 32 * l) (marksAt bs a 32 (32 * i + l)))))
      vregs := mputs 0#32 [] (areaWords bs (a.ovreg + 128 * sumNat (a.vs.take i)) (32 * v) 0)
      uregs := mputs 0#32 [] (areaWords bs (o + 64) (4 * fieldAt bs 42 1) 0)
      preds := mputs 0#32 [] (areaWords bs (o + 580) 95 1)
      tdescs := mputs 0#128 [] ((List.range tcount).map (fun j => (j, BitVec.ofNat 128 (f (320 + 16 * j) 16)))) }

/-- A bin of an area; kept is the bin as it was saved (R349). (log 38, DESIGN CHOICE) -/
def binOf (bs : List (BitVec 8)) (j clock : Nat) (kept : SMap Bin) : Nat × Bin :=
  let a := areaShapeOf bs
  let o := a.obin + j * a.binSize
  let key := fieldAt bs o 4
  let role := key / 2 ^ 24 % 4
  let block := key % 2 ^ 24
  let old := (mfind kept (binKey block role)).getD { block := block, role := role, vcount := 8 }
  let v := (((areaRoles bs).zip a.vs).find? (fun p => p.1 % 4 = role)).map (·.2)
  let lane := fun (i : Nat) =>
    let p := o + 64 + i * (48 + 4 * a.live)
    let was := old.lanes[i]?
    ({ lane := laneOf bs p (marksAt bs a 292 (64 * j + i)), preds := BitVec.ofNat 96 (fieldAt bs (p + 32) 12 / 2 * 2 + 1)
       live := (List.range a.live).map (fun r => BitVec.ofNat 32 (fieldAt bs (p + 48 + 4 * r) 4))
       uregs := (was.map (·.uregs)).getD [], tdescs := (was.map (·.tdescs)).getD [] } : BinLane)
  let fixed := if old.lanes = [] then (if fieldAt bs (o + 12) 1 % 2 = 1 then [32] else []) else old.fixed
  (binKey block role,
    { block := block, role := role, vcount := v.getD old.vcount, lanes := (List.range (fieldAt bs (o + 4) 1)).map lane
      fixed := fixed, base := fieldAt bs (o + 8) 4, since := clock })

/-- The crew of an area (R346, R349): its grid and regions come from what was kept. -/
def crewOf (bs : List (BitVec 8)) (clock : Nat) (kept : Crew) : Crew :=
  let a := areaShapeOf bs
  let f := fieldAt bs
  let tmask := BitVec.ofNat 24 (f 64 4)
  let ts := (List.range 24).filter (fun i => tmask.getLsbD i)
  { kept with
    num := f 24 4, part := f 28 1, dom := f 29 1, prio := f 30 1 % 8, modeb := f 30 1, codeBase := BitVec.ofNat 64 (f 16 8)
    vcount := a.vs.foldl max 0, ucount := 4 * f 42 1, tcount := f 43 1
    roleOf := (areaRoles bs).map (· % 4), vOf := a.vs, sc := a.sc
    spad := mputs 0#8 [] ((List.range a.sc).map (fun i => (i, bs.getD (a.ospad + i) 0#8)))
    nbars := a.bars
    bars := mputs {} [] ((List.range a.bars).map (fun n =>
      let o := a.obar + 384 * n
      (n, { cnt := f o 2, exp := f (o + 2) 2, ph := f (o + 4) 1 = 1 })))
    held := tmask, busy := []
    tiles := mputs 0#32 [] (((List.range ts.length).zip ts).flatMap (fun p => areaWords bs (a.oacc + 65536 * p.1) 16384 (16384 * p.2)))
    events := mputs {} [] ((List.range 8).map (fun e =>
      let x := f (a.oevt + 8 * e) 8
      (e, { src := x % 256, sink := x / 256 % 256, cnt := x / 65536 % 65536 })))
    bins := (List.range a.bins).foldl (fun (m : SMap Bin) j =>
      let b := binOf bs j clock kept.bins
      minsert m b.1 b.2) []
    rgto := f 44 4, liveLo := f 40 1, liveHi := f 41 1, karg := BitVec.ofNat 64 (f 48 8), rngk := BitVec.ofNat 64 (f 56 8)
    killed := false, parking := 0, parkRef := none, saving := none }

/-- The operation of a matrix instruction's word. -/
def mxKindOf (word : Nat) : MxKind :=
  match word / 2 ^ 24 with
  | 0xC4 => .mma
  | 0xC5 => .mma2
  | 0xC6 => .mmat
  | 0xC7 => .ttrans
  | 0xC8 => .tperm
  | _ => .trsum

/-- Descriptors of an operation. -/
def MxKind.count : MxKind → Nat
  | .mma => 2
  | .mma2 => 4
  | _ => 1

/-- The pages that the operands of the matrix entries of an area lie in. -/
def areaEntryPages (bs : List (BitVec 8)) : List (BitVec 64) :=
  let a := areaShapeOf bs
  (List.range a.mx).flatMap (fun j =>
    let o := a.omx + 256 * j
    (List.range (mxKindOf (fieldAt bs o 4)).count).flatMap (fun i =>
      let d := tdescOf (BitVec.ofNat 128 (fieldAt bs (o + 8 + 16 * i) 16))
      d.pages d.whole))

/-- A saved matrix entry as a new request on its new core (R209, R349, R355); kept is the entry as it was saved.
(log 38, DESIGN CHOICE) (log 41, DESIGN CHOICE) -/
def State.entryAt (s : State) (c id : Nat) (w : Crew) (bs : List (BitVec 8)) (j : Nat) (kept : Option MxEntry) : MxEntry :=
  let o := (areaShapeOf bs).omx + 256 * j
  let f := fun (i n : Nat) => fieldAt bs (o + i) n
  let word := f 0 4
  let kind := mxKindOf word
  let descs := (List.range kind.count).map (fun i => BitVec.ofNat 128 (f (8 + 16 * i) 16))
  let k := match kept with
    | some e => if e.slot = 255 then 255 else w.slots.getD (f 80 1) 255
    | none => w.slots.getD (f 80 1) 255
  let xl := s.xlats c w.part ((descs.map tdescOf).flatMap (fun d => d.pages d.whole))
  { id := id, core := c, slot := k, place := f 80 1, crew := w.num, part := w.part, seq := 0, kind := kind, word := BitVec.ofNat 32 word
    tile := word / 65536 % 256, fw := BitVec.ofNat 32 (f 4 4), descs := descs
    xlat := xl ++ ((kept.map (·.xlat)).getD []), idx := mputs 0#32 [] (areaWords bs (o + 128) 32 0)
    active := match kept with
      | some e => e.active
      | none => match s.gang? c k with
        | some g => maskOf g.exm
        | none => 0#32
    sat := (kept.map (·.sat)).getD false, strict := (kept.map (·.strict)).getD false
    kdone := f 72 4, flags := BitVec.ofNat 32 (f 76 4), prio := w.prio, since := s.clock }

/-- The tiles that an entry names. -/
def MxEntry.named (e : MxEntry) : List Nat :=
  outTiles e.kind e.tile ++ (if e.kind = .mmat then [(fmtWord e.fw).src] else [])

/-- The saved matrix entries join the table of the core's cluster in the order of their slots (R209, R268, R355). (log 42, DEDUCED) -/
def State.joinTable (s : State) (c n : Nat) (bs : List (BitVec 8)) (kept : List MxEntry) : State :=
  let a := areaShapeOf bs
  let slotOf := fun (j : Nat) => (s.crew c n).slots.getD (fieldAt bs (a.omx + 256 * j + 80) 1) 0
  ((List.range privSlot).flatMap (fun k => (List.range a.mx).filter (fun j => slotOf j = k))).foldl (fun (s : State) j =>
    let e := s.entryAt c s.nextId (s.crew c n) bs j kept[j]?
    let m := s.cme (clusterOf c)
    ({ s.bump with cmes := minsert s.cmes (clusterOf c) { m with table := m.table ++ [e] } }).modCrew c n
      (fun w => w.seize e.id e.named)) s

/-- A crew takes its place on a core from its area (R355). (log 38, DESIGN CHOICE) (log 42, DEDUCED) -/
def State.restore (s : State) (c : Nat) (bs : List (BitVec 8)) (p : Placing) : State :=
  let n := fieldAt bs 24 4
  let kept := mfind s.pergola.saved n
  let w := crewOf bs s.clock ((kept.map (·.crew)).getD {})
  let gangs := ((List.range p.slots.length).zip p.slots).filterMap (fun x => (gangOf bs x.1).map (fun g =>
    (x.2, { g with resync := ((kept.bind (fun y => mfind y.resyncs x.1))).getD [] })))
  let s := s.modCore c (fun x => x.takePlace n w p gangs)
  let s : State := { s with pergola := { s.pergola with saved := merase s.pergola.saved n } }
  s.joinTable c n bs ((kept.map (·.mx)).getD [])

/-! ### CTXLD (R354, R355) -/

/-- A crew whose partition is being contained has been restored: the notice goes to its core again, which discards it (R393). -/
def State.renotice (s : State) (c part : Nat) : State := if s.contained part then s.sendL (.contain c part) else s

/-- CTXLD (R240, R354, R355, R393). (log 42, DEDUCED) (log 43, DEDUCED) -/
def execCtxld (d : Dst) (a : Src) (s : State) : Out :=
  issue s
    (fun g => { ok := g.dstOk d && g.src64Ok a && uniOnly a, reads := srcRegs true a, writes := dstRegs false d, priv := true })
    (fun g =>
      let c := s.cur.core
      let va := g.rd64 a 0
      let read := fun (s : State) (n : Nat) (next : State → List Spot → List (BitVec 8) → Res) =>
        s.withWalks g ((pageCuts va n).map (·.1)) fun s => match s.areaSpots .loadHbm va n with
          | .error t => Res.trap t
          | .ok spots =>
            let h := s.accessAll false spots
            if ! h.2 then .ask h.1
            else match s.spotBad spots with
              | some q => .jump ((s.mismatch 64 c q).takeTrap c s.cur.slot { cause := 0x02 })
              | none => next s spots (spots.flatMap (fun p => s.bytes p.a p.n))
      if g.active = [] then .go (s.put g)
      else read s 256 (fun s _ head =>
        if ! areaHeadOk head then .trap { cause := 0x02 }
        else read s (256 + 2048 * fieldAt head 6 2) (fun s _ recs =>
          if ! areaShapeOk recs then .trap { cause := 0x02 }
          else
            let shape := areaShapeOf recs
            read s shape.size (fun s spots bs =>
              let part := fieldAt bs 28 1
              let demand : Demand := { vs := shape.vs, sc := shape.sc, bars := shape.bars, tiles := shape.tiles }
              if ! areaCodesOk bs then .trap { cause := 0x02 }
              else match (s.core c).fits demand with
              | none => (s.servedAll spots).giveNow g d 0xFFFFFFFF#32
              | some p =>
                if 32 < (s.cme (clusterOf c)).table.length + shape.mx then .hold
                else
                  let magic := clipSpots spots 4
                  let h := s.accessAll true magic
                  if ! h.2 then .ask h.1
                  else match h.1.walked c part (areaEntryPages bs) with
                  | (t, .wait) => .ask t
                  | (t, .bad q) => .go ((t.put g).mismatch part c q)
                  | (t, .ready) =>
                    let t := ((t.restore c bs p).renotice c part).servedAll spots
                    (t.homeWrites (enginePort c) 0 magic (leBytes 4 0)).giveNow g d (BitVec.ofNat 32 (p.slots.headD 0))))))

end Sys2Proof.Machine
end

