-- ==== Sys2Proof/Machine/Pergola.lean ====
section
/-! DEFINITION. Software queues, packets, launch headers, grids, offers and budgets (R302 to R315, R319, R321, R337, R338). -/

namespace Sys2Proof.Machine

/-! ### Queues and what a Pergola reads and writes (R302, R303) -/

def State.modPerg (s : State) (f : Pergola → Pergola) : State := { s with pergola := f s.pergola }
def State.queue (s : State) (q : Nat) : Queue := mget {} s.pergola.queues q
def State.setQueue (s : State) (q : Nat) (x : Queue) : State := s.modPerg (fun p => { p with queues := minsert p.queues q x })
def State.modQueue (s : State) (q : Nat) (f : Queue → Queue) : State := s.setQueue q (f (s.queue q))
def State.modRun (s : State) (q id : Nat) (f : PRun → PRun) : State :=
  s.modQueue q (fun x => { x with runs := x.runs.map (fun r => if r.id = id then f r else r) })

/-- The descriptor of a queue (R302). (log 19, DEDUCED) -/
def State.descAt (s : State) (q : Nat) : Nat := s.lodge.qtbase.toNat + 64 * q

/-- Writes part of a queue's descriptor, as writes of a number. -/
def State.descWrite (s : State) (q seq off : Nat) (bs : List (BitVec 8)) : State :=
  s.ownWrite (pergolaPort (s.queue q).die) seq (s.descAt q + off) bs

/-- What a read gives: its bytes, nothing while the host holds it back, a failed translation, or a check value that does
not match. -/
inductive PRead where
  | got (bs : List (BitVec 8))
  | wait
  | fail (e : XlFail)
  | lost
deriving DecidableEq, Repr

/-- The physical ranges behind a range of a partition's addresses (R157, R358). (log 19, DEDUCED) -/
def State.pergSpots (s : State) (part : Nat) (a : Access) (va : BitVec 64) (n : Nat) : Except XlFail (List Spot) :=
  (pageCuts va n).mapM (fun (p : BitVec 64 × Nat) =>
    if ! canonical p.1 then .error .access
    else match s.walk part (mget 0#64 s.lodge.roots part) (vaLow p.1) with
      | .error e => .error e
      | .ok t =>
        let dpa := t.dpaOf (vaLow p.1)
        if (a.writes && ! t.write) || (s.targetCond a dpa).isSome then .error .access else .ok (t.spot dpa p.2))

/-- A read that a Pergola or the Lodge makes for a partition, and in which it meets a mismatch (R390). -/
def State.pergLost (s : State) (part q : Nat) : State := s.mismatch part 0xFFFFFFFF q

/-- Reads physical ranges; a mismatch is charged to a partition (R390). -/
def State.readSpots (s : State) (part : Nat) (spots : List Spot) : State × PRead :=
  match s.readAll 64 spots with
  | (t, .wait) => (t, .wait)
  | (t, .bad q) => (t.pergLost part q, .lost)
  | (t, .ready) => (t, .got (spots.flatMap (fun p => t.bytes p.a p.n)))

/-- The tables behind some ranges of a partition's addresses are read (R288, R359, R365, R389). (log 99, DEDUCED) -/
def State.pergTables (s : State) (part : Nat) (rs : List (BitVec 64 × Nat)) : State × Served :=
  s.readAll 64 (rs.flatMap (fun r => s.rangeTables part r.1 r.2))

/-- Reads a range of a partition's addresses at its homes, as an LDA at PACKAGE scope does. -/
def State.pergRead (s : State) (part : Nat) (va : BitVec 64) (n : Nat) : State × PRead :=
  match s.pergTables part [(va, n)] with
  | (t, .wait) => (t, .wait)
  | (t, .bad q) => (t.pergLost part q, .lost)
  | (t, .ready) => match t.pergSpots part .load va n with
    | .error e => (t, .fail e)
    | .ok spots => match t.readSpots part spots with
      | (u, .wait) => (s.asked u, .wait)
      | r => r

/-- An address that translates to where it may be used. (log 44, DEDUCED) -/
def State.pergOk (s : State) (part : Nat) (a : Access) (va : BitVec 64) (n : Nat) : Bool :=
  match s.pergSpots part a va n with
  | .ok _ => true
  | .error _ => false

/-- A permission error on a range. -/
def State.pergDenied (s : State) (part : Nat) (a : Access) (va : BitVec 64) (n : Nat) : Bool :=
  match s.pergSpots part a va n with
  | .error .access => true
  | _ => false

/-! ### Adds to signal words (R181, R306, R307) -/

/-- An address of a packet that is no local one names another module (R180, R307). (log 46, DEDUCED) -/
def farAddress (va : BitVec 64) : Bool := ! canonical va

/-- How an add of a packet goes: made under a number, held up, or on a page that is not mapped. -/
inductive Added where
  | made (id : Nat) | wait | fault
deriving DecidableEq, Repr

/-- Adds to a word at its home, or sends the add to another module from stage 3 on (R380). It is held up while the host has not
answered, or while the lane to the other module is held off. A word that may not be written, and one of a module that is not
reached, is left as it is. (log 46, DEDUCED) -/
def State.pergAdd (s : State) (q : Nat) (va inc : BitVec 64) : State × Added :=
  let x := s.queue q
  let id := s.nextId
  let port := pergolaPort x.die
  if ! farAddress va then
    match s.pergTables x.part [(va, 8)] with
    | (t, .wait) => (t, .wait)
    | (t, .bad n) => ((t.pergLost x.part n).bump, .made id)
    | (t, .ready) => match t.pergSpots x.part .asyncWrite va 8 with
      | .error .page => (t, .fault)
      | .error .access => (t.bump, .made id)
      | .ok spots =>
        let p := spots.headD { a := 0, n := 0 }
        let g := t.accessBoth p
        if ! g.2 then (s.asked g.1, .wait)
        else match g.1.spotBad [p] with
          | some n => ((g.1.pergLost x.part n).bump, .made id)
          | none => ((g.1.bump.homeWrite port id p.a (leBytes 8 (g.1.word64 p.a + inc).toNat)).1, .made id)
  else if ! s.worksFrom 3 then (s.bump, .made id)
  else if s.ownNode va then
    match s.bump.windowAtomic port id .asyncWrite (globalOff va) 0 6 inc 0#64 with
    | (t, none) => (s.asked t, .wait)
    | (t, some _) => (t, .made id)
  else match s.route (globalNode va) (160 + x.die) q with
    | none => (s.bump, .made id)
    | some p =>
      if (s.port p).peerXoff.getLsbD 2 then (s, .wait)
      else
        let m : RemoteOut := { port := p, node := globalNode va, vl := 2, core := 160 + x.die, queue := id, off := globalOff va
                               bytes := leBytes 8 inc.toNat }
        let t : State := { s.bump with fabric := { s.fabric with out := s.fabric.out ++ [m] } }
        (t.modPerg (fun p => { p with remote := p.remote ++ [{ id := id, queue := q, node := globalNode va }] }), .made id)

/-- An add made under a number is performed. (log 47, DESIGN CHOICE) -/
def State.addDone (s : State) (q id : Nat) : Bool :=
  s.settled (pergolaPort (s.queue q).die) id && s.pergola.remote.all (fun r => r.id ≠ id)

/-- REMOTE_RESPONSE_ARRIVAL (R180, R371): the response to a core's command, or to an add of a die Pergola, which is told
by a core number from 160 on. The event's list holds the port and the flits that the packet took; its flag tells that it came by
way of another module, on lane 6 (R371). (log 94, DEDUCED) -/
def execRemoteResponseArrival (s : State) : Out :=
  let p := s.arg.nats.getD 0 0
  let s := s.setPort p ((s.port p).take (if s.arg.flag then 6 else 3) (s.arg.nats.getD 1 0))
  if 160 ≤ s.arg.a then .next (s.modPerg (fun p => { p with remote := p.remote.filter (fun r => r.id ≠ s.arg.b) }))
  else .next (s.answerCommand s.arg.a s.arg.b s.arg.c s.arg.bytes)

/-! ### Doorbells and hardware slots (R302 to R304) -/

/-- A queue asks for a hardware slot of its die (R304). -/
def State.askSlot (s : State) (q : Nat) : State :=
  let die := (s.queue q).die
  s.modPerg (fun p =>
    let qs := mget [] p.pendq die
    { p with pendq := minsert p.pendq die (if q ∈ qs then qs else qs ++ [q]) })

/-- The buffers a queue is still executing, innermost first. -/
def Queue.open_ (x : Queue) : List Frame := x.frames.dropWhile (fun f => f.count ≤ f.pos)

/-- A queue stops (R303): its descriptor says why, and then the host is told. Runs that drop names are given up, and so is every
INDIRECT whose buffer has packets left; one whose packets have all been dispatched completes.
(log 48, DESIGN CHOICE) -/
def State.stopQueue (s : State) (q st reason : Nat) (spkt : BitVec 64) (rdx : Nat) (drop : PRun → Bool) : State :=
  let id := s.nextId
  let x := s.queue q
  let s := (s.bump.descWrite q id 16 (leBytes 8 rdx)).descWrite q id 32 (leBytes 4 st ++ leBytes 4 reason ++ leBytes 8 spkt.toNat)
  let gone := x.runs.filter (fun r => drop r || x.open_.any (fun f => f.owner = r.id))
  let isGone := fun (n : Nat) => gone.any (fun r => r.id = n)
  let s := s.setQueue q { x with
    state := st, slot := none, rdx := rdx, frames := [], park := none, runs := x.runs.filter (fun r => ! isGone r.id) }
  let s : State := { s with host := { s.host with notices := s.host.notices ++ [(id, x.vec)] } }
  s.modPerg (fun p => { p with
    graphs := p.graphs.filter (fun g => ! (g.2.queue = q && isGone g.2.run))
    grids := p.grids.map (fun (g : Nat × Grid) => if g.2.queue = q && isGone g.2.run then (g.1, { g.2 with total := g.2.next }) else g) })

/-- A queue as its descriptor gives it (R302). -/
def queueOf (d : List (BitVec 8)) : Queue :=
  let f := fieldAt d
  { die := f 10 1 % 4, part := f 11 1, prio := f 9 1, ring := f 0 8, logn := f 8 1, vec := BitVec.ofNat 32 (f 12 4), rdx := f 16 8
    wrx := f 24 8 }

/-- A descriptor is malformed (R302). -/
def descBad (d : List (BitVec 8)) : Bool :=
  let f := fieldAt d
  f 8 1 < 4 || 16 < f 8 1 || f 0 8 % 64 ≠ 0 || 3 < f 10 1 || f 48 16 ≠ 0

/-- A doorbell that has been answered waits no more. -/
def State.unring (s : State) (q : Nat) : State := s.modPerg (fun p => { p with bells := p.bells.filter (· ≠ q) })

/-- A write of a queue's number to DOORBELL (R302 to R304): it waits while the slices or the host hold the descriptor back, and one whose
check fails is read as nothing. (log 44, DEDUCED) -/
def State.doorbell (s : State) (q : Nat) : State :=
  let a := s.descAt q
  let x := s.queue q
  let mapped : Bool := (mfind s.pergola.queues q).isSome && (x.state = 1 || x.state = 2)
  match s.readAll 64 [if mapped then { a := a + 24, n := 8 } else { a := a, n := 64 }] with
  | (t, .wait) => t.modPerg (fun p => { p with bells := joinNew p.bells [q] })
  | (t, .bad n) => (t.mismatch 64 0xFFFFFFFF n).unring q
  | (t, .ready) =>
    let s := t.unring q
    if mapped then s.setQueue q { x with wrx := (s.word64 (a + 24)).toNat }
    else if s.word32 (a + 32) ≠ 0#32 || (mget [] s.pergola.pendq x.die).any (· = q) then s
    else
      let y := { queueOf (s.bytes a 64) with runs := x.runs }
      let s := s.setQueue q y
      if descBad (s.bytes a 64) then s.stopQueue q 4 0x100 0#64 y.rdx (fun _ => false) else s.askSlot q

/-- DOORBELL (R302 to R304, R380). -/
def execDoorbell (s : State) : Out := .next (if s.worksFrom 3 then s.doorbell (s.arg.a % 65536) else s)

/-- The lowest free hardware slot of a die (R304). -/
def State.freeHw (s : State) (die : Nat) : Option Nat :=
  (List.range 128).find? (fun i => ! s.pergola.queues.any (fun e => e.2.die = die && e.2.slot = some i))

/-- The queue that a die maps next: the highest priority, the earliest among equals (R304). -/
def State.nextPending (s : State) (die : Nat) : Option Nat :=
  let qs := mget [] s.pergola.pendq die
  let top := maxNat (qs.map (fun q => (s.queue q).prio))
  qs.find? (fun q => (s.queue q).prio = top)

/-- QUEUE_MAP (R304): a queue whose WRX fails its check is not mapped. (log 44, DEDUCED) Its waiting time counts from now (R314).
(log 45, DESIGN CHOICE) -/
def execQueueMap (s : State) : Out :=
  let die := s.arg.a
  match s.nextPending die, s.freeHw die with
  | some q, some i =>
    let g := s.accessBoth { a := s.descAt q, n := 64 }
    if ! g.2 then .next (s.asked g.1)
    else
      let t := g.1.modPerg (fun p => { p with pendq := minsert p.pendq die ((mget [] p.pendq die).filter (· ≠ q)) })
      match t.firstBad [(t.descAt q + 24, 8)] with
      | some n => .next (t.mismatch 64 0xFFFFFFFF n)
      | none =>
        let t := t.modQueue q (fun x => { x with
          state := 1, slot := some i, wrx := (t.word64 (t.descAt q + 24)).toNat, idleSince := t.clock, lastWin := t.clock })
        .next (t.descWrite q 0 32 (leBytes 4 1))
  | _, _ => .next s

/-- A mapped queue has nothing to do (R304). -/
def State.queueEmpty (s : State) (q : Nat) : Bool :=
  let x := s.queue q
  x.state = 1 && x.wrx ≤ x.rdx && x.runs = [] && x.frames.all (fun f => f.count ≤ f.pos) &&
  ! s.pergola.grids.any (fun g => g.2.queue = q)

/-- QUEUE_UNMAP (R304). -/
def execQueueUnmap (s : State) : Out :=
  let q := s.arg.a
  if ! s.queueEmpty q || s.clock < (s.queue q).idleSince + 65536 then .next s
  else
    let g := s.access true { a := s.descAt q, n := 64 }
    if ! g.2 then .next g.1
    else .next ((g.1.descWrite q 0 32 (leBytes 4 0)).modPerg (fun p => { p with queues := merase p.queues q }))

/-! ### The form of a packet (R305) -/

/-- A field's offset, width and rule. -/
abbrev FieldRule := Nat × Nat × (Nat → Bool)

def mustZero (off n : Nat) : FieldRule := (off, n, fun v => v = 0)
def mustDivide (k off n : Nat) : FieldRule := (off, n, fun v => v % k = 0)

/-- The rules of a packet's bytes 24 to 63. -/
def payloadRules (ty : Nat) : List FieldRule :=
  match ty with
  | 1 => [mustDivide 128 24 8, mustDivide 16 40 8, mustZero 48 16]
  | 2 => [mustDivide 64 24 8, mustZero 40 8, mustZero 48 16]
  | 3 => [mustDivide 8 24 8, mustZero 40 8, mustZero 48 16]
  | 4 => [mustDivide 8 24 8, mustZero 40 8, mustZero 48 16]
  | 5 => [mustZero 48 16]
  | 6 => [mustDivide 64 24 8, (32, 8, fun v => 1 ≤ v && v ≤ 65536), mustZero 40 8, mustZero 48 16]
  | _ => [(24, 1, fun v => 5 ≤ v && v ≤ 7), mustZero 25 7, mustZero 32 8, mustZero 40 8, mustZero 48 16]

/-- The offset of the first field that breaks its rule. -/
def firstBroken (bs : List (BitVec 8)) (rs : List FieldRule) : Option Nat :=
  (rs.find? (fun r => ! r.2.2 (fieldAt bs r.1 r.2.1))).map (·.1)

/-- The first offending field of a packet (R305). -/
def packetBad (p : List (BitVec 8)) : Option Nat :=
  let ty := fieldAt p 0 1
  let barrier : Bool := ty = 1 || ty = 2 || ty = 5
  firstBroken p ([(0, 1, fun v => 1 ≤ v && v ≤ 7),
    (1, 1, fun v => v < 4 && (v % 2 = 0 || barrier) && (v < 2 || ty = 2)), mustZero 2 6, mustDivide 8 8 8] ++ payloadRules ty)

/-- A 64-bit field of a packet, node or header. -/
def addrAt (p : List (BitVec 8)) (i : Nat) : BitVec 64 := BitVec.ofNat 64 (fieldAt p i 8)

/-- The first field of a packet whose address may not be used; it counts as an offending field. A page of a signal word that is not
mapped suspends the add (R185). (log 19, DEDUCED) (log 47, DESIGN CHOICE) -/
def State.packetLost (s : State) (part : Nat) (p : List (BitVec 8)) : Option Nat :=
  let bad := fun (off : Nat) (a : Access) (n : Nat) => ! s.pergOk part a (addrAt p off) n
  let sig := fun (off : Nat) => ! farAddress (addrAt p off) && s.pergDenied part .asyncWrite (addrAt p off) 8
  if addrAt p 8 ≠ 0#64 && sig 8 then some 8
  else match fieldAt p 0 1 with
    | 1 => if bad 24 .load 128 then some 24 else if addrAt p 40 ≠ 0#64 && bad 40 .asyncWrite 16 then some 40 else none
    | 2 => if bad 24 .load 64 then some 24 else none
    | 3 => if bad 24 .load 8 then some 24 else none
    | 4 => if sig 24 then some 24 else none
    | 6 => if bad 24 .load 64 then some 24 else none
    | _ => none

/-! ### The next packet of a queue (R306, R309, R315) -/

/-- The packet that a queue starts next: its bytes with its address. -/
def State.nextPacket (s : State) (q : Nat) : Option (State × PRead × BitVec 64) :=
  let x := s.queue q
  match x.open_ with
  | f :: _ =>
    let va := f.base + BitVec.ofNat 64 (64 * f.pos)
    let r := s.pergRead x.part va 64
    some (r.1, r.2, va)
  | [] =>
    if x.wrx ≤ x.rdx then none
    else
      let a := x.ring + 64 * (x.rdx % 2 ^ x.logn)
      let r := s.readSpots x.part [{ a := a, n := 64 }]
      some (r.1, r.2, BitVec.ofNat 64 a)

/-- The ring position that the next packet belongs to. -/
def Queue.ringPos (x : Queue) : Nat :=
  match x.open_ with
  | f :: _ => ((x.runs.find? (fun r => r.id = f.owner)).map (·.index)).getD x.rdx
  | [] => x.rdx

/-- The packet may start (R306, R315); a GRAPH with PKG set waits while the Lodge holds 64 snapshots (R317). (log 51, DEDUCED) -/
def State.mayStartPacket (s : State) (q : Nat) (p : List (BitVec 8)) : Bool :=
  let x := s.queue q
  let ty := fieldAt p 0 1
  let around := fun (r : PRun) => x.open_.any (fun f => f.owner = r.id)
  let alone : Bool := ty = 3 || ty = 7 || fieldAt p 1 1 % 2 = 1
  let pkg : Bool := ty = 2 && fieldAt p 1 1 / 2 = 1
  x.runs.all (fun r => r.dispatched || r.ty = 6) && (! alone || x.runs.all around) &&
  (! pkg || (s.pergola.graphs.filter (fun g => g.2.pkg)).length < 64) &&
  s.pergola.grids.all (fun g => ! (g.2.queue = q && g.2.tailbuf ≠ 0#64))

/-- A packet starts: its queue moves past it, and it runs (R306). -/
def State.beginPacket (s : State) (q : Nat) (r : PRun) : State :=
  let x := s.queue q
  match x.open_ with
  | f :: rest => s.setQueue q { x with
      frames := { f with pos := f.pos + 1 } :: rest, runs := x.runs ++ [{ r with parent := f.owner }] }
  | [] => (s.setQueue q { x with rdx := x.rdx + 1, frames := [], runs := x.runs ++ [r] }).descWrite q 0 16
      (leBytes 8 (x.rdx + 1))

/-- A queue's oldest grid with a crew to offer, once its TAILBUF has been cleared (R313, R315). (log 107, DESIGN CHOICE) -/
def State.offering (s : State) (q : Nat) : Option Grid :=
  (s.pergola.grids.find? (fun g => g.2.queue = q && decide (g.2.next < g.2.total) &&
    s.settled (pergolaPort (s.queue q).die) g.1)).map (·.2)

/-- The effective priority of a queue (R314). -/
def Queue.rank (x : Queue) (clock : Nat) : Nat := min 7 (x.prio + (clock - x.lastWin) / 65536)

/-- A queue's next packet is ready to start, or to stop it: it has come, and nothing holds it back. -/
def State.packetReady (s : State) (q : Nat) : Bool :=
  (s.queue q).park.isNone && (match s.nextPacket q with
    | some (_, .got p, _) => s.mayStartPacket q p
    | some (_, .fail _, _) => true
    | _ => false)

/-- The queue of the slot that wins an opportunity of a die (R314): of those that have a crew or a packet ready, one of the highest
effective priority, the next after the last winner in slot order. (log 45, DESIGN CHOICE) -/
def State.offerWinner (s : State) (die : Nat) : Option Nat :=
  let qs := (s.pergola.queues.filter (fun e => e.2.state = 1 && e.2.die = die &&
    ((s.offering e.1).isSome || s.packetReady e.1))).map (·.1)
  let top := maxNat (qs.map (fun q => (s.queue q).rank s.clock))
  let last := mget 127 s.pergola.lastSlot die
  let dist := fun (q : Nat) => (((s.queue q).slot.getD 0) + 127 - last) % 128
  let best := qs.filter (fun q => (s.queue q).rank s.clock = top)
  best.find? (fun q => best.all (fun r => dist q ≤ dist r))

/-- The slot of a queue has won an opportunity of its die. -/
def State.won (s : State) (q : Nat) : State :=
  (s.modQueue q (fun x => { x with lastWin := s.clock })).modPerg (fun p =>
    { p with lastSlot := minsert p.lastSlot (s.queue q).die ((s.queue q).slot.getD 0) })

/-- The ranges whose addresses a packet must be able to use as it starts. -/
def packetRanges (p : List (BitVec 8)) : List (BitVec 64 × Nat) :=
  let at_ := fun (off n : Nat) => if addrAt p off = 0#64 || farAddress (addrAt p off) then [] else [(addrAt p off, n)]
  at_ 8 8 ++ (match fieldAt p 0 1 with
    | 1 => at_ 24 128 ++ at_ 40 16
    | 2 => at_ 24 64
    | 3 => at_ 24 8
    | 4 => at_ 24 8
    | 5 => at_ 24 (fieldAt p 40 8) ++ at_ 32 (fieldAt p 40 8)
    | 6 => at_ 24 64
    | _ => [])

/-- The start of a packet of a type, once its slot has won (R314), it may start and its form is right; f answers whether it could start,
or waits for a slice or the host. -/
def packetOp (ty : Nat) (f : State → Nat → Queue → PRun → State × Bool) (s : State) (q : Nat) : State :=
  let x := s.queue q
  if x.state ≠ 1 || x.park.isSome || ! s.worksFrom 3 then s
  else match s.nextPacket q with
    | none => s
    | some (t, .wait, _) => t
    | some (t, .lost, _) => t
    | some (t, .fail _, va) => if s.offerWinner x.die = some q then (t.won q).stopQueue q 4 24 va x.ringPos (fun _ => false) else s
    | some (t, .got p, va) =>
      let kind := fieldAt p 0 1
      if kind ≠ ty && 1 ≤ kind && kind ≤ 7 then s
      else if ! s.mayStartPacket q p || s.offerWinner x.die ≠ some q then s
      else
        let g := t.access true { a := t.descAt q, n := 64 }
        if ! g.2 then s.asked g.1
        else
          let t := g.1.won q
          match packetBad p with
          | some off => t.stopQueue q 4 off va x.ringPos (fun _ => false)
          | none => match t.pergTables x.part (packetRanges p) with
            | (u, .wait) => s.asked u
            | (u, .bad n) => u.pergLost x.part n
            | (u, .ready) => match u.packetLost x.part p with
              | some off => u.stopQueue q 4 off va x.ringPos (fun _ => false)
              | none =>
                let r := f u.bump q x { id := u.nextId, ty := ty, index := x.ringPos, addr := va, bytes := p }
                if r.2 then r.1 else s.asked r.1

/-! ### Launch headers (R310 to R312, R337, R338) -/

def hdrWidth (h : List (BitVec 8)) (i : Nat) : Nat := fieldAt h (16 + i) 1
def hdrExtent (h : List (BitVec 8)) (i : Nat) : Nat := fieldAt h (24 + 4 * i) 4

/-- A product. -/
def prodNat (xs : List Nat) : Nat := xs.foldl (· * ·) 1

/-- Gangs of a crew, and crews of a grid (R311). -/
def hdrGangs (h : List (BitVec 8)) : Nat := prodNat ((List.range (fieldAt h 14 1)).drop 1 |>.map (hdrExtent h))
def hdrCrews (h : List (BitVec 8)) : Nat :=
  prodNat (((List.range (fieldAt h 12 1)).drop (fieldAt h 14 1)).map (hdrExtent h))

/-- The declared roles: code, gangs and vector count (R263, R310). (log 49, DEDUCED) -/
def hdrRoles (h : List (BitVec 8)) : List (Nat × Nat × Nat) :=
  (List.range (fieldAt h 70 1)).map (fun i => (i + 1, fieldAt h (64 + 2 * i) 1, 8 * fieldAt h (65 + 2 * i) 1))

/-- Role and vector count of each slot of a crew, the spare slot last (R244, R263). -/
def hdrSlots (h : List (BitVec 8)) : List (Nat × Nat) :=
  let v := 8 * fieldAt h 48 1
  let roles := hdrRoles h
  let gangs := if roles = [] then List.replicate (hdrGangs h) (0, v) else roles.flatMap (fun r => List.replicate r.2.1 (r.1, r.2.2))
  gangs ++ (if fieldAt h 60 4 = 0 then [] else [(0, v)])

/-- The demand of a crew (R244). -/
def hdrDemand (h : List (BitVec 8)) : Demand :=
  { vs := (hdrSlots h).map (·.2), sc := fieldAt h 52 4, bars := fieldAt h 56 1, tiles := fieldAt h 51 1 }

/-- Every field lies within its legal values (R310). (log 49, DEDUCED) -/
def hdrLegal (h : List (BitVec 8)) : Bool :=
  let f := fieldAt h
  let nf := f 12 1
  f 0 8 % 64 = 0 && f 11 1 = 0 && 1 ≤ nf && nf ≤ 6 && f 13 1 = 1 && 1 ≤ f 14 1 && f 14 1 ≤ nf && f 15 1 / 8 % 16 = 0 &&
  hdrWidth h 0 = 5 && sumNat ((List.range 6).map (hdrWidth h)) ≤ 64 && f 22 2 = 0 && 1 ≤ hdrExtent h 0 && hdrExtent h 0 ≤ 32 &&
  [1, 2, 3, 4, 5].all (fun i =>
    if i < nf then 1 ≤ hdrWidth h i && hdrWidth h i ≤ 59 && 1 ≤ hdrExtent h i &&
      hdrExtent h i ≤ min (2 ^ hdrWidth h i) (2 ^ 32 - 1)
    else hdrWidth h i = 0 && hdrExtent h i = 0) &&
  1 ≤ f 48 1 && f 48 1 ≤ 24 && 1 ≤ f 49 1 && f 49 1 ≤ 15 && f 50 1 ≤ 16 && f 51 1 ≤ 24 && f 52 4 % 256 = 0 &&
  f 52 4 ≤ 262144 && f 56 1 ≤ 16 && f 57 1 < 16 && f 58 1 < 64 && f 59 1 ≤ 8 && f 70 1 ≤ 3 && f 71 1 ≤ 1 && f 78 2 = 0 &&
  (hdrRoles h).all (fun r => 1 ≤ r.2.1 && 8 ≤ r.2.2 && r.2.2 ≤ 192) &&
  (List.range 3).all (fun i => i < f 70 1 || f (64 + 2 * i) 2 = 0) &&
  (List.range 8).all (fun i => i < f 59 1 || f (80 + 2 * i) 2 = 0) && f 96 32 = 0

/-- The regions that a header names (R338). (log 49, DEDUCED) -/
def hdrRegions (h : List (BitVec 8)) : List Nat := (List.range (fieldAt h 59 1)).map (fun i => fieldAt h (80 + 2 * i) 2)

/-- The address of the block at ENTRY. -/
def hdrEntry (h : List (BitVec 8)) : BitVec 64 := addrAt h 0 + BitVec.ofNat 64 (64 * fieldAt h 8 3)

/-- Where the header of the block at ENTRY stands, when the block can be fetched (R75, R312). -/
def State.entrySpot (s : State) (part : Nat) (h : List (BitVec 8)) : Option Spot :=
  let va := hdrEntry h
  if ! canonical va then none
  else match s.walk part (mget 0#64 s.lodge.roots part) (vaLow va) with
    | .error _ => none
    | .ok t =>
      let a := t.dpaOf (vaLow va)
      if t.exec && (targetOf a = .hbm || targetOf a = .host) then some (t.spot a 4) else none

/-- The block at ENTRY can be entered (R74, R312). -/
def State.entryOk (s : State) (part : Nat) (h : List (BitVec 8)) : Bool :=
  (s.entrySpot part h).any (fun x => (s.word32 x.a).getLsbD 30)

def State.part (s : State) (x : Nat) : Part := mget {} s.lodge.parts x

/-- A range of registers is empty or lies below V (R312). -/
def rangeOkBelow (lo hi v : Nat) : Bool := hi < lo || hi < v

/-- The first failing check of a header, by its REASON (R312). -/
def State.refusal (s : State) (q part : Nat) (h : List (BitVec 8)) : Option Nat :=
  let f := fieldAt h
  let v := 8 * f 48 1
  let roles := hdrRoles h
  let checks : List (Nat × Bool) :=
    [(1, hdrLegal h), (2, s.entryOk part h),
     (3, hdrGangs h ≤ 64 && (roles = [] || sumNat (roles.map (·.2.1)) = hdrGangs h)),
     (4, roles = [] || (roles.all (fun r => r.2.2 ≤ v) && roles.any (fun r => r.2.2 = v))),
     (5, rangeOkBelow (f 72 1) (f 73 1) v && rangeOkBelow (f 74 1) (f 75 1) v),
     (6, ((({} : Core).fits (hdrDemand h)).isSome)),
     (7, f 58 1 = part && (s.part part).en),
     (8, f 76 2 = 0xFFFF || f 76 2 = q),
     (9, (hdrRegions h).all (fun r => decide (r < 1024) && (match mfind s.lodge.regions r with
        | some g => decide (g.state = 1 ∧ g.bcnt < 4095)
        | none => false))),
     (10, hdrCrews h ≤ 2 ^ 40)]
  (checks.find? (fun c => ! c.2)).map (·.1)

/-- The distinct elements of a list. -/
def onceEach (xs : List Nat) : List Nat := xs.foldl (fun ys x => if x ∈ ys then ys else ys ++ [x]) []

/-- Regions are bound or released, all together (R338). (log 49, DEDUCED) -/
def State.bind (s : State) (rs : List Nat) (up : Bool) : State :=
  (onceEach rs).foldl (fun (s : State) r => s.modLodge (fun l => match mfind l.regions r with
    | none => l
    | some g => { l with regions := minsert l.regions r { g with bcnt := if up then g.bcnt + 1 else g.bcnt - 1 } })) s

/-- How a launch ends: the grid is in flight, it must wait, something it reads does not match its check value, or its header is refused. -/
inductive Launched where
  | ok | wait | lost | refused (reason : Nat)
deriving DecidableEq, Repr

/-- What the checks of a header read beside it: the tables behind ENTRY and TAILBUF, and then the header of the entry block (R312, R359). -/
def State.hdrReads (s : State) (part : Nat) (h : List (BitVec 8)) (tailbuf : BitVec 64) : State × Served :=
  let tail := if tailbuf = 0#64 then [] else [(tailbuf, 16)]
  match s.pergTables part ((if hdrLegal h then [(hdrEntry h, 4)] else []) ++ tail) with
  | (t, .ready) => if hdrLegal h then t.readAll 64 (t.entrySpot part h).toList else (t, .ready)
  | r => r

/-- A LAUNCH, or a node's or tail's launch, is taken up (R310 to R312, R315, R338): the header is read as one snapshot and
checked, its regions are bound and its TAILBUF is cleared. -/
def State.launch (s : State) (q run : Nat) (node : Option (Nat × Nat)) (hva karg tailbuf : BitVec 64) (parent : Option Nat) :
    State × Launched :=
  let x := s.queue q
  match s.pergRead x.part hva 128 with
  | (t, .wait) => (t, .wait)
  | (t, .lost) => (t, .lost)
  | (t, .fail _) => (t, .refused 1)
  | (t, .got h) => match t.hdrReads x.part h tailbuf with
  | (t, .wait) => (s.asked t, .wait)
  | (t, .bad n) => (t.pergLost x.part n, .lost)
  | (t, .ready) =>
    match t.refusal q x.part h with
    | some r => (t, .refused r)
    | none =>
      match if tailbuf = 0#64 then .ok [] else t.pergSpots x.part .asyncWrite tailbuf 16 with
      | .error _ => (t, .refused 1)
      | .ok spots =>
        let g := t.accessAll true spots
        if ! g.2 then (s.asked g.1, .wait)
        else match g.1.spotWriteBad spots with
          | some n => (g.1.pergLost x.part n, .lost)
          | none =>
            let id := g.1.nextId
            let grid : Grid := { id := id, queue := q, run := run, node := node, hdr := h, karg := karg, tailbuf := tailbuf
                                 total := hdrCrews h, snap := s.mem, parent := parent }
            let u := g.1.bump.homeWrites (pergolaPort x.die) id spots (List.replicate 16 0#8)
            ((u.bind (hdrRegions h) true).modPerg (fun p => { p with grids := minsert p.grids id grid }), .ok)

/-- LAUNCH_PACKET (R306, R310, R312). (log 47, DESIGN CHOICE) -/
def execLaunchPacket (s : State) : Out :=
  .next (packetOp 1 (fun s q x r =>
    match s.launch q r.id none (addrAt r.bytes 24) (addrAt r.bytes 32) (addrAt r.bytes 40) none with
    | (t, .ok) => (t.beginPacket q r, true)
    | (t, .wait) => (t, false)
    | (t, .lost) => (t, true)
    | (t, .refused n) => (t.stopQueue q 5 n r.addr x.ringPos (fun _ => false), true)) s s.arg.a)

/-! ### The other packets (R307 to R309) -/

/-- The word of a WAIT and its threshold, once read (R308). -/
def State.waitMet (s : State) (part : Nat) (x : Spot) (thr : BitVec 64) : State × Bool :=
  match s.readSpots part [x] with
  | (t, .got bs) => (t, thr.toNat ≤ leNat bs)
  | (t, _) => (t, false)

/-- WAIT_PACKET (R308): a WAIT that finds no registration free stays mapped and reads again. -/
def execWaitPacket (s : State) : Out :=
  let q := s.arg.a
  let x := s.queue q
  match x.park with
  | some (word, thr) =>
    if x.state ≠ 1 then .next s
    else
      let r := s.waitMet x.part word thr
      if r.2 then .next (r.1.modQueue q (fun x => { x with
          park := none, runs := x.runs.map (fun r => if r.ty = 3 then { r with finished := true } else r) }))
      else .next r.1
  | none =>
    .next (packetOp 3 (fun s q x r =>
      match s.pergSpots x.part .load (addrAt r.bytes 24) 8 with
      | .error _ => (s, true)
      | .ok spots =>
        let thr := addrAt r.bytes 32
        match s.readSpots x.part spots with
        | (t, .got bs) =>
          if thr.toNat ≤ leNat bs then (t.beginPacket q { r with finished := true }, true)
          else
            let t := (t.beginPacket q r).modQueue q (fun x => { x with park := spots.head?.map (fun p => (p, thr)) })
            if 16384 ≤ t.pergola.signals.length then (t, true)
            else (((t.modQueue q (fun x => { x with state := 2, slot := none })).modPerg (fun p =>
              { p with signals := p.signals ++ [q] })).descWrite q 0 32 (leBytes 4 2), true)
        | (t, .wait) => (t, false)
        | (t, _) => (t, true)) s q)

/-- SIGNAL_UNIT_READ (R308): a registered word is read again; once it stands at the threshold its queue asks for a slot. -/
def execSignalUnitRead (s : State) : Out :=
  match takeAt s.pergola.signals s.arg.a with
  | none => .next s
  | some (q, rest) =>
    match (s.queue q).park with
    | none => .next s
    | some (word, thr) =>
      let r := s.waitMet 64 word thr
      if ! r.2 then .next r.1
      else
        let t := r.1.modPerg (fun p => { p with signals := rest })
        .next ((t.modQueue q (fun x => { x with
          park := none, runs := x.runs.map (fun r => if r.ty = 3 then { r with finished := true } else r) })).askSlot q)

/-- A packet that a page fault has suspended, and for which a chore is posted, once (R185, R307). -/
def State.suspendRun (s : State) (q : Nat) (r : PRun) : State :=
  if r.stage = 1 then s else (s.modRun q r.id (fun y => { y with stage := 1 })).postChore 2 [256, q, r.id]

/-- A started packet of a type that has its effect still to make goes on when the event names it; with 0 the queue's next packet
starts. -/
def packetStep (ty : Nat) (on : State → Nat → PRun → State) (start : State → Nat → State) (s : State) : State :=
  if s.arg.b = 0 then start s s.arg.a
  else match (s.queue s.arg.a).runs.find? (fun r => r.id = s.arg.b && r.ty = ty && r.stage < 2) with
    | some r => on s s.arg.a r
    | none => s

/-- The add of a SIGNAL that has started, as SIGADD makes it (R181, R185, R307). -/
def State.signalOn (s : State) (q : Nat) (r : PRun) : State :=
  match s.pergAdd q (addrAt r.bytes 24) (addrAt r.bytes 32) with
  | (t, .made id) => t.modRun q r.id (fun y => { y with stage := 2, seq := id })
  | (t, .wait) => t
  | (t, .fault) => t.suspendRun q r

/-- SIGNAL_PACKET (R306, R307): it is dispatched once its add is performed. -/
def execSignalPacket (s : State) : Out :=
  .next (packetStep 4 State.signalOn (packetOp 4 (fun s q _ r => ((s.beginPacket q r).signalOn q r, true))) s)

/-- The addresses of the bytes of some ranges. -/
def spotBytes (ps : List Spot) : List Nat := ps.flatMap (fun p => (List.range p.n).map (fun i => p.a + i))

/-- What a copy leaves: each byte in turn, from what stands at its source by then (R178). -/
def State.copied (s : State) (src dst : List Nat) : List (BitVec 8) :=
  ((src.zip dst).foldl (fun (r : SMap (BitVec 8) × List (BitVec 8)) p =>
    let b := (mfind r.1 p.1).getD (s.byte p.1)
    (minsert r.1 p.2 b, b :: r.2)) ([], [])).2.reverse

/-- How a copy of a Pergola's engine goes (R307): made, held up, on a page that is not mapped, or not permitted; one that meets a mismatch
is held up until its queue stops. -/
inductive Copied where
  | made | wait | fault | denied
deriving DecidableEq, Repr

/-- Copies bytes as ACPY does, as writes of a number (R178, R307). (log 47, DESIGN CHOICE) -/
def State.pergCopy (s : State) (q seq : Nat) (src dst : BitVec 64) (n : Nat) : State × Copied :=
  let x := s.queue q
  match s.pergTables x.part [(src, n), (dst, n)] with
  | (t, .wait) => (t, .wait)
  | (t, .bad n) => (t.pergLost x.part n, .wait)
  | (t, .ready) => match t.pergSpots x.part .asyncRead src n, t.pergSpots x.part .asyncWrite dst n with
    | .error .access, _ => (t, .denied)
    | _, .error .access => (t, .denied)
    | .error .page, _ => (t, .fault)
    | _, .error .page => (t, .fault)
    | .ok a, .ok b =>
      match t.readSpots x.part a with
      | (u, .got _) =>
        let g := u.accessAll true b
        if ! g.2 then (s.asked g.1, .wait)
        else match g.1.spotWriteBad b with
          | some n => (g.1.pergLost x.part n, .wait)
          | none => (g.1.homeWrites (pergolaPort x.die) seq b (g.1.copied (spotBytes a) (spotBytes b)), .made)
      | (u, .wait) => (s.asked u, .wait)
      | (u, _) => (u, .wait)

/-- A copy that has started goes on: a page that is not mapped suspends it and posts a fault chore, once (R185, R307). -/
def State.copyOn (s : State) (q : Nat) (r : PRun) : State :=
  match s.pergCopy q r.seq (addrAt r.bytes 24) (addrAt r.bytes 32) (fieldAt r.bytes 40 8) with
  | (t, .made) => t.modRun q r.id (fun y => { y with stage := 2 })
  | (t, .wait) => t
  | (t, .fault) => t.suspendRun q r
  | (t, .denied) => t.stopQueue q 4 0x200 r.addr r.index (fun y => y.id = r.id)

/-- COPY_PACKET (R306, R307): a COPY is dispatched as it starts. -/
def execCopyPacket (s : State) : Out :=
  .next (packetStep 5 State.copyOn (packetOp 5 (fun s q x r =>
    let n := fieldAt r.bytes 40 8
    if s.pergDenied x.part .asyncRead (addrAt r.bytes 24) n || s.pergDenied x.part .asyncWrite (addrAt r.bytes 32) n then
      (s.stopQueue q 4 0x200 r.addr x.ringPos (fun _ => false), true)
    else
      let r := { r with seq := r.id, dispatched := true }
      ((s.beginPacket q r).copyOn q r, true))) s)

/-- INDIRECT_PACKET (R309): one at level 4 stops the queue. -/
def execIndirectPacket (s : State) : Out :=
  .next (packetOp 6 (fun s q x r =>
    if 4 ≤ x.open_.length then (s.stopQueue q 3 0 r.addr x.ringPos (fun _ => false), true)
    else ((s.beginPacket q r).modQueue q (fun y => { y with
      frames := { base := addrAt r.bytes 24, pos := 0, count := fieldAt r.bytes 32 8, owner := r.id } :: y.frames }), true)) s s.arg.a)

/-- FENCE_PACKET (R306, R307). -/
def execFencePacket (s : State) : Out := .next (packetOp 7 (fun s q _ r => (s.beginPacket q r, true)) s s.arg.a)

/-! ### Completion (R306) -/

/-- A packet that has started is complete, but for its DONE word (R306, R307). (log 91, DEDUCED) -/
def State.packetOver (s : State) (q : Nat) (r : PRun) : Bool :=
  let x := s.queue q
  match r.ty with
  | 2 => s.pergola.graphs.any (fun g => g.2.queue = q && g.2.run = r.id && g.2.parent.isNone &&
      g.2.st.all (fun n => decide (n = .complete)))
  | 4 => r.stage = 2 && s.addDone q r.seq
  | 5 => r.stage = 2 && s.settled (pergolaPort x.die) r.seq
  | 6 => x.open_.all (fun f => f.owner ≠ r.id) && x.runs.all (fun y => y.parent ≠ r.id)
  | 7 => x.adds.all (s.settled (pergolaPort x.die)) && (match fieldAt r.bytes 24 1 with
    | 6 => s.pergola.remote.all (fun y => y.queue ≠ q)
    | 7 => s.host.posted = []
    | _ => true)
  | _ => r.finished

/-- PACKET_COMPLETE (R306): DINC is added at DONE as the packet completes. -/
def execPacketComplete (s : State) : Out :=
  let q := s.arg.a
  match (s.queue q).runs.find? (fun r => r.id = s.arg.b) with
  | none => .next s
  | some r =>
    if ! s.packetOver q r then .next s
    else
      let finish := fun (t : State) => (t.modQueue q (fun x => { x with
        runs := x.runs.filter (fun y => y.id ≠ r.id), idleSince := t.clock })).modPerg (fun p =>
          { p with graphs := p.graphs.filter (fun g => ! (g.2.queue = q && g.2.run = r.id)) })
      if addrAt r.bytes 8 = 0#64 then .next (finish s)
      else match s.pergAdd q (addrAt r.bytes 8) (addrAt r.bytes 16) with
        | (t, .made id) => .next ((finish t).modQueue q (fun x => { x with
            adds := x.adds.filter (fun n => ! t.settled (pergolaPort x.die) n) ++ [id] }))
        | (t, _) => .next t

/-! ### Budgets (R320, R321) -/

/-- Energies of the counted events in picojoules, by their place in the table of R320. -/
def eventEnergy : List Nat := [10486, 1792, 4997, 200, 500, 50, 3, 6500000]

/-- A count of the latest totals of a die. -/
def State.latestCount (s : State) (die part ev : Nat) : Nat := mget 0 (mget [] s.power.latest die) (16 * part + ev)

/-- E of a die and partition. -/
def State.energy (s : State) (die part : Nat) : Nat :=
  sumNat ((List.range 8).map (fun e => s.latestCount die part e * eventEnergy.getD e 0))

/-- F of a die: tenths of a GHz. -/
def State.windowClock (s : State) (die : Nat) : Nat := if die ∈ s.power.slowRan then 12 else 19

/-- The sum over the dies of F·E. -/
def State.powerSum (s : State) (part : Nat) : Nat :=
  sumNat ((List.range 4).map (fun d => s.windowClock d * s.energy d part))

/-- A core holds a crew of a partition. -/
def State.holdsPart (s : State) (part c : Nat) : Bool := (s.core c).crews.any (fun e => e.1 ≠ 0 && e.2.part = part)

/-- The four budgets of R321 for a core. -/
def State.budgetOk (s : State) (part c : Nat) : Bool :=
  let r := s.part part
  let f := fun (d : Nat) => s.windowClock d
  s.powerSum part ≤ 81920000 * r.power &&
  256 * sumNat ((List.range 4).map (fun d => f d * s.latestCount d part 1)) ≤ 19 * r.hbmsh * 1545270 &&
  ((List.range 160).filter (fun n => n = c || s.holdsPart part n)).length ≤ r.cores &&
  sumNat ((List.range 64).map s.powerSum) ≤ 81920000 * s.power.limit

/-! ### Offers and admission (R245, R248, R311, R313, R314) -/

/-- The WID base of fields in mixed radix: field i at its offset, from field lo on, hi excluded (R311). -/
def widOf (h : List (BitVec 8)) (lo hi n : Nat) : Nat :=
  (((List.range hi).drop lo).foldl (fun (a : Nat × Nat) i =>
    (a.1 + a.2 % hdrExtent h i * 2 ^ sumNat ((List.range i).map (hdrWidth h)), a.2 / hdrExtent h i)) (0, n)).1

/-- The registers that the successor's gang at a crew position takes (R45). (log 20, DEDUCED) -/
def inheritRegs (h : List (BitVec 8)) (left : SMap (BitVec 32)) (j v : Nat) : SMap (BitVec 32) :=
  let lo := fieldAt h 74 1
  let hi := fieldAt h 75 1
  mputs 0#32 [] ((List.range (min (hi + 1) v)).drop lo |>.flatMap (fun r =>
    allLanes.map (fun l => (32 * r + l, mget 0#32 left (192 * (32 * j + l) + r)))))

/-- Gang j of a crew as it is placed (R44, R311). -/
def newGang (h : List (BitVec 8)) (crew index j role v : Nat) (left : SMap (BitVec 32)) : Gang :=
  let base := widOf h 1 (fieldAt h 14 1) j + widOf h (fieldAt h 14 1) (fieldAt h 12 1) index
  { crew := crew, role := role, vcount := v, ucount := 4 * fieldAt h 49 1, tcount := fieldAt h 50 1, block := fieldAt h 8 3
    ready := false, vregs := inheritRegs h left j v
    lanes := (List.range (hdrExtent h 0)).map (fun l => (l, { st := .run, wid := BitVec.ofNat 64 (base + l) })) }

/-- A crew as it is placed (R44, R226, R244, R247, R310). (log 8, DESIGN CHOICE) -/
def newCrew (g : Grid) (num index : Nat) : Crew :=
  let h := g.hdr
  let f := fieldAt h
  let slots := hdrSlots h
  { num := num, grid := g.id, part := f 58 1, dom := f 57 1, prio := f 15 1 % 8, modeb := f 15 1, codeBase := addrAt h 0
    vcount := 8 * f 48 1, ucount := 4 * f 49 1, tcount := f 50 1, roleOf := slots.map (·.1), vOf := slots.map (·.2)
    sc := f 52 4, nbars := f 56 1
    bars := (List.range (f 56 1)).map (fun n => (n, { exp := hdrGangs h * hdrExtent h 0 }))
    held := BitVec.ofNat 24 (2 ^ f 51 1 - 1), rgto := f 60 4, liveLo := f 72 1, liveHi := f 73 1, karg := g.karg
    regions := hdrRegions h, index := index }

/-- What a predecessor left on a core for a crew of a grid with the CHAIN flag (R45). (log 50, DEDUCED) -/
def State.chainRegs (s : State) (c : Nat) (g : Grid) (index : Nat) : Option ChainRegs :=
  if fieldAt g.hdr 71 1 % 2 = 0 then none
  else (s.core c).chains.find? (fun r => some r.grid = g.parent && r.index = index)

/-- The next crew of a grid is admitted by a core (R245 to R248). (log 52, DEDUCED) -/
def State.takeIn (s : State) (g : Grid) (c : Nat) (p : Placing) : State :=
  let n := s.pergola.nextCrew
  let w := newCrew g n g.next
  let left := ((s.chainRegs c g g.next).map (·.regs)).getD []
  let gangs := (List.range (hdrGangs g.hdr)).map (fun j =>
    (p.slots.getD j 0, newGang g.hdr n g.next j (w.roleOf.getD j 0) (w.vOf.getD j 8) left))
  let s := s.modCore c (fun x => (x.takePlace n w p gangs))
  let s := s.modPerg (fun r => { r with
    nextCrew := n + 1
    grids := minsert r.grids g.id { g with next := g.next + 1, live := g.live ++ [n], lastCore := some c } })
  if g.next + 1 = g.total && g.tailbuf = 0#64 && g.node.isNone then s.modRun g.queue g.run (fun r => { r with dispatched := true })
  else s

/-- Cores in the order in which a crew is offered to them (R313); a chain successor's first is its predecessor's (R44).
(log 50, DEDUCED) -/
def State.offerOrder (s : State) (g : Grid) : List Nat :=
  let mask := (s.part (fieldAt g.hdr 58 1)).cmask
  let cores := (List.range 160).filter (fun c => mask.getLsbD c && (s.core c).online)
  let start := (g.lastCore.map (· + 1)).getD 0
  let order := cores.filter (start ≤ ·) ++ cores.filter (· < start)
  let home := order.filter (fun c => (s.chainRegs c g g.next).isSome)
  home ++ order.filter (fun c => ! decide (c ∈ home))

/-- The first core that takes the next crew of a grid, from stage 3 on (R380). -/
def State.taker (s : State) (g : Grid) : Option (Nat × Placing) :=
  let part := fieldAt g.hdr 58 1
  if ! (s.part part).en || ! s.worksFrom 3 then none
  else (s.offerOrder g).findSome? (fun c =>
    if ! s.budgetOk part c then none else ((s.core c).fits (hdrDemand g.hdr)).map (fun p => (c, p)))

/-- CREW_OFFER (R313, R314). -/
def execCrewOffer (s : State) : Out :=
  match s.offerWinner s.arg.a with
  | none => .next s
  | some q =>
    match s.offering q with
    | none => .next s
    | some g =>
      let t := s.won q
      match t.taker g with
      | none => .next t
      | some (c, p) => .next (t.takeIn g c p)

/-! ### Grids that retire (R306, R315) -/

/-- Every crew of a grid has ended and every access that they made is performed (R306). -/
def State.gridOver (s : State) (g : Grid) : Bool :=
  g.total ≤ g.next && g.live = [] && s.ops.all (fun o => o.grid ≠ g.id)

/-- What a grid's chain belonged to is finished. -/
def State.chainEnds (s : State) (g : Grid) : State :=
  match g.node with
  | none => s.modRun g.queue g.run (fun r => { r with finished := true, dispatched := true })
  | some (k, n) => s.modPerg (fun p => match mfind p.graphs k with
    | none => p
    | some r => { p with graphs := minsert p.graphs k { r with st := r.st.set n .complete } })

/-- A grid leaves: its regions are released, and what its predecessor left is forgotten (R45, R338).
(log 48, DESIGN CHOICE) -/
def State.dropGrid (s : State) (g : Grid) : State :=
  let s := (s.bind (hdrRegions g.hdr) false).modPerg (fun p => { p with grids := merase p.grids g.id })
  { s with cores := s.cores.map (fun (c : Nat × Core) =>
      (c.1, { c.2 with chains := c.2.chains.filter (fun r => some r.grid ≠ g.parent) })) }

/-- What a grid left for a successor is forgotten when it has none. -/
def State.forgetChain (s : State) (id : Nat) : State :=
  { s with cores := s.cores.map (fun (c : Nat × Core) => (c.1, { c.2 with chains := c.2.chains.filter (fun r => r.grid ≠ id) })) }

/-- GRID_RETIRE (R306, R315): a TAILBUF that names a header starts the child in the grid's place. -/
def execGridRetire (s : State) : Out :=
  match mfind s.pergola.grids s.arg.a with
  | none => .next s
  | some g =>
    let x := s.queue g.queue
    if ! s.gridOver g then .next s
    else if g.tailbuf = 0#64 || ! x.runs.any (fun r => r.id = g.run) then .next (((s.dropGrid g).forgetChain g.id).chainEnds g)
    else match s.pergRead x.part g.tailbuf 16 with
      | (t, .wait) => .next t
      | (t, .lost) => .next t
      | (t, .fail _) => .next (((t.dropGrid g).forgetChain g.id).chainEnds g)
      | (t, .got bs) =>
        if addrAt bs 0 = 0#64 then .next (((t.dropGrid g).forgetChain g.id).chainEnds g)
        else match (t.dropGrid g).launch g.queue g.run g.node (addrAt bs 0) (addrAt bs 8) g.tailbuf (some g.id) with
          | (u, .ok) => .next u
          | (u, .wait) => .next (s.asked u)
          | (u, .lost) => .next { u with pergola := s.pergola, lodge := { u.lodge with regions := s.lodge.regions } }
          | (u, .refused n) =>
            let r := (x.runs.find? (fun r => r.id = g.run)).getD { id := 0, ty := 1, index := x.rdx, addr := 0#64, bytes := [] }
            .next ((u.forgetChain g.id).stopQueue g.queue 5 n r.addr r.index (fun y => y.id = r.id))

end Sys2Proof.Machine
end

