-- ==== Sys2Proof/Machine/Graph.lean ====
section
/-! DEFINITION. Graphs (R316 to R318). -/

namespace Sys2Proof.Machine

/-! ### Reading and checking (R316, R317) -/

/-- The rules of a node's bytes 24 to 63 (R316). The graph of a LOOP body is aligned as any other, and bytes 56 to 63 of LOOP and TAIL
nodes, which the table leaves out, are zero. (log 106, DESIGN CHOICE) -/
def nodeRules (ty : Nat) : List FieldRule :=
  match ty with
  | 1 => payloadRules 1
  | 2 => payloadRules 5
  | 3 => payloadRules 4
  | 4 => payloadRules 3
  | 5 => [mustDivide 64 24 8, mustDivide 4 32 8, (40, 4, fun v => v ≠ 0), mustZero 44 4, mustDivide 4 48 8, mustZero 56 8]
  | _ => [mustZero 32 32]

/-- The successors that a node lists. -/
def nodeSucc (n : List (BitVec 8)) : List Nat :=
  ((List.range 6).map (fun i => fieldAt n (4 + 2 * i) 2)).filter (· ≠ 0xFFFF)

/-- How many nodes list a node as their successor. -/
def predCount (nodes : List (List (BitVec 8))) (k : Nat) : Nat :=
  sumNat (nodes.map (fun n => ((nodeSucc n).filter (· = k)).length))

/-- A node breaks R316 or R317. -/
def nodeBad (nodes : List (List (BitVec 8))) (body : Bool) (k : Nat) : Bool :=
  let n := nodes.getD k []
  let ty := fieldAt n 0 1
  ty = 0 || 6 < ty || (body && 5 ≤ ty) || fieldAt n 1 1 ≠ predCount nodes k || fieldAt n 2 2 ≠ 0 || fieldAt n 16 8 ≠ 0 ||
  (nodeSucc n).any (nodes.length ≤ ·) || (firstBroken n (nodeRules ty)).isSome

/-- Nodes left when those without predecessors among them are removed, n times. -/
def peel (nodes : List (List (BitVec 8))) : Nat → List Nat → List Nat
  | 0, ks => ks
  | n + 1, ks => peel nodes n (ks.filter (fun k => ks.any (fun j => decide (k ∈ nodeSucc (nodes.getD j [])))))

/-- The REASON of a malformed graph: its first offending node, or 0xFFFF for a cycle (R317). -/
def graphBad (nodes : List (List (BitVec 8))) (body : Bool) : Option Nat :=
  let ks := List.range nodes.length
  match ks.find? (nodeBad nodes body) with
  | some k => some k
  | none => if peel nodes nodes.length ks = [] then none else some 0xFFFF

/-- What reading a graph gives: its nodes, nothing yet, a mismatch, an address that cannot be used, or a REASON. -/
inductive GraphRead where
  | got (nodes : List (List (BitVec 8)))
  | wait
  | lost
  | fail
  | bad (reason : Nat)
deriving DecidableEq, Repr

/-- A graph is read as one snapshot and checked (R316, R317). (log 51, DEDUCED) -/
def State.readGraph (s : State) (part : Nat) (va : BitVec 64) (body : Bool) : State × GraphRead :=
  match s.pergRead part va 64 with
  | (t, .got h) =>
    let n := fieldAt h 0 2
    if n = 0 || 4096 < n || fieldAt h 2 62 ≠ 0 then (t, .bad 0)
    else match t.pergRead part (va + 64#64) (64 * n) with
      | (u, .got bs) =>
        let nodes := (List.range n).map (fun k => (bs.drop (64 * k)).take 64)
        match graphBad nodes body with
        | some r => (u, .bad r)
        | none => (u, .got nodes)
      | (u, .fail _) => (u, .fail)
      | (u, .wait) => (s.asked u, .wait)
      | (u, .lost) => (u, .lost)
  | (t, .fail _) => (t, .fail)
  | (t, .wait) => (t, .wait)
  | (t, .lost) => (t, .lost)

/-! ### Graphs in progress (R317) -/

def State.graph? (s : State) (k : Nat) : Option GraphRun := mfind s.pergola.graphs k

/-- Sets the progress of a node. -/
def State.setNode (s : State) (k n : Nat) (x : NodeSt) : State :=
  s.modPerg (fun p => match mfind p.graphs k with
    | none => p
    | some g => { p with graphs := minsert p.graphs k { g with st := g.st.set n x } })

/-- A node whose predecessors have all completed (R317). -/
def GraphRun.ready (g : GraphRun) (n : Nat) : Bool :=
  g.st[n]? = some .waiting &&
  (List.range g.nodes.length).all (fun j => ! decide (n ∈ nodeSucc (g.nodes.getD j [])) || g.st[j]? = some .complete)

/-- The node that starts next: the lowest that is ready (R317). -/
def GraphRun.mayStart (g : GraphRun) (n : Nat) : Bool := g.ready n && (List.range n).all (fun j => ! g.ready j)

/-- A graph comes to be in progress. -/
def State.addGraph (s : State) (g : GraphRun) : State := s.modPerg (fun p => { p with graphs := minsert p.graphs g.id g })

/-- GRAPH_PACKET (R317). (log 51, DEDUCED) (log 52, DEDUCED) -/
def execGraphPacket (s : State) : Out :=
  .next (packetOp 2 (fun s q x r =>
    let pkg := fieldAt r.bytes 1 1 / 2 = 1
    match s.readGraph x.part (addrAt r.bytes 24) false with
    | (t, .wait) => (t, false)
    | (t, .lost) => (t, true)
    | (t, .fail) => (t.stopQueue q 4 24 r.addr x.ringPos (fun _ => false), true)
    | (t, .bad n) => (t.stopQueue q 7 n r.addr x.ringPos (fun _ => false), true)
    | (t, .got nodes) =>
      ((t.bump.beginPacket q r).addGraph
        { id := t.nextId, queue := q, run := r.id, pkg := pkg, karg := addrAt r.bytes 32, nodes := nodes
          st := List.replicate nodes.length .waiting }, true)) s s.arg.a)

/-- A step of a node of a type, with the progress it has made; nothing when the queue has stopped. -/
def nodeOp (ty : Nat) (start : State → GraphRun → Nat → List (BitVec 8) → State)
    (go : State → GraphRun → Nat → List (BitVec 8) → Nat → State) (s : State) : Out :=
  let k := s.arg.a
  let n := s.arg.b
  match s.graph? k with
  | none => .next s
  | some g =>
    let b := g.nodes.getD n []
    if (s.queue g.queue).state ≠ 1 || ! s.worksFrom 3 || fieldAt b 0 1 ≠ ty then .next s
    else match g.st[n]? with
      | some .waiting => if g.mayStart n then .next (start s g n b) else .next s
      | some (.running seq) => .next (go s g n b seq)
      | _ => .next s

/-- A queue stops at the graph packet of a node. (log 51, DEDUCED) -/
def State.stopGraph (s : State) (g : GraphRun) (st reason : Nat) : State :=
  match (s.queue g.queue).runs.find? (fun r => r.id = g.run) with
  | none => s
  | some r => s.stopQueue g.queue st reason r.addr r.index (fun y => y.id = r.id)

/-- A node has started. -/
def State.started (s : State) (k n : Nat) : Bool := ((s.graph? k).bind (fun (x : GraphRun) => x.st[n]?)) = some (.running 0)

/-- A node starts the grid of a header. -/
def State.launchNode (s : State) (g : GraphRun) (n : Nat) (hva karg tailbuf : BitVec 64) : State :=
  match s.launch g.queue g.run (some (g.id, n)) hva karg tailbuf none with
  | (t, .ok) => t.setNode g.id n (.running 0)
  | (t, .wait) => t
  | (t, .lost) => t
  | (t, .refused r) => t.stopGraph g 5 r

/-- KERNEL_NODE (R317): it completes when its chain ends. -/
def execKernelNode (s : State) : Out :=
  nodeOp 1 (fun s g n b =>
    s.launchNode g n (addrAt b 24) (if addrAt b 32 = 0#64 then g.karg else addrAt b 32) (addrAt b 40)) (fun s _ _ _ _ => s) s

/-- A node that a page fault holds back, and for which a chore is posted, once (R185, R307). -/
def State.suspendNode (s : State) (g : GraphRun) (n : Nat) : State :=
  if g.st[n]? = some .waiting then (s.setNode g.id n (.running 0)).postChore 2 [256, g.queue, g.id, n] else s

/-- A copy of a node goes as far as it can; a page that is not mapped holds it back. -/
def State.nodeCopy (s : State) (g : GraphRun) (n : Nat) (b : List (BitVec 8)) : State :=
  let id := s.nextId
  match s.pergCopy g.queue id (addrAt b 24) (addrAt b 32) (fieldAt b 40 8) with
  | (t, .made) => t.bump.setNode g.id n (.running id)
  | (t, .wait) => t
  | (t, .fault) => t.suspendNode g n
  | (t, .denied) => t.stopGraph g 4 0x200

/-- COPY_NODE (R307, R317). -/
def execCopyNode (s : State) : Out :=
  nodeOp 2 State.nodeCopy (fun s g n b seq =>
    if seq = 0 then s.nodeCopy g n b
    else if s.settled (pergolaPort (s.queue g.queue).die) seq then s.setNode g.id n .complete else s) s

/-- The add of a SIGNAL node goes as far as it can. -/
def State.nodeSignal (s : State) (g : GraphRun) (n : Nat) (b : List (BitVec 8)) : State :=
  match s.pergAdd g.queue (addrAt b 24) (addrAt b 32) with
  | (t, .made id) => t.setNode g.id n (.running id)
  | (t, .wait) => t
  | (t, .fault) => t.suspendNode g n

/-- SIGNAL_NODE (R307, R317). -/
def execSignalNode (s : State) : Out :=
  nodeOp 3 State.nodeSignal (fun s g n b seq =>
    if seq = 0 then s.nodeSignal g n b else if s.addDone g.queue seq then s.setNode g.id n .complete else s) s

/-- A WAIT node reads its word (R317). (log 51, DEDUCED) -/
def State.nodeWait (s : State) (g : GraphRun) (n : Nat) (b : List (BitVec 8)) : State :=
  match s.pergRead (s.queue g.queue).part (addrAt b 24) 8 with
  | (t, .got bs) => t.setNode g.id n (if fieldAt b 32 8 ≤ leNat bs then .complete else .running 0)
  | (t, _) => t.setNode g.id n (.running 0)

/-- WAIT_NODE (R317): it waits without parking the queue. -/
def execWaitNode (s : State) : Out := nodeOp 4 State.nodeWait (fun s g n b _ => s.nodeWait g n b) s

/-- TAIL_NODE (R317): it reads its pair as it becomes ready. (log 51, DEDUCED) -/
def execTailNode (s : State) : Out :=
  nodeOp 6 (fun s g n b =>
    match s.pergRead (s.queue g.queue).part (addrAt b 24) 16 with
    | (t, .got bs) =>
      if addrAt bs 0 = 0#64 then t.setNode g.id n .complete
      else
        let u := t.launchNode g n (addrAt bs 0) (addrAt bs 8) 0#64
        if u.started g.id n then u else { u with host := { u.host with answered := s.host.answered } }
    | (t, .fail _) => t.setNode g.id n .complete
    | (t, _) => t) (fun s _ _ _ _ => s) s

/-! ### LOOP (R318) -/

/-- An iteration of a body begins: its graph is read anew (R317); false while it waits. -/
def State.startBody (s : State) (g : GraphRun) (n : Nat) (b : List (BitVec 8)) (iter : Nat) : State × Bool :=
  match s.readGraph (s.queue g.queue).part (addrAt b 24) true with
  | (t, .wait) => (t, false)
  | (t, .lost) => (t, true)
  | (t, .fail) => (t.stopGraph g 7 n, true)
  | (t, .bad r) => (t.stopGraph g 7 r, true)
  | (t, .got nodes) =>
    ((t.bump.addGraph { id := t.nextId, queue := g.queue, run := g.run, karg := g.karg, nodes := nodes, iter := iter
                        st := List.replicate nodes.length .waiting, parent := some (g.id, n) }).setNode g.id n (.running 0), true)

/-- LOOP_NODE (R318). -/
def execLoopNode (s : State) : Out := nodeOp 5 (fun s g n b => (s.startBody g n b 1).1) (fun s _ _ _ _ => s) s

/-- The body of a LOOP node in progress. -/
def State.bodyOf (s : State) (k n : Nat) : Option GraphRun :=
  (s.pergola.graphs.find? (fun g => g.2.parent = some (k, n))).map (·.2)

/-- The result of a loop is written (R318); false while it waits. -/
def State.loopResult (s : State) (g : GraphRun) (n : Nat) (b : List (BitVec 8)) (iter c : Nat) : State × Bool :=
  let x := s.queue g.queue
  let va := addrAt b 48
  let id := s.nextId
  if va = 0#64 then (s.setNode g.id n .complete, true)
  else match s.pergTables x.part [(va, 4)] with
    | (t, .wait) => (t, false)
    | (t, .bad k) => (t.pergLost x.part k, true)
    | (t, .ready) => match t.pergSpots x.part .asyncWrite va 4 with
      | .error .page => (t, false)
      | .error .access => (t.setNode g.id n .complete, true)
      | .ok spots =>
        let h := t.accessAll true spots
        if ! h.2 then (h.1, false)
        else match h.1.spotWriteBad spots with
          | some k => (h.1.pergLost x.part k, true)
          | none => ((h.1.bump.homeWrites (pergolaPort x.die) id spots
              (leBytes 4 (iter % 2 ^ 31 + (if c = 0 then 0 else 2 ^ 31)))).setNode g.id n (.running id), true)

/-- A body is complete: the condition word is read, and the loop goes on or ends (R318). -/
def State.endIteration (s : State) (g : GraphRun) (n : Nat) (b : List (BitVec 8)) (body : GraphRun) : State :=
  match s.pergRead (s.queue g.queue).part (addrAt b 32) 4 with
  | (t, .got bs) =>
    let u := t.modPerg (fun p => { p with graphs := merase p.graphs body.id })
    let v := if leNat bs ≠ 0 && body.iter < fieldAt b 40 4 then u.startBody g n b (body.iter + 1) else u.loopResult g n b body.iter (leNat bs)
    if v.2 then v.1 else s.asked v.1
  | (t, _) => t

/-- LOOP_ITERATION_END (R318). -/
def execLoopIterationEnd (s : State) : Out :=
  nodeOp 5 (fun s _ _ _ => s) (fun s g n b seq =>
    if seq ≠ 0 then (if s.settled (pergolaPort (s.queue g.queue).die) seq then s.setNode g.id n .complete else s)
    else match s.bodyOf g.id n with
      | none => s
      | some body => if body.st.all (fun x => decide (x = .complete)) then s.endIteration g n b body else s) s

end Sys2Proof.Machine
end

