-- ==== Sys2Proof/Machine/Reader.lean ====
section
/-! DEFINITION. Reader sections, publication, retirement and grace periods: the leaf, the aggregators and the Lodge's domains
(R220 to R225, R329 to R336, R339). -/

namespace Sys2Proof.Machine

/-! ### Sections (R220) -/

/-- A lane enters a section (R220). -/
def Lane.enter (x : Lane) (leaf : Leaf) (c : Nat) : Lane :=
  if x.nest = 0 then { x with nest := 1, colour := leaf.colour, rsver := leaf.version, holdAt := .leaf c }
  else { x with nest := x.nest + 1 }

/-- RSENTER (R220). -/
def execRsenter (s : State) : Out :=
  issue s (fun _ => { ok := true, lat := some 4 }) (fun g =>
    let c := s.cur.core
    let dom := (s.myCrew g).dom
    let leaf := mget {} (s.core c).leafs dom
    match g.active.find? (fun l => (g.lane l).nest = 15) with
    | some l => .trap { cause := 0x31, lane := l }
    | none =>
      let new := (g.active.filter (fun l => (g.lane l).nest = 0)).length
      .go ((s.put (g.modLanes g.active (fun x => x.enter leaf c))).modCore c (fun x =>
        { x with leafs := minsert x.leafs dom (leaf.setCnt leaf.colour (leaf.cnt leaf.colour + new)) })))

/-- Lanes leave their sections, one after another (R220). -/
def State.leaveLanes (s : State) (c k dom part : Nat) : List Nat → State
  | [] => s
  | l :: rest =>
    match s.gang? c k with
    | none => s
    | some g =>
      let x := g.lane l
      let s := if x.nest = 1 then
          (s.releaseHold c dom part x true).modGang c k (fun g => g.setLane l { x with nest := 0, holdAt := .nowhere })
        else s.setGang c k (g.setLane l { x with nest := x.nest - 1 })
      s.leaveLanes c k dom part rest

/-- RSLEAVE (R220). -/
def execRsleave (s : State) : Out :=
  issue s (fun _ => { ok := true, lat := some 4 }) (fun g =>
    match g.active.find? (fun l => (g.lane l).nest = 0) with
    | some l => .trap { cause := 0x31, lane := l }
    | none =>
      let w := s.myCrew g
      .go ((s.put g).leaveLanes s.cur.core s.cur.slot w.dom w.part g.active))

/-! ### Publication and retirement (R222 to R225, R339) -/

/-- PUBLISH (R222): HBM-backed device memory only. -/
def execPublish (d a : Src) (s : State) : Out :=
  issue s
    (fun g => { ok := g.src64Ok d && uniOnly d && g.src64Ok a && uniOnly a, reads := srcRegs true d ++ srcRegs true a })
    (fun g =>
      let vas := [(g.active.headD 0, g.rd64 a 0)]
      if ! g.mayAccess then .hold
      else if g.active = [] then .go (s.put g)
      else s.withWalks g (vas.map (·.2)) fun s => match s.resolve .update 8 vas with
        | .error t => .trap (if t.cause = 0x14 then { t with cause := 0x11 } else t)
        | .ok refs =>
          if ! s.earlierDone g 5 then .hold
          else
            let bs := leBytes 8 (g.rd64 d 0).toNat
            .go ((s.put g).postAll (fun r s => s.opOf g r.lane (.publish (s.crew s.cur.core g.crew).dom) r.slice
              [r.span bs]) .homeOp refs))

/-- The result of a request to the Lodge, which comes through a scoreboard slot (R89): the record that waits for it. -/
def State.expectStatus (s : State) (g : Gang) (d : Dst) : State :=
  if d = .none then s.put g
  else
    let parts := match d with
      | .uni n => [({ locs := [Loc.g n], unit := 0, usize := 0 } : LoadPart)]
      | _ => g.active.map (fun l => ({ lane := l, locs := dstLocs d false [l], unit := 0, usize := 0 } : LoadPart))
    (s.put (g.claim true (parts.flatMap (·.locs)))).modCore s.cur.core (fun x =>
      { x with loads := x.loads ++ [{ id := s.nextId, slot := s.cur.slot, seq := g.seq, kind := .status, parts := parts }] })

/-- A result of 32 bits arrives for a waiting record. -/
def State.giveStatus (s : State) (c id : Nat) (v : BitVec 32) : State :=
  s.modLoad c id (fun x => { x with parts := x.parts.map (fun (p : LoadPart) => { p with val := some (v.setWidth 512) }) })

/-- The open region whose aperture starts at an address (R339). (log 71, DEDUCED) -/
def State.regionStart (s : State) (dpa : Nat) : Option Nat :=
  (s.lodge.regions.find? (fun e => e.2.state = 1 && e.2.start = dpa)).map (·.1)

/-- RETIRE (R223, R339). (log 71, DEDUCED) -/
def execRetire (d : Dst) (a : BitVec 8) (s : State) : Out :=
  issue s
    (fun g => { ok := g.dstOk d && g.descOk a 4, reads := uniRegs (descBase a) 4, writes := dstRegs false d })
    (fun g =>
      let ws := g.descWords a 4
      let c := s.cur.core
      if ! g.mayAccess then .hold
      else if g.active = [] then .go (s.put g)
      else if wordAt ws 2 = 0 || 2 < wordAt ws 3 then .trap { cause := 0x02 }
      else if ! s.earlierDone g 5 || (d ≠ .none && 8 ≤ (g.claims.filter (·.slot)).length) then .hold
      else
        let base := pairAt ws 0
        s.withWalks g (if wordAt ws 3 = 2 then [base] else []) fun s =>
          let region := if wordAt ws 3 ≠ 2 || ! canonical base then none
            else match s.translate c (s.rootOf c s.cur.slot) base with
              | .ok t => s.regionStart (t.dpaOf (vaLow base))
              | .error _ => none
          let e : Retired := { ticket := 0#32, base := base, size := ws.getD 2 0#32, kind := wordAt ws 3, region := region }
          .go ((s.expectStatus g d).bump.sendL (.retire c s.nextId (s.myCrew g).dom e)))

/-- GPWAIT (R224). -/
def execGpwait (a : Src) (s : State) : Out :=
  issue s (fun g => { ok := g.srcOk a && uniOnly a, reads := srcRegs false a }) (fun g =>
    if g.active = [] then .go (s.put g)
    else match allLanes.find? (fun l => (g.lane l).st ≠ .empty && decide (0 < (g.lane l).nest)) with
      | some l => .trap { cause := 0x31, lane := l }
      | none => s.waitFor g (.ticket (s.myCrew g).dom (g.rd a 0)))

/-- GPSTAT (R225). -/
def execGpstat (d : Dst) (b : BitVec 8) (s : State) : Out :=
  issue s (fun g => { ok := g.dstOk d && b.toNat ≤ 5, writes := dstRegs false d }) (fun g =>
    let w := s.myCrew g
    if g.active = [] then .go (s.put g)
    else if d ≠ .none && 8 ≤ (g.claims.filter (·.slot)).length then .hold
    else .go ((s.expectStatus g d).bump.sendL (.gpstat s.cur.core s.nextId w.dom w.part b.toNat)))

/-! ### Messages (R331) -/

/-- The path of a message: messages of one path arrive in the order in which they were sent (R331). -/
def LMsg.path : LMsg → Nat × Nat
  | .version dom => (0, dom)
  | .retire core _ _ _ => (1, core)
  | .flip die _ _ => (2, die)
  | .newVersion die _ _ => (2, die)
  | .freed core _ _ => (2, dieOf core)
  | .parkAck core _ _ _ _ _ => (2, dieOf core)
  | .chorePulse core => (2, dieOf core)
  | .contain core _ => (2, dieOf core)
  | .leafQuiet core _ => (3, core)
  | .aggQuiet die _ => (4, die)
  | .park core _ _ _ _ _ => (5, core)
  | .holdDec _ dom _ => (6, dom)
  | .stale part => (7, part)
  | .gpstat core _ _ _ _ => (8, core)
  | .totals die _ _ => (9, die)

/-- Takes message k off its path, when none of the path stands before it. Messages that all cores of a die receive together
stand side by side. -/
def State.takeL (s : State) (k : Nat) : Option (LMsg × State) :=
  match takeAt s.lodge.msgs k with
  | none => none
  | some (m, rest) =>
    if (s.lodge.msgs.take k).any (fun n => decide (n.path = m.path) && (match n, m with
        | .freed c _ _, .freed d _ _ => c = d
        | .chorePulse c, .chorePulse d => c = d
        | .contain c _, .contain d _ => c = d
        | .freed c _ _, .chorePulse d => c = d
        | .freed c _ _, .contain d _ => c = d
        | .chorePulse c, .freed d _ _ => c = d
        | .chorePulse c, .contain d _ => c = d
        | .contain c _, .freed d _ _ => c = d
        | .contain c _, .chorePulse d => c = d
        | _, _ => true)) then none
    else some (m, s.modLodge (fun l => { l with msgs := rest }))

/-! ### The domains (R335, R336) -/

def State.dom (s : State) (d : Nat) : Dom := mget {} s.lodge.doms d
def State.setDom (s : State) (d : Nat) (x : Dom) : State := s.modLodge (fun l => { l with doms := minsert l.doms d x })

/-- The flip that begins a grace period (R335). -/
def State.flipDom (s : State) (d : Nat) : State :=
  let x := s.dom d
  let s := s.setDom d { x with colour := ! x.colour, covered := x.covered ++ x.waiting, waiting := [], run := true, quiet := [] }
  (List.range 4).foldl (fun s die => s.sendL (.flip die d (! x.colour))) s

/-- The ticket after a ticket; 0 is skipped (R223). -/
def nextTicketOf (t : BitVec 32) : BitVec 32 := if t + 1 = 0#32 then 1#32 else t + 1

/-- A retire entry is queued (R335, R339). -/
def State.queueRetire (s : State) (d : Nat) (e : Retired) : State × BitVec 32 :=
  let x := s.dom d
  if x.occ = 4096 || ! x.en then (s, 0#32)
  else
    let t := nextTicketOf x.last
    let open_ := e.region.bind (fun r => (mfind s.lodge.regions r).filter (fun g => g.state = 1))
    let e := { e with ticket := t, region := if open_.isSome then e.region else none }
    let s := s.setDom d { x with last := t, occ := x.occ + 1, waiting := x.waiting ++ [e] }
    let s := match e.region, open_ with
      | some r, some g => s.modLodge (fun l => { l with regions := minsert l.regions r { g with state := 2 } })
      | _, _ => s
    (if x.run then s else s.flipDom d, t)

/-- RETIRE_ARRIVAL (R223, R335). (log 71, DEDUCED) -/
def execRetireArrival (s : State) : Out :=
  match s.takeL s.arg.a with
  | some (.retire c id dom e, t) =>
    let r := t.queueRetire dom e
    .next (r.1.giveStatus c id r.2)
  | _ => .next s

/-- VERSION_NOTICE_ARRIVAL (R222, R335). -/
def execVersionNoticeArrival (s : State) : Out :=
  match s.takeL s.arg.a with
  | some (.version d, t) =>
    let x := t.dom d
    let v := x.version + 1
    .next ((List.range 4).foldl (fun s die => s.sendL (.newVersion die d v)) (t.setDom d { x with version := v }))
  | _ => .next s

/-- Changes the leaf of every core of a die, together (R331). -/
def State.modLeafs (s : State) (die dom : Nat) (f : Leaf → Leaf) : State :=
  (List.range 40).foldl (fun s i =>
    (s.modCore (40 * die + i) (fun x => { x with leafs := minsert x.leafs dom (f (mget {} x.leafs dom)) })).leafCheck
      (40 * die + i) dom) s

/-- FLIP_ARRIVAL (R221, R331): a flip or a version reaches a die and all its leaves. -/
def execFlipArrival (s : State) : Out :=
  match s.takeL s.arg.a with
  | some (.flip die dom colour, t) =>
    let t := t.modLodge (fun l => { l with aggs := minsert l.aggs (4 * dom + die) [] })
    .next (t.modLeafs die dom (fun x => { x with colour := colour, quiet := false }))
  | some (.newVersion die dom v, t) => .next (t.modLeafs die dom (fun x => { x with version := v }))
  | _ => .next s

/-- LEAF_QUIET_REPORT (R331): the aggregator reports once all forty leaves have. -/
def execLeafQuietReport (s : State) : Out :=
  match s.takeL s.arg.a with
  | some (.leafQuiet c dom, t) =>
    let key := 4 * dom + dieOf c
    let cs := mget [] t.lodge.aggs key
    let cs := if c ∈ cs then cs else cs ++ [c]
    let t := t.modLodge (fun l => { l with aggs := minsert l.aggs key cs })
    .next (if 40 ≤ cs.length then t.sendL (.aggQuiet (dieOf c) dom) else t)
  | _ => .next s

/-- AGGREGATOR_QUIET_ARRIVAL (R331, R335). -/
def execAggregatorQuietArrival (s : State) : Out :=
  match s.takeL s.arg.a with
  | some (.aggQuiet die dom, t) =>
    let x := t.dom dom
    .next (t.setDom dom { x with quiet := if die ∈ x.quiet then x.quiet else x.quiet ++ [die] })
  | _ => .next s

/-- Parked holds of a domain in a colour (R332). -/
def State.parkedHolds (s : State) (d : Nat) (colour : Bool) : Nat :=
  (s.lodge.parked.map (fun e => if e.2.dom = d then (if colour then e.2.cnt1 else e.2.cnt0) else 0)).foldl (· + ·) 0

/-- A grace period can end (R335). -/
def State.periodOver (s : State) (d : Nat) : Bool :=
  let x := s.dom d
  x.run && (List.range 4).all (fun die => decide (die ∈ x.quiet)) && s.parkedHolds d (! x.colour) = 0

/-- GRACE_PERIOD_END (R335). -/
def execGracePeriodEnd (s : State) : Out :=
  let d := s.arg.a
  if ! s.periodOver d then .next s
  else
    let x := s.dom d
    let s := s.setDom d { x with freeing := x.freeing ++ x.covered, covered := [], run := false }
    .next (if x.waiting = [] then s else s.flipDom d)

/-- The number under which the Lodge writes for a domain. -/
def domSeq (d : Nat) : Nat := 16 + d

/-- A write by the Lodge; a sector that fails its check stays as stored, and only the log records it (R390). -/
def State.lodgeWrite (s : State) (seq a : Nat) (bs : List (BitVec 8)) : State :=
  s.ownWrite lodgePort seq a bs

/-- The free-list entry of a retired region (R330). -/
def Retired.entry (e : Retired) : List (BitVec 8) :=
  leBytes 8 e.base.toNat ++ leBytes 4 e.size.toNat ++ leBytes 1 e.kind ++ leBytes 3 0 ++ leBytes 4 e.ticket.toNat ++ leBytes 12 0

/-- An entry has been freed: it awaits acknowledgement and every core learns of its ticket (R329, R330, R336).
(log 72, DEDUCED) -/
def State.entryFreed (s : State) (d : Nat) (x : Dom) (e : Retired) (rest : List Retired) : State :=
  let s := s.setDom d { x with freeing := rest, step := 0, count := x.count + 1, unack := x.unack + 1 }
  let s := (List.range 160).foldl (fun s c => s.sendL (.freed c d e.ticket)) s
  if x.unack = 0 then s.postChore 3 [d] else s

/-- ENTRY_FREE (R336): the steps of freeing, each once the writes of the one before it are performed. (log 72, DEDUCED) -/
def execEntryFree (s : State) : Out :=
  let d := s.arg.a
  let x := s.dom d
  match x.freeing with
  | [] => .next s
  | e :: rest =>
    if ! s.settled lodgePort (domSeq d) then .next s
    else match x.step with
      | 0 =>
        let region := e.region.bind (fun r => (mfind s.lodge.regions r).map (fun g => (r, g)))
        let blocked : Bool := match region with
          | some (_, g) => decide (g.bcnt ≠ 0)
          | none => false
        let slot := x.flist.toNat * 64 + 32 * (x.count % 4096)
        let g := s.access true { a := slot, n := 32 }
        if blocked then .next s
        else if ! g.2 then .next g.1
        else
          let t := match region with
            | some (r, v) => g.1.modLodge (fun l => { l with regions := minsert l.regions r { v with state := 1 } })
            | none => g.1
          .next ((t.lodgeWrite (domSeq d) slot e.entry).setDom d { x with step := 1 })
      | 1 =>
        let x := { x with freed := e.ticket }
        if x.cword = 0#64 then .next (s.entryFreed d x e rest)
        else
          let g := s.access true { a := x.cword.toNat, n := 8 }
          if ! g.2 then .next g.1
          else .next ((g.1.lodgeWrite (domSeq d) x.cword.toNat (leBytes 8 e.ticket.toNat)).setDom d { x with step := 2 })
      | _ => .next (s.entryFreed d x e rest)

/-- FREED_ARRIVAL (R224, R336). -/
def execFreedArrival (s : State) : Out :=
  match s.takeL s.arg.a with
  | some (.freed c dom f, t) => .next (t.modCore c (fun x => { x with freed := mput 0#32 x.freed dom f }))
  | _ => .next s

/-- An acknowledgement of freed entries (R329). -/
def State.flack (s : State) (d n : Nat) : State :=
  let x := s.dom d
  let k := min n x.unack
  s.setDom d { x with unack := x.unack - k, occ := x.occ - k }

/-! ### Parked holds and the stale-read counters (R332 to R334) -/

/-- PARK_REQUEST_ARRIVAL (R333): the root writes an entry, when one is free, and answers. -/
def execParkRequestArrival (s : State) : Out :=
  match s.takeL s.arg.a with
  | some (.park c crew dom part n0 n1, t) =>
    match (List.range 4096).find? (fun i => (mfind t.lodge.parked i).isNone) with
    | some i =>
      let e : Parked := { dom := dom, part := part, cnt1 := n1, cnt0 := n0 }
      .next ((t.modLodge (fun l => { l with parked := minsert l.parked i e })).sendL (.parkAck c crew dom n0 n1 (some i)))
    | none => .next (t.sendL (.parkAck c crew dom n0 n1 none))
  | _ => .next s

/-- Applies a function to every lane of a crew, in its gangs and its bins. -/
def State.modCrewLanes (s : State) (c n : Nat) (f : Lane → Lane) : State :=
  (s.modCore c (fun x => x.modGangsOf n (fun g => g.modLanes allLanes f))).modCrew c n (fun w => { w with
    bins := w.bins.map (fun (b : Nat × Bin) =>
      (b.1, { b.2 with lanes := b.2.lanes.map (fun (y : BinLane) => { y with lane := f y.lane }) })) })

/-- A hold that stands in the leaf of a core moves to a parked entry (R333, R348). -/
def Lane.park (x : Lane) (c i : Nat) : Lane :=
  if x.nest ≠ 0 && x.holdAt = HoldAt.leaf c then { x with holdAt := .parked i } else x

/-- PARK_ACK_ARRIVAL (R333): the leaf gives up the holds that have moved, and their lanes record the entry. A crew that has been discarded meanwhile has released
its holds, and its entry becomes free. -/
def execParkAckArrival (s : State) : Out :=
  match s.takeL s.arg.a with
  | some (.parkAck c crew dom n0 n1 entry, t) =>
    if (t.crew c crew).parking ≠ 1 then
      .next (match entry with
        | some i => t.modLodge (fun l => { l with parked := merase l.parked i })
        | none => t)
    else
      let t := match entry with
        | some i => ((t.leafLower c dom false n0).leafLower c dom true n1).modCrewLanes c crew (fun x => x.park c i)
        | none => t
      .next (t.modCrew c crew (fun w => { w with parking := 2, parkRef := entry }))
  | _ => .next s

/-- HOLD_DECREMENT_ARRIVAL (R333): an entry whose counts reach zero becomes free. -/
def execHoldDecrementArrival (s : State) : Out :=
  match s.takeL s.arg.a with
  | some (.holdDec (.leaf c) dom colour, t) => .next (t.leafLower c dom colour 1)
  | some (.holdDec (.parked i) _ colour, t) =>
    match mfind t.lodge.parked i with
    | none => .next t
    | some e =>
      let e := if colour then { e with cnt1 := e.cnt1 - 1 } else { e with cnt0 := e.cnt0 - 1 }
      .next (t.modLodge (fun l => { l with
        parked := if e.cnt0 = 0 ∧ e.cnt1 = 0 then merase l.parked i else minsert l.parked i e }))
  | some (.holdDec .nowhere _ _, t) => .next t
  | _ => .next s

/-- STALE_READ_INCREMENT (R334). -/
def execStaleReadIncrement (s : State) : Out :=
  match s.takeL s.arg.a with
  | some (.stale part, t) =>
    .next (t.modLodge (fun l => { l with stale := minsert l.stale part (mget 0#64 l.stale part + 1) }))
  | _ => .next s

/-- The value of GPSTAT (R225). -/
def State.gpstatOf (s : State) (dom part k : Nat) : BitVec 32 :=
  let x := s.dom dom
  let stale := mget 0#64 s.lodge.stale part
  match k with
  | 0 => x.freed
  | 1 => x.last
  | 2 => BitVec.ofNat 32 ((if x.colour then 1 else 0) + (if x.run then 2 else 0) + 2 ^ 16 * x.occ)
  | 3 => x.version
  | 4 => stale.setWidth 32
  | _ => (stale >>> 32).setWidth 32

/-- GPSTAT_SERVE (R225). -/
def execGpstatServe (s : State) : Out :=
  match s.takeL s.arg.a with
  | some (.gpstat c id dom part k, t) => .next (t.giveStatus c id (s.gpstatOf dom part k))
  | _ => .next s

/-- CHORE_PULSE_ARRIVAL (R242). -/
def execChorePulseArrival (s : State) : Out :=
  match s.takeL s.arg.a with
  | some (.chorePulse c, t) => .next (t.trapPulse c)
  | _ => .next s

end Sys2Proof.Machine
end

