-- ==== Sys2Proof/Machine/Budget.lean ====
section
/-! DEFINITION. Activity windows, temperatures and clocks (R320, R396 to R398). -/

namespace Sys2Proof.Machine

/-! ### Windows (R320) -/

/-- The totals of a die's window by 16·partition + event: the counts of the window, and one charge for each core of the die in a
partition's CMASK. -/
def State.windowTotals (s : State) (die : Nat) : SMap Nat :=
  mputs 0 [] ((List.range 64).flatMap (fun x =>
    (List.range 7).map (fun e => (16 * x + e, mget 0 s.power.counts (16 * (64 * die + x) + e))) ++
      [(16 * x + 7, ((List.range 40).filter (fun i => (s.part x).cmask.getLsbD (40 * die + i))).length)]))

/-- The clock of a die at the end of a window (R398): a die that has reached 105 °C slows, and one that has fallen below 100 °C
since is fast again. -/
def Power.turn (p : Power) (die : Nat) : Power :=
  if die ∈ p.slow then
    if die ∈ p.cool && ! decide (die ∈ p.hot) then { p with slow := p.slow.filter (· ≠ die) } else { p with hot := p.hot.filter (· ≠ die) }
  else if die ∈ p.hot then { p with slow := die :: p.slow, hot := p.hot.filter (· ≠ die) }
  else p

/-- BUDGET_WINDOW_END (R320, R398): the counts of the window's events go to the Lodge, and start anew. (log 53, DESIGN CHOICE) -/
def execBudgetWindowEnd (s : State) : Out :=
  let die := s.arg.a
  let s := s.sendL (.totals die (! decide (die ∈ s.power.slow)) (s.windowTotals die))
  let p := { s.power with counts := s.power.counts.filter (fun e => e.1 / 1024 ≠ die) }
  .next { s with power := p.turn die }

/-- TOTALS_ARRIVAL (R320). -/
def execTotalsArrival (s : State) : Out :=
  match s.takeL s.arg.a with
  | some (.totals die fast counts, t) =>
    .next { t with power := { t.power with
      latest := minsert t.power.latest die counts
      slowRan := (if fast then [] else [die]) ++ t.power.slowRan.filter (· ≠ die) } }
  | _ => .next s

/-! ### Temperatures (R396 to R398) -/

/-- The temperature of a unit: the highest of its sixteen sensors (R396). (log 53, DESIGN CHOICE) -/
def hottest (xs : List Nat) (u : Nat) : Nat := maxNat ((xs.drop (16 * u)).take 16)

/-- The package limit for the temperatures of the units (R397). -/
def limitFor (ts : List Nat) : Nat := if ts.any (95 ≤ ·) then 2600 else 3000

/-- The critical trip (R398): every partition is contained, no crew gang issues, and start fails with FCAUSE 6. -/
def State.trip (s : State) (u : Nat) : State :=
  let s := (List.range 64).foldl (fun (s : State) x => s.raiseContain x) s
  let s : State := { s with power := { s.power with tripped := true } }
  (s.logEvent 5 0xFF u 0 0xFFFFFFFF 0).modLodge (fun l => { l with fail := true, fcause := 6 })

/-- SENSOR_SAMPLE (R396 to R398): the list holds sixteen readings of each die and of the Lodge. (log 53, DESIGN CHOICE) -/
def execSensorSample (s : State) : Out :=
  let ts := (List.range 5).map (hottest s.arg.nats)
  let dies := fun (f : Nat → Bool) => (List.range 4).filter (fun d => f (ts.getD d 0))
  let old := s.power.limit
  let new := limitFor ts
  let s : State := { s with power := { s.power with
    temps := mputs 0 [] ((List.range 5).zip ts), limit := new
    hot := joinNew s.power.hot (dies (105 ≤ ·))
    cool := joinNew (s.power.cool.filter (fun d => ! decide (d ∈ dies (105 ≤ ·)))) (dies (· < 100)) } }
  let u := ((List.range 5).find? (fun i => ts.getD i 0 = maxNat ts)).getD 0
  let s := if old = new then s else s.logEvent 4 0xFF u 0 0xFFFFFFFF 0
  .next (if ts.any (115 ≤ ·) && ! s.power.tripped then s.trip u else s)

end Sys2Proof.Machine
end

