-- ==== Sys2Proof/Machine/Contain.lean ====
section
/-! DEFINITION. Containment of a partition (R303, R353, R393, R394). -/

namespace Sys2Proof.Machine

/-- The word of a partition in the integrity record (R392). -/
def containWord (x : Nat) : Nat := 0x7FFFFC0400 + 8 * x

/-- The queues that no Pergola knows and whose descriptors may hold something; LOGN is never zero in a well-formed one, so that memory
lists its byte (R302). (log 54, DEDUCED) -/
def State.listedQueues (s : State) : List Nat :=
  let base := s.lodge.qtbase.toNat
  (((mkeys s.mem).filter (fun a => decide (base + 8 ≤ a ∧ (a - base) % 64 = 8 ∧ (a - base) / 64 < 65536))).map
    (fun a => (a - base) / 64)).filter (fun q => (mfind s.pergola.queues q).isNone)

/-- The queues of a partition (R302, R393): those that the Pergolas know, and those whose well-formed descriptor names it.
(log 54, DEDUCED) -/
def State.queuesOf (s : State) (x : Nat) : List Nat :=
  joinNew ((s.pergola.queues.filter (fun e => e.2.part = x)).map (·.1)) (s.listedQueues.filter (fun q =>
    let a := s.descAt q
    s.rangeOk a 64 && ! descBad (s.bytes a 64) && fieldAt (s.bytes a 64) 11 1 = x))

/-- What beginning a containment reads has come: the partition's word of the integrity record, and the descriptors. -/
def State.containReads (s : State) (x : Nat) : State × Bool :=
  let g := s.accessBoth { a := containWord x, n := 8 }
  let ds := s.listedQueues.map (fun q => ({ a := s.descAt q, n := 64 } : Spot))
  if ! g.2 then g
  else
    let h := g.1.accessAll false ds
    if h.2 then (h.1.servedAll ds, true) else h

/-- A queue stops for containment (R303, R393): RDX addresses its oldest packet that has not completed, and SPKT holds the address of
that packet. (log 54, DEDUCED) -/
def State.stopForContain (s : State) (q : Nat) : State :=
  let x := (mfind s.pergola.queues q).getD (queueOf (s.bytes (s.descAt q) 64))
  let rdx := (minNat (x.runs.map (·.index))).getD x.rdx
  let s := s.setQueue q { x with state := 6, slot := none, rdx := rdx, frames := [], runs := [], park := none, told := false }
  let s := (s.descWrite q 0 16 (leBytes 8 rdx)).descWrite q 0 32
    (leBytes 4 6 ++ leBytes 4 0 ++ leBytes 8 (x.ring + 64 * (rdx % 2 ^ x.logn)))
  s.modPerg (fun p => { p with
    signals := p.signals.filter (· ≠ q)
    pendq := p.pendq.map (fun (e : Nat × List Nat) => (e.1, e.2.filter (· ≠ q)))
    graphs := p.graphs.filter (fun g => g.2.queue ≠ q) })

/-- CONTAINMENT (R393 step 1): one that is raised while another of the partition is under way joins it. (log 54, DEDUCED) -/
def execContainment (s : State) : Out :=
  let x := s.arg.a
  if ! decide (x ∈ s.lodge.contain) then .next s
  else
    let r := if s.contained x then (s, true) else s.containReads x
    if ! r.2 then .next (s.asked r.1)
    else
    let s := r.1.modLodge (fun l => { l with contain := l.contain.filter (· ≠ x) })
    if s.contained x then .next s
    else
      let n := (s.word64 (containWord x)).toNat / 2 ^ 32
      let s := s.ownWrite lodgePort 0 (containWord x) (leBytes 8 (1 + 2 ^ 32 * (n + 1)))
      let s := s.modLodge (fun l => { l with
        reported := minsert l.reported x []
        parts := minsert l.parts x { mget {} l.parts x with en := false } })
      let s := (s.queuesOf x).foldl (fun (s : State) q => s.stopForContain q) s
      .next (((List.range 160).foldl (fun (s : State) c => s.sendL (.contain c x)) s).postChore 4 [x])

/-- Commands of a crew leave the queues of its core. One that awaits the answer of another module stays, as an entry with no
effect, until the answer has come. (log 55, DEDUCED) -/
def Core.dropAll (k : Core) (n : Nat) : Core :=
  { k with queues := k.queues.map (fun (q : Nat × List ACmd) => (q.1,
      (q.2.filter (fun a => a.crew ≠ n || a.part = 64 || a.await)).map (fun a =>
        if a.crew = n && a.part ≠ 64 then { command .fence 0 [] with id := a.id, slot := 255, part := 64, stage := 3, await := true }
        else a))) }

/-- A crew is discarded (R393 step 3): its commands, its table entries and its Trellis operations are abandoned, its holds
are released with no check for stale reads, a save of it ends with its area empty, and its resources return.
(log 55, DEDUCED) -/
def State.discard (s : State) (c n : Nat) : State :=
  let w := s.crew c n
  let s := match w.saving with
    | some v => ((clipSpots v.spots 4).foldl (fun (s : State) (x : Spot) => s.ownWrite (enginePort c) 0 x.a (leBytes x.n 0) x.spl) s).modCore c
        (fun x => { x with saveLost := x.saveLost ++ [v.seq] })
    | none => s
  let holds := (s.lanesOf c n).filter (fun x => x.nest ≠ 0)
  let s := holds.foldl (fun (s : State) x => s.releaseHold c w.dom w.part x false) s
  let m := s.cme (clusterOf c)
  let s : State := { s with
    cmes := minsert s.cmes (clusterOf c) { m with table := m.table.filter (fun e => ! (e.core = c && e.crew = n)) }
    tops := s.tops.filter (fun t => ! (t.core = c && t.crew = n)) }
  let s := s.modCore c (fun k => { k.dropAll n with
    accs := k.accs.filter (fun a => a.crew ≠ n), asyncQ := k.asyncQ.filter (fun t => ! decide (t.gang ∈ w.slots)) })
  s.freeCrew c n

/-- CONTAINMENT_NOTICE (R393 steps 2 and 3): from now on no gang of the partition issues on the core, since none is left. -/
def execContainmentNotice (s : State) : Out :=
  match s.takeL s.arg.a with
  | some (.contain c x, t) =>
    let ns := ((t.core c).crews.filter (fun e => e.1 ≠ 0 && e.2.part = x)).map (·.1)
    let t := ns.foldl (fun (t : State) n => t.discard c n) t
    .next (t.modLodge (fun l => match mfind l.reported x with
      | none => l
      | some cs => { l with reported := minsert l.reported x (if c ∈ cs then cs else cs ++ [c]) }))
  | _ => .next s

/-- Holds of a partition, or a notice that it is contained, are still on their way between a core and the Lodge. (log 54, DEDUCED) -/
def State.holdsMoving (s : State) (x : Nat) : Bool :=
  s.lodge.msgs.any (fun m => match m with
    | .park _ _ _ p _ _ => p = x
    | .contain _ p => p = x
    | .parkAck _ _ _ _ _ (some i) => ((mfind s.lodge.parked i).map (·.part)) = some x
    | .holdDec (.parked i) _ _ => ((mfind s.lodge.parked i).map (·.part)) = some x
    | _ => false)

/-- The stop of a queue is still being written to its descriptor (R303). -/
def State.stopsMoving (s : State) (x : Nat) : Bool :=
  s.pergola.queues.any (fun e => e.2.part = x && ! e.2.told &&
    s.ops.any (fun o => o.core = pergolaPort e.2.die && o.touches (s.descAt e.1) 64))

/-- Every core has reported (R393 step 5). -/
def State.allReported (s : State) (x : Nat) : Bool :=
  match mfind s.lodge.reported x with
  | none => false
  | some cs => s.cores.all (fun c => ! c.2.online || decide (c.1 ∈ cs)) && ! s.holdsMoving x && ! s.stopsMoving x

/-- CONTAINMENT_COMPLETE (R393 steps 4 and 5): its parked holds are freed, its grids are given up and their regions released,
and the host is told of each queue that stopped. (log 54, DEDUCED) -/
def execContainmentComplete (s : State) : Out :=
  let x := s.arg.a
  let r := s.accessBoth { a := containWord x, n := 8 }
  if ! s.allReported x then .next s
  else if ! r.2 then .next (s.asked r.1)
  else
    let s := r.1
    let n := (s.word64 (containWord x)).toNat / 2 ^ 32
    let grids := (s.pergola.grids.map (·.2)).filter (fun g => fieldAt g.hdr 58 1 = x)
    let s := grids.foldl (fun (s : State) g => (s.dropGrid g).forgetChain g.id) s
    let s := s.modLodge (fun l => { l with
      parked := l.parked.filter (fun e => e.2.part ≠ x), reported := merase l.reported x })
    let id := s.nextId
    let s := s.bump.ownWrite lodgePort id (containWord x) (leBytes 8 (2 + 2 ^ 32 * n))
    let qs := s.pergola.queues.filter (fun e => e.2.part = x && ! e.2.told)
    let s : State := { s with host := { s.host with notices := s.host.notices ++ qs.map (fun e => (id, e.2.vec)) } }
    .next (s.modPerg (fun p => { p with queues := p.queues.map (fun (e : Nat × Queue) =>
      if e.2.part = x then (e.1, { e.2 with told := true }) else e) }))

/-! ### Soft errors (R391) -/

/-- The next read of a word with a soft error: an error that is corrected is counted and changes nothing else; another is logged
and acts on the word's owner. (log 77, DESIGN CHOICE) -/
def State.findUpset (s : State) (u : Upset) : State :=
  let log := fun (part : Nat) => s.logEvent 2 part u.unit u.cls u.core u.addr
  if u.corrected then s.countCorrected u.unit u.cls
  else match u.owner with
    | .crew part => (log part).raiseContain part
    | .record h => match s.record? h with
      | none => log 0xFF
      | some r => ((log r.part).closeRecord h).raiseContain r.part
    | .nobody => log 0xFF
    | .everyone => (List.range 64).foldl State.raiseContain (log 0xFF)
    | .priv c => (s.modGang c privSlot (fun g => { g with stopped := true })).coreFatal c

end Sys2Proof.Machine
end

