-- ==== Sys2Proof/Machine/HostLink.lean ====
section
/-! DEFINITION. The host link: training, half-held lines, the victim buffer, host access to device memory and page bias
(R362 to R369, R380, R390). -/

namespace Sys2Proof.Machine

def State.modHost (s : State) (f : HostLink → HostLink) : State := { s with host := f s.host }

/-- Sends the host an answer: the address or half it concerns, and its bytes, none when it carries no data. -/
def State.reply (s : State) (a : Nat) (bs : List (BitVec 8)) : State :=
  s.modHost (fun h => { h with replies := h.replies ++ [(a, bs)] })

/-- Sends the host the bytes of a range; where a check fails they are not sent, and the event log alone records it (R389, R390). -/
def State.replyChecked (s : State) (tag a n : Nat) : State :=
  match s.firstBad [(a, n)] with
  | some q => (s.mismatch 64 0xFFFFFFFF q).reply tag []
  | none => s.reply tag (s.bytes a n)

/-- HOST_LINK_TRAINING (R362): the mode is settled before device memory is reached. (log 57, DESIGN CHOICE) -/
def execHostLinkTraining (s : State) : Out :=
  if 2 ≤ s.lodge.stage then .next s else .next (s.modLodge (fun l => { l with cxl := s.arg.flag }))

/-! ### Device access to host memory (R364 to R366) -/

/-- Lines whose eviction waited for the victim buffer go on (R366). -/
def State.retryEvictions (s : State) : State :=
  ((mkeys s.dir).foldl (fun (s : State) key =>
    match s.entry? key with
    | some e => if e.st = .evicting && decide (e.waitInv = []) && ! e.writeBack then s.evictDone key e else s
    | none => s) s).pumped

/-- HOST_GRANT (R365, R389): RdShared gives S or E, RdOwn gives E; the bytes are those the host returns, and their sectors take fresh
check values. (log 65, DESIGN CHOICE) -/
def execHostGrant (s : State) : Out :=
  let h := s.arg.a
  let excl := s.arg.flag
  if ! (decide ((h, false) ∈ s.host.asked) || (decide ((h, true) ∈ s.host.asked) && excl)) then .next s
  else
    let s := if s.arg.bytes.length = 64 then s.ingress (64 * h) s.arg.bytes else s
    .next (s.modHost (fun x => { x with
      asked := x.asked.filter (fun q => ! (q.1 = h && (excl || ! q.2)))
      halves := minsert x.halves h (if excl then HalfSt.excl else HalfSt.shared) })).pumped

/-- The host line of a half leaves every L1, and stays in L2 (R365). -/
def State.dropFromL1 (s : State) (h : Nat) : State :=
  let key := dirKey (64 * h / 128 * 128) 128
  match s.entry? key with
  | none => s
  | some e =>
    if e.st = .evicting || e.fetching then s
    else
      let s := s.evict key e true
      match s.entry? key with
      | some e => (s.evictDone key e).pumped
      | none => s

/-- A snoop of a half (R365, R366): what the host is answered, and the state that the half moves to. One in the victim buffer is
answered from there, and its data phase is then Bogus. Data whose check fails is not sent, and is logged (R389, R390).
(log 66, DEDUCED) -/
def State.snoop (s : State) (h : Nat) (inv : Bool) : State :=
  match s.host.victims.find? (fun v => v.1 = h && ! v.2.2) with
  | some v =>
    (s.modHost (fun x => { x with victims := x.victims.map (fun (w : Nat × List (BitVec 8) × Bool) =>
      if w.1 = h then (w.1, w.2.1, true) else w) })).reply h v.2.1
  | none =>
    let set := fun (s : State) (st : HalfSt) => s.modHost (fun x => { x with halves := mput .inv x.halves h st })
    let left : HalfSt := if inv then .inv else .shared
    let s := match mget .inv s.host.halves h with
      | .inv => s.reply h []
      | .modif => (set s left).replyChecked h (64 * h) 64
      | _ => (set s left).reply h []
    if inv then s.dropFromL1 h else s

/-- SNP_DATA (R365). -/
def execSnpData (s : State) : Out := .next (s.snoop s.arg.a false)
/-- SNP_INV (R365): the line leaves the L1s when the half was held. (log 66, DEDUCED) -/
def execSnpInv (s : State) : Out := .next (s.snoop s.arg.a true)

/-- GO_WRITEPULL (R366): the data leaves, or a Bogus phase without use, and the buffer entry is free. -/
def execGoWritepull (s : State) : Out :=
  match s.host.victims.find? (fun v => v.1 = s.arg.a) with
  | none => .next s
  | some v => .next (((s.modHost (fun x => { x with victims := x.victims.filter (fun w => w.1 ≠ v.1) })).reply v.1
      (if v.2.2 then [] else v.2.1)).retryEvictions)

/-! ### Bias (R368, R369) -/

/-- A page of HBM. -/
def biasPage (p : Nat) : Bool := decide (p < 2 ^ 27)

def State.flipOf (s : State) (page : Nat) : Option Flip := s.host.flips.find? (fun f => f.page = page)

def State.modFlip (s : State) (page : Nat) (f : Flip → Flip) : State :=
  s.modHost (fun h => { h with flips := h.flips.map (fun x => if x.page = page then f x else x) })

/-- Answers of the host for halves of a page are void. -/
def State.forgetAnswers (s : State) (page : Nat) : State :=
  s.modHost (fun h => { h with answered := h.answered.filter (fun x => x.1 / 64 ≠ page) })

/-- A flip to host bias begins (R369). -/
def State.flipToHost (s : State) (page : Nat) : State :=
  if ! s.lodge.cxl || ! biasPage page || decide (page ∈ s.host.hostBias) || (s.flipOf page).isSome then s
  else s.modHost (fun h => { h with flips := h.flips ++ [{ page := page, toHost := true }] })

/-- A flip to device bias begins: every half of the page is back-invalidated (R368). -/
def State.flipToDevice (s : State) (page : Nat) : State :=
  if ! s.lodge.cxl || ! decide (page ∈ s.host.hostBias) || (s.flipOf page).isSome then s
  else
    let hs := (List.range 64).map (fun i => 64 * page + i)
    s.modHost (fun h => { h with
      flips := h.flips ++ [{ page := page, toHost := false, snoops := hs }]
      snoops := joinNew h.snoops (hs.map (fun x => (x, true))) })

/-- BIAS_TO_HOST (R369). -/
def execBiasToHost (s : State) : Out := .next (if s.worksFrom 2 then s.flipToHost s.arg.a else s)
/-- BIAS_TO_DEVICE (R368). -/
def execBiasToDevice (s : State) : Out := .next (if s.worksFrom 2 then s.flipToDevice s.arg.a else s)

/-- Bytes that the host writes to its place in device memory in CXL mode: they stand in HBM at once, and make no half of the slices dirty
(R368, R369). -/
def State.hostPut (s : State) (a : Nat) (bs : List (BitVec 8)) : State :=
  match s.writeBad [(a, bs.length)] with
  | some q => s.mismatch 64 0xFFFFFFFF q
  | none =>
    let t := (s.homeWrite hostPort 0 a bs).1
    { t with dir := t.dir.map (fun (e : Nat × DirEntry) => match mfind s.dir e.1 with
        | some o => (e.1, { e.2 with dirty := o.dirty, soiler := o.soiler })
        | none => e) }

/-- BISNP_RESPONSE (R368): the answer to a BISnpInv when the flag is set, to a BISnpData when it is not; the host's data, when it held
the half modified, comes with it. The last response of a flip to device bias clears the page's bit. (log 65, DESIGN CHOICE)
(log 66, DEDUCED) -/
def execBisnpResponse (s : State) : Out :=
  let h := s.arg.a
  let x : Nat × Bool := (h, s.arg.flag)
  if ! decide (x ∈ s.host.snoops) then .next s
  else
    let s := if s.arg.bytes.length = 64 then s.hostPut (64 * h) s.arg.bytes else s
    let s := s.modHost (fun l => { l with
      snoops := l.snoops.filter (· ≠ x)
      answered := joinNew l.answered [x]
      flips := if x.2 then l.flips.map (fun (f : Flip) => { f with snoops := f.snoops.filter (· ≠ h) }) else l.flips })
    let page := h / 64
    let last := s.host.flips.any (fun f => f.page = page && ! f.toHost && decide (f.snoops = []))
    let s := if last then
        (s.modHost (fun x => { x with
          flips := x.flips.filter (fun f => f.page ≠ page)
          hostBias := x.hostBias.filter (· ≠ page) })).forgetAnswers page
      else s
    .next s.pumped

/-- A request of the host to device memory in CXL mode is served at its home; a read whose check fails carries no data (R368,
R390). (log 66, DEDUCED) -/
def State.serveHost (s : State) (a : Nat) (write : Bool) (bs : List (BitVec 8)) : State :=
  if write then s.hostPut a bs else s.replyChecked a (64 * (a / 64)) 64

/-- A half is dirty in L2. -/
def State.halfDirty (s : State) (h : Nat) : Bool := s.dir.any (fun e => decide (h ∈ e.2.dirty))

/-- Requests held behind a flip leave once their halves are written (R369). -/
def State.releaseHeld (s : State) (page : Nat) : State :=
  match s.flipOf page with
  | none => s
  | some f =>
    let free := f.heldReqs.filter (fun r => ! s.halfDirty (halfOf r.1))
    free.foldl (fun (s : State) r => s.serveHost r.1 r.2.1 r.2.2)
      (s.modFlip page (fun f => { f with heldReqs := f.heldReqs.filter (fun r => s.halfDirty (halfOf r.1)) }))

/-- HOST_CXL_MEM_REQUEST (R368, R369). -/
def execHostCxlMemRequest (s : State) : Out :=
  let a := s.arg.a
  let page := pageOf a
  if ! s.lodge.cxl || ! biasPage page then .next s
  else if ! s.worksFrom 2 then .next (if s.arg.flag then s else s.reply a (List.replicate 64 0xFF#8))
  else if decide (page ∈ s.host.hostBias) then .next (s.serveHost a s.arg.flag s.arg.bytes)
  else
    let s := s.flipToHost page
    .next (if s.halfDirty (halfOf a) then
        s.modFlip page (fun f => { f with heldReqs := f.heldReqs ++ [(a, s.arg.flag, s.arg.bytes)] })
      else s.serveHost a s.arg.flag s.arg.bytes)

/-- What the slices hold of a line of a flipping page: an entry with nothing dirty and no target, at which requests wait, holds
nothing. (log 66, DEDUCED) -/
def State.heldEntry (s : State) (line : Nat) : Option (Nat × DirEntry) :=
  s.dir.find? (fun e => keyUnit e.1 / 128 = line && (e.2.st ≠ .idle || e.2.dirty ≠ [] || e.2.queued = []))

/-- BIAS_FLIP_LINE (R369): one step of a flip to host bias. The line in turn is examined: when it is held, its copies are
invalidated, then each dirty half is written, low half first, and requests held for it leave; a line that is not held is
done. After the last, with no half of the page dirty, the bit is set and what waited goes on. -/
def execBiasFlipLine (s : State) : Out :=
  let page := s.arg.a
  let s := s.releaseHeld page
  match s.flipOf page with
  | none => .next s
  | some f =>
    if ! f.toHost then .next s
    else if 32 ≤ f.line && (List.range 64).any (fun i => s.halfDirty (64 * page + i)) then
      .next (s.modFlip page (fun f => { f with line := 0 }))
    else if 32 ≤ f.line then
      .next ((s.modHost (fun h => { h with
        flips := h.flips.filter (fun x => x.page ≠ page)
        hostBias := joinNew h.hostBias [page] })).forgetAnswers page).pumped
    else match s.heldEntry (32 * page + f.line) with
      | none => .next (s.modFlip page (fun f => { f with line := f.line + 1 }))
      | some (key, e) =>
        if e.fetching || e.writeBack then .next s
        else if e.st ≠ .evicting then
          let s := s.evict key e false
          match s.entry? key with
          | some e => .next (s.evictDone key e)
          | none => .next s
        else if e.waitInv ≠ [] then .next s
        else match e.dirty with
          | [] => .next (s.freeEntry key e)
          | _ :: rest => .next ((s.setEntry key { e with dirty := rest }).releaseHeld page)

/-! ### Host access in PCIe mode (R363, R367, R380) -/

/-- An access of the host stays first in line until the slice can serve it. -/
def State.later (s : State) (i : Instr) (a : EvArg) : State := { s with agenda := (i, a) :: s.agenda }

/-- BAR2 reaches an address. -/
def bar2Range (a n : Nat) : Bool := decide (a + n ≤ 0x8000000000)

/-- A half of host memory that the device does not hold: the host may write its own copy. -/
def State.hostOwns (s : State) (a n : Nat) : Bool :=
  decide (targetOf a = .host ∧ targetOf (a + n - 1) = .host) &&
    (! s.lodge.cxl || (halvesOf a n).all (fun h =>
      decide (mget .inv s.host.halves h = .inv) && s.host.victims.all (fun v => v.1 ≠ h || v.2.2)))

/-- HOST_WRITE (R364, R367, R389): through BAR2 in PCIe mode, one aligned 4-byte word in a step, or a sector that is written whole, the
rest behind it; to its own memory where the device holds nothing of it. (log 65, DESIGN CHOICE) (log 66, DEDUCED) -/
def execHostWrite (s : State) : Out :=
  let a := s.arg.a
  let bs := s.arg.bytes
  if bs = [] then .next s
  else if s.hostOwns a bs.length then .next (s.ingress a bs)
  else if s.lodge.cxl || ! s.worksFrom 2 || ! bar2Range a bs.length then .next s
  else
    let n := if a % 32 = 0 && 32 ≤ bs.length then 32 else 4 - a % 4
    let g := s.access true { a := a, n := n }
    if ! g.2 then .next (g.1.later .hostWrite s.arg)
    else
      let t := g.1.ownWrite hostPort 0 a (bs.take n)
      .next (if bs.drop n = [] then t else t.later .hostWrite { s.arg with a := a + n, bytes := bs.drop n })

end Sys2Proof.Machine
end

