-- ==== Sys2Proof/Machine/Registers.lean ====
section
/-! DEFINITION. The Lodge register window (R319, R329, R334, R337, R357, R363, R372, R373, R379, R380, R386) and host reads. -/

namespace Sys2Proof.Machine

/-- The start status register (R379). -/
def Lodge.status (l : Lodge) : Nat :=
  l.stage % 16 + (if l.hoip then 2 ^ 8 else 0) + 2 ^ 16 * l.dies.toNat + 2 ^ 24 * (l.fcause % 128) + (if l.fail then 2 ^ 31 else 0)

/-! ### Register images -/

def bit (b : Bool) (i : Nat) : Nat := if b then 2 ^ i else 0

/-- Bits hi to lo of a register image. -/
def field (v hi lo : Nat) : Nat := v / 2 ^ lo % 2 ^ (hi - lo + 1)

/-- A partition record (R319). -/
def Part.image (p : Part) : Nat :=
  bit p.en 0 + 2 ^ 56 * p.cores + 2 ^ 64 * p.hbmsh + 2 ^ 80 * p.power + 2 ^ 96 * p.cmask.toNat
def Part.of (v : Nat) : Part :=
  { cmask := BitVec.ofNat 160 (v / 2 ^ 96), power := field v 95 80, hbmsh := field v 72 64, cores := field v 63 56
    en := decide (v % 2 = 1) }

/-- DCFG and DSTAT of a domain (R329). -/
def Dom.dcfg (x : Dom) : Nat := bit x.en 0 + 2 ^ 6 * x.flist.toNat + 2 ^ 64 * x.cword.toNat
def Dom.dstat (x : Dom) : Nat :=
  bit x.colour 0 + bit x.run 1 + 2 ^ 3 * x.unack + 2 ^ 16 * x.occ + 2 ^ 32 * x.last.toNat + 2 ^ 64 * x.freed.toNat +
    2 ^ 96 * x.version.toNat

/-- A region entry (R337). -/
def Region.image (x : Region) : Nat :=
  2 ^ 16 * x.base + 2 ^ 32 * x.size + 2 ^ 48 * x.die + 2 ^ 50 * x.state + 2 ^ 52 * x.bcnt

/-- A fabric window (R373). -/
def Window.image (w : Window) : Nat :=
  bit w.en 0 + bit w.write 1 + bit w.atomics 2 + 2 ^ 8 * w.part + 2 ^ 128 * w.size.toNat + 2 ^ 192 * w.base.toNat
def Window.of (v : Nat) : Window :=
  { base := BitVec.ofNat 64 (v / 2 ^ 192), size := BitVec.ofNat 64 (field v 191 128), part := field v 13 8
    atomics := (v / 4) % 2 = 1, write := (v / 2) % 2 = 1, en := v % 2 = 1 }

/-- A register of the map: its offset and width in bytes, its value as read, whether it reads as zero and is only written, and
the stage from which it works (R363, R380). -/
structure RegAt where
  base : Nat
  bytes : Nat
  val : Nat
  wo : Bool := false
  stage : Nat := 2
deriving DecidableEq, Repr

/-- A register of an array, with its index. -/
def inArray (off base size n : Nat) : Option Nat :=
  if base ≤ off ∧ off < base + size * n then some ((off - base) / size) else none

/-- The register at an offset, if the map lists one there (R363). -/
def State.regAt (s : State) (off : Nat) : Option RegAt :=
  let l := s.lodge
  let one := fun (base bytes val stage : Nat) (wo : Bool) =>
    (inArray off base bytes 1).map (fun _ => ({ base := base, bytes := bytes, val := val, stage := stage, wo := wo } : RegAt))
  let array := fun (base bytes n stage : Nat) (f : Nat → Nat) =>
    (inArray off base bytes n).map (fun i => ({ base := base + bytes * i, bytes := bytes, val := f i, stage := stage } : RegAt))
  let doms := (inArray off 0x13000 64 16).bind (fun d =>
    let b := 0x13000 + 64 * d
    if off < b + 16 then some ({ base := b, bytes := 16, val := (s.dom d).dcfg } : RegAt)
    else if off < b + 32 then some { base := b + 16, bytes := 16, val := (s.dom d).dstat }
    else if off < b + 36 then some { base := b + 32, bytes := 4, val := 0, wo := true }
    else none)
  [ one 0 4 l.status 0 false,
    one 0x1000 4 0 3 true,
    one 0x1008 8 l.qtbase.toNat 3 false,
    one 0x2000 4 l.nodeid.toNat 2 false,
    one 0x2008 4 l.mgmtvec.toNat 0 false,
    one 0x3000 8 0 2 true,
    array 0x10000 32 64 2 (fun i => (mget {} l.parts i).image),
    array 0x11000 8 64 2 (fun i => (mget 0#64 l.stale i).toNat),
    array 0x12000 8 65 2 (fun i => (mget 0#64 l.roots i).toNat),
    doms,
    array 0x14000 8 1024 2 (fun i => (mget {} l.regions i).image),
    array 0x18000 32 64 2 (fun i => (mget {} l.windows i).image),
    array 0x20000 8 4096 2 (fun i => (mget 0#64 l.routes i).toNat),
    one 0x30000 4 0 0 true,
    one 0x30008 4 (l.mbState + 16 * l.mbCode) 0 false,
    array 0x30100 8 32 0 (fun i => leNat ((List.range 8).map (fun j => mget 0#8 l.mbReq (8 * i + j)))),
    array 0x30800 8 256 0 (fun i => leNat ((l.mbResp.drop (8 * i)).take 8)) ].findSome? id

/-- Accesses must be 4 or 8 bytes, naturally aligned (R363). -/
def regAccess (off len : Nat) : Bool := (len = 4 && off % 4 = 0) || (len = 8 && off % 8 = 0)

/-- A read of the register window (R363, R380). -/
def State.readReg (s : State) (off len : Nat) : BitVec 64 :=
  if ! regAccess off len then BitVec.allOnes 64
  else match s.regAt off with
    | none => 0#64
    | some r =>
      if r.wo || ! s.worksFrom r.stage then 0#64 else BitVec.ofNat 64 (r.val / 2 ^ (8 * (off - r.base)) % 2 ^ (8 * len))

/-! ### Writes with rules of their own -/

/-- A partition record (R319, R393). -/
def State.writePart (s : State) (i v : Nat) : State :=
  let p := Part.of v
  let shared := (List.range 64).any (fun j => j ≠ i && (mget {} s.lodge.parts j).cmask &&& p.cmask ≠ 0#160)
  if shared || 256 < p.hbmsh || (p.en && s.contained i) then s
  else s.modLodge (fun l => { l with parts := minsert l.parts i p })

/-- DCFG (R329). -/
def State.writeDcfg (s : State) (d v : Nat) : State :=
  let x := s.dom d
  let cword := v / 2 ^ 64 % 2 ^ 64
  let flist := field v 63 6
  let covered := fun (a : Nat) => decide (targetOf a = .hbm ∨ targetOf a = .host)
  if x.occ ≠ 0 || cword % 8 ≠ 0 || (cword ≠ 0 && ! covered cword) || ! covered (64 * flist) then s
  else s.setDom d { x with cword := BitVec.ofNat 64 cword, flist := BitVec.ofNat 64 flist, en := decide (v % 2 = 1) }

/-- A region of the Glasshouse table (R337). -/
def State.writeRegion (s : State) (i v : Nat) : State :=
  let old := mget {} s.lodge.regions i
  let new : Region := { old with state := field v 51 50, die := field v 49 48, size := field v 44 32, base := field v 28 16 }
  let meets := fun (e : Nat × Region) => e.1 ≠ i && e.2.state ≠ 0 && e.2.die = new.die &&
    decide (e.2.base < new.base + new.size ∧ new.base < e.2.base + e.2.size)
  if new.state = 3 || 6144 < new.base + new.size || (new.state ≠ 0 && s.lodge.regions.any meets) || old.bcnt ≠ 0 ||
      old.state = 2 then s
  else s.modLodge (fun l => { l with regions := minsert l.regions i new })

/-- NODEID (R372). -/
def State.writeNodeid (s : State) (v : Nat) : State :=
  if 200000 ≤ v % 2 ^ 18 then s
  else s.modLodge (fun l => { l with nodeid := BitVec.ofNat 32 (v % 2 ^ 18 + 2 ^ 31 * (v / 2 ^ 31 % 2)) })

/-- A request reaches the attestation engine's queue, from the mailbox or as a DOE object (R382, R386).
(log 62, DEDUCED) (log 63, DEDUCED) -/
def State.submit (s : State) (doe : Bool) (bs : List (BitVec 8)) : State :=
  (s.modLodge (fun l => { l with
    requests := l.requests ++ [(doe, bs)]
    mbState := if doe then l.mbState else 1 })).postChore 5 [if doe then 1 else 0]

/-- MBCTL (R386). (log 62, DEDUCED) -/
def State.writeMbctl (s : State) (v : Nat) : State :=
  if v % 2 = 0 then s else s.submit false ((List.range 256).map (mget 0#8 s.lodge.mbReq))

/-- BIASCTL (R368). -/
def State.writeBias (s : State) (v : Nat) : State :=
  let page := field v 38 12
  if v / 2 ^ 63 % 2 = 1 then s.flipToHost page else s.flipToDevice page

/-- A whole register takes its new value; reserved bits stay zero and read-only registers are left alone (R363).
(log 60, DEDUCED) -/
def State.setReg (s : State) (base v : Nat) : State :=
  let b64 := BitVec.ofNat 64 v
  if base = 0x1000 then s.doorbell (v % 65536)
  else if base = 0x1008 then s.modLodge (fun l => { l with qtbase := b64 })
  else if base = 0x2000 then s.writeNodeid v
  else if base = 0x2008 then s.modLodge (fun l => { l with mgmtvec := BitVec.ofNat 32 v })
  else if base = 0x3000 then s.writeBias v
  else if base = 0x30000 then s.writeMbctl v
  else match inArray base 0x10000 32 64 with
  | some i => s.writePart i v
  | none => match inArray base 0x11000 8 64 with
  | some i => s.modLodge (fun l => { l with stale := minsert l.stale i b64 })
  | none => match inArray base 0x12000 8 65 with
  | some i => s.modLodge (fun l => { l with roots := minsert l.roots i (b64 &&& 0x000FFFFFFFFFF001#64) })
  | none => match inArray base 0x13000 64 16 with
  | some d =>
    if base % 64 = 0 then s.writeDcfg d v else if base % 64 = 32 then s.flack d (v % 2 ^ 13) else s
  | none => match inArray base 0x14000 8 1024 with
  | some i => s.writeRegion i v
  | none => match inArray base 0x18000 32 64 with
  | some i => s.modLodge (fun l => { l with windows := minsert l.windows i (Window.of v) })
  | none => match inArray base 0x20000 8 4096 with
  | some i => s.modLodge (fun l => { l with routes := minsert l.routes i b64 })
  | none => match inArray base 0x30100 8 32 with
  | some i => s.modLodge (fun l => { l with mbReq := mputs 0#8 l.mbReq ((List.range 8).map (fun j =>
      (8 * i + j, BitVec.ofNat 8 (v / 2 ^ (8 * j))))) })
  | none => s

/-- The words that a write brings, by their offsets. (log 60, DEDUCED) -/
def writtenWords (off len v : Nat) : List (Nat × Nat) :=
  (List.range (len / 4)).map (fun i => (off + 4 * i, v / 2 ^ (32 * i) % 2 ^ 32))

/-- A write of the register window (R363, R380): a register of at most 64 bits takes the words written and keeps its other
word; the words of a wider one are staged until its highest-addressed word comes. (log 60, DEDUCED) -/
def State.writeReg (s : State) (off len : Nat) (v : BitVec 64) : State :=
  if ! regAccess off len then s
  else match s.regAt off with
    | none => s
    | some r =>
      if ! s.worksFrom r.stage then s
      else
        let staged := mputsAll s.lodge.staged (writtenWords off len v.toNat)
        let old := if r.wo then 0 else r.val
        let word := fun (i : Nat) => ((mfind staged (r.base + 4 * i)).map (·.toNat)).getD (old / 2 ^ (32 * i) % 2 ^ 32)
        let whole := ((List.range (r.bytes / 4)).map (fun i => word i * 2 ^ (32 * i))).foldl (· + ·) 0
        let clear := fun (s : State) => s.modLodge (fun l => { l with
          staged := l.staged.filter (fun e => ! decide (r.base ≤ e.1 ∧ e.1 < r.base + max r.bytes 8)) })
        if r.bytes ≤ 8 || off + len = r.base + r.bytes then (clear s).setReg r.base whole
        else s.modLodge (fun l => { l with staged := staged })
where
  /-- Words join those that are staged. -/
  mputsAll (m : SMap (BitVec 32)) : List (Nat × Nat) → SMap (BitVec 32)
    | [] => m
    | (k, x) :: rest => mputsAll (minsert m k (BitVec.ofNat 32 x)) rest

/-- REGISTER_WRITE (R363). -/
def execRegisterWrite (s : State) : Out := .next (s.writeReg s.arg.a s.arg.b s.arg.x)

/-- FLACK (R329, R380). -/
def execFlack (s : State) : Out := .next (if s.worksFrom 2 then s.flack (s.arg.a % 16) (s.arg.b % 2 ^ 13) else s)

/-- HOST_READ (R363, R367, R380, R390): a BAR0 read when the flag is set, all ones where R363 does not allow it; a BAR2 read in PCIe
mode otherwise, served at its home; one whose check fails carries no data. -/
def execHostRead (s : State) : Out :=
  let a := s.arg.a
  let n := s.arg.b
  if s.arg.flag then .next (s.reply a (if regAccess a n then leBytes n (s.readReg a n).toNat else List.replicate n 0xFF#8))
  else if s.lodge.cxl || ! bar2Range a n then .next s
  else if ! s.worksFrom 2 then .next (s.reply a (List.replicate n 0xFF#8))
  else
    let g := s.access false { a := a, n := n }
    .next (if g.2 then g.1.replyChecked a a n else g.1.later .hostRead s.arg)

end Sys2Proof.Machine
end

