-- ==== Sys2Proof/Machine/Start.lean ====
section
/-! DEFINITION. Staged start, the management rings, chores, hand-over and attestation (R378 to R387, R395). -/

namespace Sys2Proof.Machine

/-! ### Staged start (R378 to R380, R395) -/

/-- A stage fails (R379). -/
def State.startFails (s : State) (cause : Nat) : State := s.modLodge (fun l => { l with fail := true, fcause := cause })

/-- RESET_RELEASE (R363, R378): the event brings the stage-1 image of the boot flash. (log 57, DESIGN CHOICE) -/
def execResetRelease (s : State) : Out :=
  if s.lodge.stage ≠ 0 || s.lodge.fail then .next s
  else
    let s := s.modLodge (fun l => { l with flash1 := { bytes := s.arg.bytes } })
    .next (if Config.ed448Accepts s.arg.bytes then s.modLodge (fun l => { l with stage := 1, mgmtvec := 0#32 }) else s.startFails 1)

/-- A list cut into triples. (log 64, DESIGN CHOICE) -/
def triples : List Nat → List (Nat × Nat × Nat)
  | a :: b :: c :: rest => (a, b, c) :: triples rest
  | _ => []

/-- STAGE_1 (R378, R395): the event tells the outcome of training (2 HBM, 3 a die bridge), the repair list as triples of die, kind
(0 slice, 1 bank, 2 column) and unit, and brings the Arbor image. (log 57, DESIGN CHOICE) -/
def execStage1 (s : State) : Out :=
  if s.lodge.stage ≠ 1 || s.lodge.fail then .next s
  else
    let s := s.modLodge (fun l => { l with repairs := triples s.arg.nats })
    if s.arg.a = 2 || s.arg.a = 3 then .next (s.startFails s.arg.a)
    else if ! Config.ed448Accepts s.arg.bytes then .next (s.startFails 4)
    else .next (s.modLodge (fun l => { l with
      stage := 2, roots := [], committed := some { bytes := s.arg.bytes } }))

/-- A die needs more spares than it has (R395): two slices, two banks, one column in each CME (unit 64·CME + column).
(log 64, DESIGN CHOICE) -/
def Lodge.lacksSpares (l : Lodge) (die : Nat) : Bool :=
  let mine := (l.repairs.foldl (fun (xs : List (Nat × Nat × Nat)) r => joinNew xs [r]) []).filter (fun r => r.1 = die)
  let of := fun (k : Nat) => (mine.filter (fun r => r.2.1 = k)).map (·.2.2)
  2 < (of 0).length || 2 < (of 1).length || (List.range 10).any (fun c => 1 < ((of 2).filter (fun u => u / 64 = c)).length)

/-- A die comes online: every core starts its privileged slot (R40, R44, R378), its trap line at 0 (R242), its cycle count at 0
(log 97, DESIGN CHOICE), and its roots as stage 1 leaves them, until a TLBINV (R357). -/
def State.dieOnline (s : State) (die : Nat) : State :=
  let img := s.lodge.committed.getD {}
  let s := (List.range 40).foldl (fun (s : State) i =>
    (s.modCore (40 * die + i) (fun x => { x with online := true, trapLine := 0, cyc0 := s.clock, roots := [] })).startArbor
      (40 * die + i) img) s
  s.modLodge (fun l => { l with dies := l.dies ||| (1#4 <<< die) })

/-- Partition 0 as stage 2 leaves it (R319). -/
def firstPart : Part := { cmask := BitVec.allOnes 160, power := 3000, hbmsh := 256, cores := 160, en := true }

/-- What stage 2 sets when it completes (R319, R329, R334, R337, R368, R379). -/
def Lodge.afterStage2 (l : Lodge) : Lodge :=
  { l with stage := 3, parts := [(0, firstPart)], stale := [], doms := [], regions := [] }

/-- STAGE_2 (R371, R378, R379): dies come online in order, up to the first that fails or lacks spares; the event tells that die,
4 for none, and the ports that train. (log 57, DESIGN CHOICE) -/
def execStage2 (s : State) : Out :=
  if s.lodge.stage ≠ 2 || s.lodge.fail then .next s
  else
    let bad := (List.range 4).find? (fun d => s.arg.a = d || s.lodge.lacksSpares d)
    let t := (List.range (bad.getD 4)).foldl (fun (t : State) d => t.dieOnline d) s
    if bad.isSome then .next (t.startFails 5)
    else
      let t := s.arg.nats.foldl (fun (t : State) p => if p < 64 then t.setPort p { (t.port p) with up := true } else t) t
      .next ((t.modLodge Lodge.afterStage2).modHost (fun h => { h with hostBias := [] }))

/-! ### Management rings (R381) -/

/-- Where a core's ring entry, request word and response word lie. -/
def ringEntry (n j : Nat) : Nat := 0x7FFFF00000 + 1024 * n + 64 * (j % 16)
def requestWord (n : Nat) : Nat := 0x7FFFFA0000 + 16 * n
def responseWord (n : Nat) : Nat := 0x7FFFFA0008 + 16 * n

def State.modRing (s : State) (n : Nat) (f : Ring → Ring) : State :=
  s.modLodge (fun l => { l with rings := minsert l.rings n (f (mget {} l.rings n)) })

/-- A ring stops, with the requests that it holds. -/
def State.stopRing (s : State) (n : Nat) : State :=
  (s.modRing n (fun r => { r with stopped := true })).modLodge (fun l => { l with asks := l.asks.filter (· ≠ n) })

/-- The unserved requests of a core's ring, as its request word among some cells tells; a ring that has stopped has none. -/
def State.ringDue (s : State) (words : List Host.Cell) (n : Nat) : Nat :=
  let r := mget {} s.lodge.rings n
  if r.stopped || ! s.rangeOk (requestWord n) 8 then 0
  else min 16 ((leNat (mrange 0#8 words (requestWord n) 8) + 2 ^ 64 - r.served % 2 ^ 64) % 2 ^ 64)

/-- The rings of the requests that have come and are not served, in the order in which the Lodge has seen them come; those that it sees
together are in the order of their cores (R381). (log 61, DEDUCED) -/
def State.asksNow (s : State) : List Nat :=
  let words := mfrom s.mem (requestWord 0)
  let due := ((mkeys s.cores).filter (· < 160)).map (fun n => (n, s.ringDue words n))
  let left := s.lodge.asks.filter (fun n => due.any (fun d => d.1 = n && d.2 ≠ 0))
  left ++ due.flatMap (fun d => List.replicate (d.2 - left.count d.1) d.1)

/-- The Lodge sees the requests that have come, by their request words. -/
def State.hearAsks (s : State) : Option State :=
  let now := s.asksNow
  if now = s.lodge.asks then none
  else match s.readAll 64 ((onceEach (now.filter (fun n => ¬ n ∈ s.lodge.asks))).map (fun n => { a := requestWord n, n := 8 })) with
    | (t, .ready) => some (t.modLodge (fun l => { l with asks := now }))
    | (t, _) => if t.host = s.host && decide (t.dir = s.dir) then none else some (s.asked t)

/-- Serves the oldest request in two steps: the response is written into its entry, and once that is performed the
response word rises by one. mine tells whether the op is the event's; f gives the bytes of the response from byte 32.
(log 61, DEDUCED) -/
def mgmtOp (mine : Nat → Bool) (f : State → Nat → List (BitVec 8) → State × List (BitVec 8)) (s : State) : Out :=
  let n := s.arg.a
  let r := mget {} s.lodge.rings n
  let at_ := ringEntry n r.served
  if s.lodge.asks.head? ≠ some n then .next s
  else match r.after with
    | some id =>
      if ! mine r.op || ! s.settled lodgePort id then .next s
      else
        .next (((s.ownAdd lodgePort 0 (responseWord n) 1).modRing n
          (fun r => { r with served := r.served + 1, after := none })).modLodge (fun l => { l with asks := l.asks.drop 1 }))
    | none => match s.readAll 64 [{ a := at_, n := 32 }] with
      | (t, .wait) => .next t
      | (_, .bad _) => .next s
      | (t, .ready) =>
        let e := t.bytes at_ 32
        let op := leNat (e.take 4)
        if ! mine op then .next s
        else
          let id := t.nextId
          let u := f t.bump n e
          .next ((u.1.lodgeWrite id (at_ + 32) u.2).modRing n (fun r => { r with op := op, after := some id }))

/-- MGMT_READ_REGISTER (R381): an 8-byte read. (log 61, DEDUCED) -/
def execMgmtReadRegister (s : State) : Out :=
  mgmtOp (· = 1) (fun s _ e => (s, leBytes 8 (s.readReg (leNat ((e.drop 8).take 4)) 8).toNat)) s

/-- MGMT_WRITE_REGISTER (R381): an 8-byte write. (log 61, DEDUCED) -/
def execMgmtWriteRegister (s : State) : Out :=
  mgmtOp (· = 2) (fun s _ e =>
    (s.writeReg (leNat ((e.drop 8).take 4)) 8 (BitVec.ofNat 64 (leNat ((e.drop 16).take 8))), [])) s

/-- CLAIM_CHORE (R381, R382, R384): the oldest unclaimed chore. An agent of the committed image is told to switch while another
is pending. The chore that the core claimed before it has finished. (log 58, DESIGN CHOICE) -/
def execClaimChore (s : State) : Out :=
  mgmtOp (· = 3) (fun s n _ =>
    let l := s.lodge
    if l.hoip && ! decide (n ∈ l.switched) then (s, leBytes 8 (2 ^ 63))
    else
      let kept := l.claimed.filter (fun p => p.1 ≠ n)
      match l.chores with
      | [] => (s.modLodge (fun l => { l with claimed := kept }), leBytes 8 0)
      | x :: rest =>
        (s.modLodge (fun l => { l with chores := rest, claimed := kept ++ [(n, x)] }), leBytes 8 x.ticket ++ x.bytes)) s

/-- POST_CHORE (R381, R382). (log 58, DESIGN CHOICE) -/
def execPostChore (s : State) : Out :=
  mgmtOp (· = 4) (fun s _ e => (s.postEntry ((e.drop 8).take 24), leBytes 8 s.lodge.nextTicket)) s

/-- Op 5 of a core while an image is pending (R384): its privileged slot restarts there, and the 160th commits.
(log 37, DESIGN CHOICE) (log 63, DEDUCED) -/
def State.switch (s : State) (n : Nat) : State :=
  match s.lodge.pending with
  | none => s
  | some img =>
    let s := s.startArbor n img
    let who := joinNew s.lodge.switched [n]
    let s := s.modLodge (fun l => { l with switched := who, claimed := l.claimed.filter (fun p => p.1 ≠ n) })
    let s := s.postChore 6 [who.length]
    if who.length < 160 then s
    else s.modLodge (fun l => { l with committed := some img, pending := none, switched := [], hoip := false })

/-- SWITCH (R381, R384). (log 61, DEDUCED) -/
def execSwitch (s : State) : Out := mgmtOp (· = 5) (fun s n _ => (s.switch n, [])) s

/-- MGMT_INVALID_OP (R381): the ring stops with a status, and the host is told through MGMTVEC, behind the status. An entry that does
not match its check value is logged, and its ring stops without one (R390). (log 61, DEDUCED) -/
def execMgmtInvalidOp (s : State) : Out :=
  let n := s.arg.a
  let r := mget {} s.lodge.rings n
  let at_ := ringEntry n r.served
  if s.lodge.asks.head? ≠ some n || r.after.isSome then .next s
  else match s.readAll 64 [{ a := at_, n := 32 }] with
    | (t, .wait) => .next t
    | (t, .bad q) => .next ((t.mismatch 64 n q).stopRing n)
    | (t, .ready) =>
      let op := leNat (t.bytes at_ 4)
      if 1 ≤ op && op ≤ 5 then .next s
      else
        let id := t.nextId
        let u := (t.bump.lodgeWrite id (at_ + 32) (leBytes 4 0xFFFFFFFF)).stopRing n
        .next (if u.lodge.mgmtvec = 0#32 then u
          else u.modHost (fun h => { h with notices := h.notices ++ [(id, u.lodge.mgmtvec)] }))

/-! ### Attestation and hand-over requests (R383, R386, R387) -/

/-- A measurement (R378, R387). -/
def measure (bs : List (BitVec 8)) : List (BitVec 8) := padTo 64 (Config.shake256 64 bs)

/-- The version of an image, 0 when there is none. (log 13, DESIGN CHOICE) -/
def versionOf (i : Option Image) : Nat := ((i.map (fun x => (Config.arborVersion x.bytes).toNat)).getD 0)

/-- The measurement of an image, zero when there is none. -/
def measureOf (i : Option Image) : List (BitVec 8) := ((i.map (fun x => measure x.bytes)).getD (List.replicate 64 0#8))

/-- The attestation identity's seed (R387). -/
def Lodge.seed (l : Lodge) : List (BitVec 8) :=
  padTo 57 (Config.shake256 57 (Config.deviceSecret ++ measure Config.bootRom ++ measure l.flash1.bytes ++
    ((l.committed.map (fun x => measure x.bytes)).getD [])))

/-- Bytes 0 to 407 of a report over a nonce, at the sample clock (R387). -/
def Lodge.reportBody (l : Lodge) (nonce : List (BitVec 8)) : List (BitVec 8) :=
  let pending := if l.hoip then l.pending else none
  leBytes 4 0x41545357 ++ leBytes 2 1 ++ leBytes 2 (bit l.hoip 0 + bit l.committed.isNone 1) ++ leBytes 4 l.status ++
    leBytes 4 (versionOf l.committed) ++ leBytes 4 (versionOf pending) ++ leBytes 4 0 ++ padTo 64 nonce ++
    measure Config.bootRom ++ measure l.flash1.bytes ++ measureOf l.committed ++ measureOf pending ++
    padTo 57 (Config.ed448Public l.seed) ++ leBytes 7 0

/-- The whole report. -/
def Lodge.report (l : Lodge) (nonce : List (BitVec 8)) : List (BitVec 8) :=
  let body := l.reportBody nonce
  body ++ padTo 114 (Config.ed448Sign l.seed body) ++ leBytes 6 0

/-- The op of a request. -/
def requestOp (bs : List (BitVec 8)) : Nat := leNat (bs.take 4)

/-- The engine takes a request and will answer it with a code (R386). -/
def State.answerRequest (s : State) (doe : Bool) (rest : List (Bool × List (BitVec 8))) (code : Nat) (bs : List (BitVec 8)) : State :=
  s.modLodge (fun l => { l with requests := rest, engine := some (doe, code, bs) })

/-- A DOE data object around some bytes: vendor ID 0x1E57 and object type 0x01 (R386), and its length in words of four bytes.
(log 98, PRESUMED) -/
def doeObject (bs : List (BitVec 8)) : List (BitVec 8) :=
  leBytes 2 0x1E57 ++ leBytes 2 0x01 ++ leBytes 4 ((bs.length + 11) / 4) ++ padTo ((bs.length + 3) / 4 * 4) bs

/-- The request that a DOE data object carries, where it is of the engine's vendor ID and object type. (log 98, PRESUMED) -/
def doeRequest (bs : List (BitVec 8)) : Option (List (BitVec 8)) :=
  if leNat (bs.take 2) = 0x1E57 ∧ leNat ((bs.drop 2).take 1) = 0x01 then some (bs.drop 8) else none

/-- A request arrives as a DOE object when the event brings one; the engine then takes the oldest request, when it is free and
the request is one for the event. f answers with a code and bytes, or waits. -/
def attestOp (mine : Nat → Bool) (f : State → List (BitVec 8) → State × Option (Nat × List (BitVec 8))) (s : State) : Out :=
  let s := match if s.arg.flag then doeRequest s.arg.bytes else none with
    | some bs => s.submit true bs
    | none => s
  match s.lodge.requests with
  | [] => .next s
  | (doe, bs) :: rest =>
    if s.lodge.engine.isSome || ! mine (requestOp bs) then .next s
    else
      match f s bs with
      | (t, none) => .next (s.asked t)
      | (t, some r) => .next (t.answerRequest doe rest r.1 r.2)

/-- ATTESTATION_REPORT (R386, R387): any op but 1 and 2, or a request cut short, is malformed. (log 62, DEDUCED) -/
def execAttestationReport (s : State) : Out :=
  attestOp (· ≠ 2) (fun s bs =>
    (s, some (if requestOp bs ≠ 1 || bs.length < 72 then (2, []) else (0, s.lodge.report ((bs.drop 8).take 64))))) s

/-- HANDOVER_REQUEST (R383, R386). (log 62, DEDUCED) (log 63, DEDUCED) -/
def execHandoverRequest (s : State) : Out :=
  attestOp (· = 2) (fun s bs =>
    let a := leNat ((bs.drop 8).take 8)
    let n := leNat ((bs.drop 16).take 4)
    if bs.length < 20 || 0x8000000000 < a + n then (s, some (2, []))
    else if s.lodge.hoip then (s, some (3, []))
    else if ! s.worksFrom 2 then (s, some (4, []))
    else match s.readAll 64 (if n = 0 then [] else [{ a := a, n := n }]) with
      | (t, .wait) => (t, none)
      | (t, .bad q) => (t.mismatch 64 0xFFFFFFFF q, some (4, []))
      | (t, .ready) =>
        let img := t.bytes a n
        if ! Config.ed448Accepts img then (t, some (4, []))
        else
          ((t.modLodge (fun l => { l with pending := some { bytes := img }, hoip := true, switched := [] })).postChore 6 [0],
            some (0, []))) s

/-- MAILBOX_REQUEST_COMPLETE (R386): the engine answers, and MBSTAT tells how. (log 62, DEDUCED) -/
def execMailboxRequestComplete (s : State) : Out :=
  match s.lodge.engine with
  | none => .next s
  | some (true, code, bs) => .next (s.modLodge (fun l => { l with engine := none, doeOut := l.doeOut ++ [(code, doeObject bs)] }))
  | some (false, code, bs) =>
    .next (s.modLodge (fun l => { l with
      engine := none, mbResp := bs, mbCode := code
      mbState := if l.requests.any (fun r => ! r.1) then 1 else if code = 0 then 2 else 3 }))

end Sys2Proof.Machine
end

