-- ==== Sys2Proof/Machine/Dispatch.lean ====
section
/-! DEFINITION. One arm for each row of spec/opcode_table.json: a direct call of its meaning. -/

namespace Sys2Proof.Machine

/-- What one instruction or event does to the state. (log 15, DEDUCED) -/
def exec (i : Instr) (s : State) : Host.Outcome State Fault Refusal :=
  match i with
  | .nop x => Sys2Proof.Machine.execNop x s
  | .setm a => Sys2Proof.Machine.execSetm a s
  | .getm d => Sys2Proof.Machine.execGetm d s
  | .bra t => Sys2Proof.Machine.execBra t s
  | .brx a => Sys2Proof.Machine.execBrx a s
  | .brp d disp => Sys2Proof.Machine.execBrp d disp s
  | .meet => Sys2Proof.Machine.execMeet s
  | .call d disp => Sys2Proof.Machine.execCall d disp s
  | .callx d a => Sys2Proof.Machine.execCallx d a s
  | .ret a => Sys2Proof.Machine.execRet a s
  | .exit => Sys2Proof.Machine.execExit s
  | .done => Sys2Proof.Machine.execDone s
  | .yield => Sys2Proof.Machine.execYield s
  | .regroup t => Sys2Proof.Machine.execRegroup t s
  | .getexm d => Sys2Proof.Machine.execGetexm d s
  | .setexm a => Sys2Proof.Machine.execSetexm a s
  | .trap b => Sys2Proof.Machine.execTrap b s
  | .bkpt b => Sys2Proof.Machine.execBkpt b s
  | .rdsr d a => Sys2Proof.Machine.execRdsr d a s
  | .wrsr d a => Sys2Proof.Machine.execWrsr d a s
  | .iadd d a b => Sys2Proof.Machine.execIadd d a b s
  | .isub d a b => Sys2Proof.Machine.execIsub d a b s
  | .iaddc d a b => Sys2Proof.Machine.execIaddc d a b s
  | .isubb d a b => Sys2Proof.Machine.execIsubb d a b s
  | .imul d a b => Sys2Proof.Machine.execImul d a b s
  | .imulh d a b => Sys2Proof.Machine.execImulh d a b s
  | .imad d a b => Sys2Proof.Machine.execImad d a b s
  | .imin d a b => Sys2Proof.Machine.execImin d a b s
  | .imax d a b => Sys2Proof.Machine.execImax d a b s
  | .iabs d a => Sys2Proof.Machine.execIabs d a s
  | .ineg d a => Sys2Proof.Machine.execIneg d a s
  | .and d a b => Sys2Proof.Machine.execAnd d a b s
  | .or d a b => Sys2Proof.Machine.execOr d a b s
  | .xor d a b => Sys2Proof.Machine.execXor d a b s
  | .not d a => Sys2Proof.Machine.execNot d a s
  | .andn d a b => Sys2Proof.Machine.execAndn d a b s
  | .shl d a b => Sys2Proof.Machine.execShl d a b s
  | .shr d a b => Sys2Proof.Machine.execShr d a b s
  | .sar d a b => Sys2Proof.Machine.execSar d a b s
  | .rotl d a b => Sys2Proof.Machine.execRotl d a b s
  | .popc d a => Sys2Proof.Machine.execPopc d a s
  | .clz d a => Sys2Proof.Machine.execClz d a s
  | .brev d a => Sys2Proof.Machine.execBrev d a s
  | .bfx d a b => Sys2Proof.Machine.execBfx d a b s
  | .bfi d a b => Sys2Proof.Machine.execBfi d a b s
  | .lea d a b => Sys2Proof.Machine.execLea d a b s
  | .lea64 d a b => Sys2Proof.Machine.execLea64 d a b s
  | .mov d a => Sys2Proof.Machine.execMov d a s
  | .movl d a => Sys2Proof.Machine.execMovl d a s
  | .sel d a b => Sys2Proof.Machine.execSel d a b s
  | .cvti d a b => Sys2Proof.Machine.execCvti d a b s
  | .icmpeq d a b => Sys2Proof.Machine.execIcmpeq d a b s
  | .icmpne d a b => Sys2Proof.Machine.execIcmpne d a b s
  | .icmplt d a b => Sys2Proof.Machine.execIcmplt d a b s
  | .icmple d a b => Sys2Proof.Machine.execIcmple d a b s
  | .icmpltn d a b => Sys2Proof.Machine.execIcmpltn d a b s
  | .icmplen d a b => Sys2Proof.Machine.execIcmplen d a b s
  | .fcmpeq d a b => Sys2Proof.Machine.execFcmpeq d a b s
  | .fcmpne d a b => Sys2Proof.Machine.execFcmpne d a b s
  | .fcmplt d a b => Sys2Proof.Machine.execFcmplt d a b s
  | .fcmple d a b => Sys2Proof.Machine.execFcmple d a b s
  | .fcmpun d a b => Sys2Proof.Machine.execFcmpun d a b s
  | .fcmpord d a b => Sys2Proof.Machine.execFcmpord d a b s
  | .pand d a b => Sys2Proof.Machine.execPand d a b s
  | .por d a b => Sys2Proof.Machine.execPor d a b s
  | .pxor d a b => Sys2Proof.Machine.execPxor d a b s
  | .pnot d a => Sys2Proof.Machine.execPnot d a s
  | .pmov d a => Sys2Proof.Machine.execPmov d a s
  | .ptov d a => Sys2Proof.Machine.execPtov d a s
  | .vtop d a => Sys2Proof.Machine.execVtop d a s
  | .voteall d a => Sys2Proof.Machine.execVoteall d a s
  | .voteany d a => Sys2Proof.Machine.execVoteany d a s
  | .votebal d a => Sys2Proof.Machine.execVotebal d a s
  | .shfl d a b => Sys2Proof.Machine.execShfl d a b s
  | .shflup d a b => Sys2Proof.Machine.execShflup d a b s
  | .shfldn d a b => Sys2Proof.Machine.execShfldn d a b s
  | .shflx d a b => Sys2Proof.Machine.execShflx d a b s
  | .bcast d a b => Sys2Proof.Machine.execBcast d a b s
  | .movvg d a b => Sys2Proof.Machine.execMovvg d a b s
  | .movgv d a b => Sys2Proof.Machine.execMovgv d a b s
  | .gredadd d a => Sys2Proof.Machine.execGredadd d a s
  | .gredmin d a => Sys2Proof.Machine.execGredmin d a s
  | .gredmax d a => Sys2Proof.Machine.execGredmax d a s
  | .gscanadd d a b => Sys2Proof.Machine.execGscanadd d a b s
  | .gcntgt d a b => Sys2Proof.Machine.execGcntgt d a b s
  | .gsumgt d a b => Sys2Proof.Machine.execGsumgt d a b s
  | .gmaxred d a => Sys2Proof.Machine.execGmaxred d a s
  | .rng d => Sys2Proof.Machine.execRng d s
  | .rngf d => Sys2Proof.Machine.execRngf d s
  | .gmask d a b => Sys2Proof.Machine.execGmask d a b s
  | .fadd d a b => Sys2Proof.Machine.execFadd d a b s
  | .fsub d a b => Sys2Proof.Machine.execFsub d a b s
  | .fmul d a b => Sys2Proof.Machine.execFmul d a b s
  | .ffma d a b => Sys2Proof.Machine.execFfma d a b s
  | .ffms d a b => Sys2Proof.Machine.execFfms d a b s
  | .fmin d a b => Sys2Proof.Machine.execFmin d a b s
  | .fmax d a b => Sys2Proof.Machine.execFmax d a b s
  | .fabs d a => Sys2Proof.Machine.execFabs d a s
  | .fneg d a => Sys2Proof.Machine.execFneg d a s
  | .fclass d a => Sys2Proof.Machine.execFclass d a s
  | .fscale d a b => Sys2Proof.Machine.execFscale d a b s
  | .ffract d a => Sys2Proof.Machine.execFfract d a s
  | .ffloor d a => Sys2Proof.Machine.execFfloor d a s
  | .fround d a => Sys2Proof.Machine.execFround d a s
  | .frcp d a => Sys2Proof.Machine.execFrcp d a s
  | .frsq d a => Sys2Proof.Machine.execFrsq d a s
  | .fsqrt d a => Sys2Proof.Machine.execFsqrt d a s
  | .fexp2 d a => Sys2Proof.Machine.execFexp2 d a s
  | .flog2 d a => Sys2Proof.Machine.execFlog2 d a s
  | .fsin d a => Sys2Proof.Machine.execFsin d a s
  | .fcos d a => Sys2Proof.Machine.execFcos d a s
  | .ftanh d a => Sys2Proof.Machine.execFtanh d a s
  | .cvtf d a b => Sys2Proof.Machine.execCvtf d a b s
  | .cvtfi d a b => Sys2Proof.Machine.execCvtfi d a b s
  | .cvtif d a b => Sys2Proof.Machine.execCvtif d a b s
  | .pack d a b => Sys2Proof.Machine.execPack d a b s
  | .unpack d a b => Sys2Proof.Machine.execUnpack d a b s
  | .hadd2 d a b => Sys2Proof.Machine.execHadd2 d a b s
  | .hmul2 d a b => Sys2Proof.Machine.execHmul2 d a b s
  | .hfma2 d a b => Sys2Proof.Machine.execHfma2 d a b s
  | .fdot2 d a b => Sys2Proof.Machine.execFdot2 d a b s
  | .fdot4 d a b => Sys2Proof.Machine.execFdot4 d a b s
  | .ld d a b => Sys2Proof.Machine.execLd d a b s
  | .st d a b => Sys2Proof.Machine.execSt d a b s
  | .lda d a b => Sys2Proof.Machine.execLda d a b s
  | .stl d a b => Sys2Proof.Machine.execStl d a b s
  | .ldr d a b => Sys2Proof.Machine.execLdr d a b s
  | .stc d a b => Sys2Proof.Machine.execStc d a b s
  | .ldg d a b => Sys2Proof.Machine.execLdg d a b s
  | .lds d a b => Sys2Proof.Machine.execLds d a b s
  | .sts d a b => Sys2Proof.Machine.execSts d a b s
  | .ldw d a b => Sys2Proof.Machine.execLdw d a b s
  | .ldrow d a => Sys2Proof.Machine.execLdrow d a s
  | .pref a b => Sys2Proof.Machine.execPref a b s
  | .cctlEvictL1 a => Sys2Proof.Machine.execCctlEvictL1 a s
  | .cctlWriteBack a => Sys2Proof.Machine.execCctlWriteBack a s
  | .fence a => Sys2Proof.Machine.execFence a s
  | .atadd d a b => Sys2Proof.Machine.execAtadd d a b s
  | .atmin d a b => Sys2Proof.Machine.execAtmin d a b s
  | .atmax d a b => Sys2Proof.Machine.execAtmax d a b s
  | .atand d a b => Sys2Proof.Machine.execAtand d a b s
  | .ator d a b => Sys2Proof.Machine.execAtor d a b s
  | .atxor d a b => Sys2Proof.Machine.execAtxor d a b s
  | .atxch d a b => Sys2Proof.Machine.execAtxch d a b s
  | .atcas d a b => Sys2Proof.Machine.execAtcas d a b s
  | .redadd a b => Sys2Proof.Machine.execRedadd a b s
  | .redmin a b => Sys2Proof.Machine.execRedmin a b s
  | .redmax a b => Sys2Proof.Machine.execRedmax a b s
  | .redand a b => Sys2Proof.Machine.execRedand a b s
  | .redor a b => Sys2Proof.Machine.execRedor a b s
  | .redxor a b => Sys2Proof.Machine.execRedxor a b s
  | .vradd d a b => Sys2Proof.Machine.execVradd d a b s
  | .vrmax d a b => Sys2Proof.Machine.execVrmax d a b s
  | .acpy d a b => Sys2Proof.Machine.execAcpy d a b s
  | .acpys d a b => Sys2Proof.Machine.execAcpys d a b s
  | .agath d a b => Sys2Proof.Machine.execAgath d a b s
  | .ascat d a b => Sys2Proof.Machine.execAscat d a b s
  | .rput d a b => Sys2Proof.Machine.execRput d a b s
  | .rget d a b => Sys2Proof.Machine.execRget d a b s
  | .ratom d a b => Sys2Proof.Machine.execRatom d a b s
  | .aqfence d a => Sys2Proof.Machine.execAqfence d a s
  | .waitc d a => Sys2Proof.Machine.execWaitc d a s
  | .wsig d a b => Sys2Proof.Machine.execWsig d a b s
  | .sigadd d a b => Sys2Proof.Machine.execSigadd d a b s
  | .sigwait d a b => Sys2Proof.Machine.execSigwait d a b s
  | .tset d a => Sys2Proof.Machine.execTset d a s
  | .tget d a => Sys2Proof.Machine.execTget d a s
  | .tldsc d a b => Sys2Proof.Machine.execTldsc d a b s
  | .tstsc d a b => Sys2Proof.Machine.execTstsc d a b s
  | .mma d a b => Sys2Proof.Machine.execMma d a b s
  | .mma2 d a b => Sys2Proof.Machine.execMma2 d a b s
  | .mmat d a b => Sys2Proof.Machine.execMmat d a b s
  | .ttrans d a => Sys2Proof.Machine.execTtrans d a s
  | .tperm d a b => Sys2Proof.Machine.execTperm d a b s
  | .trsum d a b => Sys2Proof.Machine.execTrsum d a b s
  | .aclr d b => Sys2Proof.Machine.execAclr d b s
  | .ald d a b => Sys2Proof.Machine.execAld d a b s
  | .ast d a b => Sys2Proof.Machine.execAst d a b s
  | .ard d a b => Sys2Proof.Machine.execArd d a b s
  | .awr d a b => Sys2Proof.Machine.execAwr d a b s
  | .adrain d a b => Sys2Proof.Machine.execAdrain d a b s
  | .acqa d a b => Sys2Proof.Machine.execAcqa d a b s
  | .rela d b => Sys2Proof.Machine.execRela d b s
  | .sxopen d a b => Sys2Proof.Machine.execSxopen d a b s
  | .sxappend d a b => Sys2Proof.Machine.execSxappend d a b s
  | .sxmatch d a b => Sys2Proof.Machine.execSxmatch d a b s
  | .sxstat d b => Sys2Proof.Machine.execSxstat d b s
  | .sxsave a => Sys2Proof.Machine.execSxsave a s
  | .sxload d a => Sys2Proof.Machine.execSxload d a s
  | .sxclose b => Sys2Proof.Machine.execSxclose b s
  | .sxdepth d a => Sys2Proof.Machine.execSxdepth d a s
  | .rsenter => Sys2Proof.Machine.execRsenter s
  | .rsleave => Sys2Proof.Machine.execRsleave s
  | .publish d a => Sys2Proof.Machine.execPublish d a s
  | .retire d a => Sys2Proof.Machine.execRetire d a s
  | .gpwait a => Sys2Proof.Machine.execGpwait a s
  | .gpstat d b => Sys2Proof.Machine.execGpstat d b s
  | .bararr b => Sys2Proof.Machine.execBararr b s
  | .barwait b => Sys2Proof.Machine.execBarwait b s
  | .barsync b => Sys2Proof.Machine.execBarsync b s
  | .pbarr a b => Sys2Proof.Machine.execPbarr a b s
  | .pbwait a b => Sys2Proof.Machine.execPbwait a b s
  | .evroute d a b => Sys2Proof.Machine.execEvroute d a b s
  | .evpost b => Sys2Proof.Machine.execEvpost b s
  | .evwait b => Sys2Proof.Machine.execEvwait b s
  | .eret a => Sys2Proof.Machine.execEret a s
  | .tlbinv a b => Sys2Proof.Machine.execTlbinv a b s
  | .ctxst d a b => Sys2Proof.Machine.execCtxst d a b s
  | .ctxld d a => Sys2Proof.Machine.execCtxld d a s
  | .haltcWaitTrapLine => Sys2Proof.Machine.execHaltcWaitTrapLine s
  | .haltcHaltCrews => Sys2Proof.Machine.execHaltcHaltCrews s
  | .haltcResumeCrews => Sys2Proof.Machine.execHaltcResumeCrews s
  | .slotcfgResume a => Sys2Proof.Machine.execSlotcfgResume a s
  | .slotcfgSkipResume a => Sys2Proof.Machine.execSlotcfgSkipResume a s
  | .slotcfgKill a => Sys2Proof.Machine.execSlotcfgKill a s
  | .slotcfgRingBase a => Sys2Proof.Machine.execSlotcfgRingBase a s
  | .slotcfgTrapVector a => Sys2Proof.Machine.execSlotcfgTrapVector a s
  | .slotcfgStopCrew a => Sys2Proof.Machine.execSlotcfgStopCrew a s
  | .illegalInstruction w => Sys2Proof.Machine.execIllegalInstruction w s
  | .illegalOperand w lits => Sys2Proof.Machine.execIllegalOperand w lits s
  | .fairnessSwitch => Sys2Proof.Machine.execFairnessSwitch s
  | .gangSlotRetire => Sys2Proof.Machine.execGangSlotRetire s
  | .scratchpadCleared => Sys2Proof.Machine.execScratchpadCleared s
  | .binTimerExpire => Sys2Proof.Machine.execBinTimerExpire s
  | .fillLaunch => Sys2Proof.Machine.execFillLaunch s
  | .gangReady => Sys2Proof.Machine.execGangReady s
  | .blockFetch => Sys2Proof.Machine.execBlockFetch s
  | .translationWalk => Sys2Proof.Machine.execTranslationWalk s
  | .loadComplete => Sys2Proof.Machine.execLoadComplete s
  | .atomicReturn => Sys2Proof.Machine.execAtomicReturn s
  | .fillRequest => Sys2Proof.Machine.execFillRequest s
  | .storeArrival => Sys2Proof.Machine.execStoreArrival s
  | .homeOperationArrival => Sys2Proof.Machine.execHomeOperationArrival s
  | .evictionNotice => Sys2Proof.Machine.execEvictionNotice s
  | .cctlRequestArrival => Sys2Proof.Machine.execCctlRequestArrival s
  | .updateAckArrival => Sys2Proof.Machine.execUpdateAckArrival s
  | .l2VictimSelection => Sys2Proof.Machine.execL2VictimSelection s
  | .writeBackComplete => Sys2Proof.Machine.execWriteBackComplete s
  | .lineFetchReturn => Sys2Proof.Machine.execLineFetchReturn s
  | .fillData => Sys2Proof.Machine.execFillData s
  | .update => Sys2Proof.Machine.execUpdate s
  | .invalidate => Sys2Proof.Machine.execInvalidate s
  | .ackD => Sys2Proof.Machine.execAckD s
  | .ackP => Sys2Proof.Machine.execAckP s
  | .cctlAck => Sys2Proof.Machine.execCctlAck s
  | .versionNoticeArrival => Sys2Proof.Machine.execVersionNoticeArrival s
  | .asyncCommandStart => Sys2Proof.Machine.execAsyncCommandStart s
  | .asyncCommandComplete => Sys2Proof.Machine.execAsyncCommandComplete s
  | .engineFaultResume => Sys2Proof.Machine.execEngineFaultResume s
  | .asyncTrap => Sys2Proof.Machine.execAsyncTrap s
  | .trapRecordWrite => Sys2Proof.Machine.execTrapRecordWrite s
  | .passGrant => Sys2Proof.Machine.execPassGrant s
  | .passComplete => Sys2Proof.Machine.execPassComplete s
  | .trellisArrival => Sys2Proof.Machine.execTrellisArrival s
  | .trellisComplete => Sys2Proof.Machine.execTrellisComplete s
  | .retireArrival => Sys2Proof.Machine.execRetireArrival s
  | .flipArrival => Sys2Proof.Machine.execFlipArrival s
  | .leafQuietReport => Sys2Proof.Machine.execLeafQuietReport s
  | .aggregatorQuietArrival => Sys2Proof.Machine.execAggregatorQuietArrival s
  | .gracePeriodEnd => Sys2Proof.Machine.execGracePeriodEnd s
  | .entryFree => Sys2Proof.Machine.execEntryFree s
  | .freedArrival => Sys2Proof.Machine.execFreedArrival s
  | .parkRequestArrival => Sys2Proof.Machine.execParkRequestArrival s
  | .parkAckArrival => Sys2Proof.Machine.execParkAckArrival s
  | .holdDecrementArrival => Sys2Proof.Machine.execHoldDecrementArrival s
  | .staleReadIncrement => Sys2Proof.Machine.execStaleReadIncrement s
  | .gpstatServe => Sys2Proof.Machine.execGpstatServe s
  | .chorePulseArrival => Sys2Proof.Machine.execChorePulseArrival s
  | .waitConditionMet => Sys2Proof.Machine.execWaitConditionMet s
  | .doorbell => Sys2Proof.Machine.execDoorbell s
  | .queueMap => Sys2Proof.Machine.execQueueMap s
  | .queueUnmap => Sys2Proof.Machine.execQueueUnmap s
  | .launchPacket => Sys2Proof.Machine.execLaunchPacket s
  | .graphPacket => Sys2Proof.Machine.execGraphPacket s
  | .waitPacket => Sys2Proof.Machine.execWaitPacket s
  | .signalPacket => Sys2Proof.Machine.execSignalPacket s
  | .copyPacket => Sys2Proof.Machine.execCopyPacket s
  | .indirectPacket => Sys2Proof.Machine.execIndirectPacket s
  | .fencePacket => Sys2Proof.Machine.execFencePacket s
  | .signalUnitRead => Sys2Proof.Machine.execSignalUnitRead s
  | .crewOffer => Sys2Proof.Machine.execCrewOffer s
  | .gridRetire => Sys2Proof.Machine.execGridRetire s
  | .packetComplete => Sys2Proof.Machine.execPacketComplete s
  | .kernelNode => Sys2Proof.Machine.execKernelNode s
  | .copyNode => Sys2Proof.Machine.execCopyNode s
  | .signalNode => Sys2Proof.Machine.execSignalNode s
  | .waitNode => Sys2Proof.Machine.execWaitNode s
  | .tailNode => Sys2Proof.Machine.execTailNode s
  | .loopNode => Sys2Proof.Machine.execLoopNode s
  | .loopIterationEnd => Sys2Proof.Machine.execLoopIterationEnd s
  | .budgetWindowEnd => Sys2Proof.Machine.execBudgetWindowEnd s
  | .totalsArrival => Sys2Proof.Machine.execTotalsArrival s
  | .sensorSample => Sys2Proof.Machine.execSensorSample s
  | .containment => Sys2Proof.Machine.execContainment s
  | .containmentNotice => Sys2Proof.Machine.execContainmentNotice s
  | .containmentComplete => Sys2Proof.Machine.execContainmentComplete s
  | .resetRelease => Sys2Proof.Machine.execResetRelease s
  | .stage1 => Sys2Proof.Machine.execStage1 s
  | .stage2 => Sys2Proof.Machine.execStage2 s
  | .hostLinkTraining => Sys2Proof.Machine.execHostLinkTraining s
  | .registerWrite => Sys2Proof.Machine.execRegisterWrite s
  | .flack => Sys2Proof.Machine.execFlack s
  | .biasToHost => Sys2Proof.Machine.execBiasToHost s
  | .biasToDevice => Sys2Proof.Machine.execBiasToDevice s
  | .biasFlipLine => Sys2Proof.Machine.execBiasFlipLine s
  | .attestationReport => Sys2Proof.Machine.execAttestationReport s
  | .handoverRequest => Sys2Proof.Machine.execHandoverRequest s
  | .mgmtReadRegister => Sys2Proof.Machine.execMgmtReadRegister s
  | .mgmtWriteRegister => Sys2Proof.Machine.execMgmtWriteRegister s
  | .claimChore => Sys2Proof.Machine.execClaimChore s
  | .postChore => Sys2Proof.Machine.execPostChore s
  | .switch => Sys2Proof.Machine.execSwitch s
  | .mgmtInvalidOp => Sys2Proof.Machine.execMgmtInvalidOp s
  | .hostRead => Sys2Proof.Machine.execHostRead s
  | .hostWrite => Sys2Proof.Machine.execHostWrite s
  | .hostCxlMemRequest => Sys2Proof.Machine.execHostCxlMemRequest s
  | .snpData => Sys2Proof.Machine.execSnpData s
  | .snpInv => Sys2Proof.Machine.execSnpInv s
  | .hostGrant => Sys2Proof.Machine.execHostGrant s
  | .goWritepull => Sys2Proof.Machine.execGoWritepull s
  | .bisnpResponse => Sys2Proof.Machine.execBisnpResponse s
  | .flitReceive => Sys2Proof.Machine.execFlitReceive s
  | .remotePutArrival => Sys2Proof.Machine.execRemotePutArrival s
  | .remoteGetArrival => Sys2Proof.Machine.execRemoteGetArrival s
  | .remoteAtomicArrival => Sys2Proof.Machine.execRemoteAtomicArrival s
  | .remoteSignalAddArrival => Sys2Proof.Machine.execRemoteSignalAddArrival s
  | .remoteResponseArrival => Sys2Proof.Machine.execRemoteResponseArrival s
  | .accumulatorManagementComplete => Sys2Proof.Machine.execAccumulatorManagementComplete s
  | .mailboxRequestComplete => Sys2Proof.Machine.execMailboxRequestComplete s
  | .portDown => Sys2Proof.Machine.execPortDown s

end Sys2Proof.Machine
end

