-- ==== Sys2Proof/Machine/Schedule.lean ====
section
/-! DEFINITION. What happens next: the issue schedulers (R249 to R251, R241, R398), the events that the machine has pending, and
what outside parties have put on the agenda. -/

namespace Sys2Proof.Machine

/-! ### Issue (R249 to R251) -/

/-- A gang stands back after a YIELD (R251). -/
def Gang.yielding (g : Gang) : Bool := decide (g.yieldFor ≠ []) && decide (0 < g.yieldLeft)

/-- A gang may try to issue (R249): crew gangs are held back by HALTC, by a critical trip, and by the containment of their partition
(R241, R393, R398). -/
def State.mayTry (s : State) (c k : Nat) (g : Gang) : Bool :=
  g.runnable && (k = privSlot || (! (s.core c).halted && ! s.power.tripped && ! s.noticed c (s.partOf c k))) &&
    ! (s.core c).trapDue k && s.fetched c k

/-- The state with an instruction of a slot at its issue. -/
def State.atIssue (s : State) (c k len stall : Nat) (word : BitVec 32) (ready : List Nat) : State :=
  { s with cur := { core := c, slot := k, len := len, stall := stall, word := word, ready := ready } }

/-- A wait of its next instruction holds the gang in a slot at issue (R249): the state is then the one in which that instruction has
asked the slices and the host for what it waits for. (log 76, DEDUCED) -/
def State.heldAt (s : State) (c k : Nat) : Option State :=
  match s.fetch c k with
  | .instr i len stall word =>
    match exec i (s.atIssue c k len stall word []) with
    | .next u => if u.core c = s.core c ∧ u.lodge = s.lodge then some (s.asked u) else none
    | _ => none
  | .bad _ _ _ => none

/-- A gang is ready but for a YIELD (R249). -/
def State.mayIssue (s : State) (c k : Nat) (g : Gang) : Bool := s.mayTry c k g && (s.heldAt c k).isNone

/-- The ready crew gangs of scheduler i of a core. -/
def State.readySlots (s : State) (c i : Nat) : List Nat :=
  ((s.core c).slots.filter (fun e => e.1 ≠ privSlot && e.1 / 16 = i && ! e.2.yielding && s.mayIssue c e.1 e.2)).map (·.1)

/-- The privileged slot is ready. -/
def State.privReady (s : State) (c : Nat) : Bool :=
  match s.gang? c privSlot with
  | some g => s.mayIssue c privSlot g
  | none => false

/-- A gang of a scheduler stands back after a YIELD. -/
def State.anyYielding (s : State) (c i : Nat) : Bool :=
  (s.core c).slots.any (fun e => e.1 ≠ privSlot && e.1 / 16 = i && e.2.yielding)

/-- The first slot in the order P, P + 1 and so on, modulo 16 (R250). -/
def firstFrom (p : Nat) : List Nat → Option Nat
  | [] => none
  | k :: rest => match firstFrom p rest with
    | none => some k
    | some j => some (if (k % 16 + 16 - p) % 16 ≤ (j % 16 + 16 - p) % 16 then k else j)

/-- An issue opportunity of scheduler i passes, with what it issues (R250, R251). (log 76, DEDUCED) -/
def State.opportunity (s : State) (c i : Nat) (issued : Option Nat) : State :=
  s.modCore c (fun x => { x with
    privLast := if i = 0 then false else x.privLast
    ptrs := match issued with
      | some k => minsert x.ptrs i ((k + 1) % 16)
      | none => x.ptrs
    slots := x.slots.map (fun (e : Nat × Gang) =>
      if e.1 ≠ privSlot && e.1 / 16 = i && e.2.yielding then
        (e.1, { e.2 with yieldFor := e.2.yieldFor.filter (fun k => some k ≠ issued), yieldLeft := e.2.yieldLeft - 1 })
      else e) })

/-- A gang of a scheduler that is held at issue asks the slices and the host for what it waits for, where it has not yet. -/
def State.asking (s : State) (c i : Nat) : Option State :=
  (s.core c).slots.findSome? (fun e =>
    if (if e.1 = privSlot then i = 0 else e.1 / 16 = i) && s.mayTry c e.1 e.2 then (s.heldAt c e.1).filter (fun u => u.host ≠ s.host || u.dir ≠ s.dir)
    else none)

/-- What a scheduler does in its turn: nothing is ready, an opportunity passes, or a slot issues beside those that are ready. -/
inductive Turn where
  | idle
  | passes (s : State)
  | issues (s : State) (k : Nat) (ready : List Nat)
deriving DecidableEq, Repr

/-- The turn of scheduler i of a core (R250): one in which nothing issues leaves the privileged slot first again.
(log 76, DEDUCED) -/
def State.turnOf (s : State) (c i : Nat) : Turn :=
  let ready := s.readySlots c i
  if i = 0 && s.privReady c && ! ((s.core c).privLast && decide (ready ≠ [])) then
    .issues (s.modCore c (fun x => { x with privLast := true })) privSlot ready
  else match firstFrom (mget 0 (s.core c).ptrs i) ready with
    | some k => .issues (s.opportunity c i (some k)) k ready
    | none =>
      match s.asking c i with
      | some u => .passes (u.opportunity c i none)
      | none => if s.anyYielding c i || (i = 0 && (s.core c).privLast) then .passes (s.opportunity c i none) else .idle

/-- The schedulers of the cores with gangs, from a number on and around. -/
def State.schedulers (s : State) : List Nat :=
  let all := (s.cores.filter (fun e => e.2.slots ≠ [])).flatMap (fun e => (List.range 4).map (fun i => 4 * e.1 + i))
  all.filter (fun n => s.turn ≤ n) ++ all.filter (fun n => n < s.turn)

/-! ### What a step runs -/

/-- What the machine does in a step: a meaning on a state, or a change of its own. -/
inductive Choice where
  | run (s : State) (i : Instr)
  | done (s : State)
deriving DecidableEq, Repr

/-- The slot k of a core issues its next instruction; one that cannot be fetched traps at the slot that R75 names.
(log 59, DESIGN CHOICE) -/
def State.issueSlot (s : State) (c k : Nat) (ready : List Nat) : Choice :=
  match s.fetch c k with
  | .instr i len stall word => .run ((s.noteFetch c k).atIssue c k len stall word ready) i
  | .bad cause slot word =>
    let at_ := ((s.gang? c k).map (·.slot)).getD 1
    let t : State := { s with cur := { core := c, slot := k, word := word } }
    let t := (t.modGang c k (fun g => { g with slot := slot })).takeTrap c k { cause := cause }
    .done (if k = privSlot then t else t.modGang c k (fun g => { g with slot := at_ }))

/-- The next scheduler that has something to issue takes its turn. (log 5, DESIGN CHOICE) -/
def State.issueNext (s : State) : List Nat → Option Choice
  | [] => none
  | n :: rest =>
    match s.turnOf (n / 4) (n % 4) with
    | .idle => s.issueNext rest
    | .passes t => some (.done { t with turn := n + 1 })
    | .issues t k ready => some ({ t with turn := n + 1 }.issueSlot (n / 4) k ready)

/-! ### Pending events -/

/-- The event by which a message between a core and a slice arrives (R286). -/
def MsgKind.event : MsgKind → Instr
  | .fillReq => .fillRequest
  | .store => .storeArrival
  | .homeOp => .homeOperationArrival
  | .evict => .evictionNotice
  | .cctl => .cctlRequestArrival
  | .ackUpdate | .ackInval => .updateAckArrival
  | .fillData => .fillData
  | .update => .update
  | .inval => .invalidate
  | .ackD => .ackD
  | .ackP => .ackP
  | .cctlAck => .cctlAck

/-- The event by which a message of the Lodge arrives. -/
def LMsg.event : LMsg → Instr
  | .version _ => .versionNoticeArrival
  | .retire _ _ _ _ => .retireArrival
  | .flip _ _ _ | .newVersion _ _ _ => .flipArrival
  | .leafQuiet _ _ => .leafQuietReport
  | .aggQuiet _ _ => .aggregatorQuietArrival
  | .freed _ _ _ => .freedArrival
  | .park _ _ _ _ _ _ => .parkRequestArrival
  | .parkAck _ _ _ _ _ _ => .parkAckArrival
  | .holdDec _ _ _ => .holdDecrementArrival
  | .stale _ => .staleReadIncrement
  | .gpstat _ _ _ _ _ => .gpstatServe
  | .chorePulse _ => .chorePulseArrival
  | .totals _ _ _ => .totalsArrival
  | .contain _ _ => .containmentNotice

/-- An event of a unit named by up to three numbers. -/
def ev (i : Instr) (a b c : Nat) : Instr × EvArg := (i, { a := a, b := b, c := c })

/-- Each element with its place. -/
def indexed {α : Type} (xs : List α) : List (Nat × α) := (List.range xs.length).zip xs

/-- Events of a core. -/
def Core.events (x : Core) (c : Nat) : List (Instr × EvArg) :=
  (mkeys x.slots).flatMap (fun k =>
    [ev .blockFetch c k 0, ev .gangSlotRetire c k 0, ev .waitConditionMet c k 0, ev .fairnessSwitch c k 0]) ++
  x.crews.flatMap (fun e => ev .gangReady c e.1 0 ::
    (mkeys e.2.bins).flatMap (fun b => [ev .binTimerExpire c e.1 b, ev .fillLaunch c e.1 b])) ++
  x.spads.map (fun p => ev .scratchpadCleared c p.1 0) ++
  x.loads.flatMap (fun l => [ev .loadComplete c l.id 0, ev .atomicReturn c l.id 0]) ++
  x.accs.map (fun a => ev .accumulatorManagementComplete c a.id 0) ++
  (mkeys x.queues).flatMap (fun q =>
    [ev .asyncCommandStart c q 0, ev .asyncCommandComplete c q 0, ev .engineFaultResume c q 0]) ++
  (List.range x.asyncQ.length).map (fun k => ev .asyncTrap c k 0) ++
  (if x.trapQ = [] then [] else [ev .trapRecordWrite c 0 0])

/-- Events of a queue. -/
def Queue.events (x : Queue) (q : Nat) : List (Instr × EvArg) :=
  [Instr.launchPacket, .graphPacket, .waitPacket, .signalPacket, .copyPacket, .indirectPacket, .fencePacket, .queueUnmap].map
    (fun i => ev i q 0 0) ++
  x.runs.map (fun r => ev .packetComplete q r.id 0) ++
  (x.runs.filter (fun r => r.stage < 2 && (r.ty = 4 || r.ty = 5))).map (fun r =>
    ev (if r.ty = 4 then .signalPacket else .copyPacket) q r.id 0)

/-- Events of a graph. -/
def GraphRun.events (g : GraphRun) : List (Instr × EvArg) :=
  (List.range g.nodes.length).flatMap (fun n =>
    [Instr.kernelNode, .copyNode, .signalNode, .waitNode, .tailNode, .loopNode, .loopIterationEnd].map (fun i => ev i g.id n 0))

/-- Events of an entry of a slice; where another of the slice waits for room, it may be the one to leave (R12, R288). -/
def DirEntry.events (e : DirEntry) (key : Nat) (full : List Nat) : List (Instr × EvArg) :=
  (if e.writeBack then [ev .writeBackComplete key 0 0] else []) ++
  (if e.fetching then [ev .lineFetchReturn key 0 0] else []) ++
  (if e.slice ∈ full && ! e.waitRoom then [ev .l2VictimSelection key 0 0] else [])

/-- The ops of the management ring whose request is next, and the event of any other. -/
def State.ringEvents (s : State) : List (Instr × EvArg) :=
  match s.lodge.asks with
  | [] => []
  | n :: _ => [Instr.mgmtReadRegister, .mgmtWriteRegister, .claimChore, .postChore, .switch, .mgmtInvalidOp].map (fun i => ev i n 0 0)

/-- Every event that the machine may have pending; those that cannot happen now change nothing. -/
def State.events (s : State) : List (Instr × EvArg) :=
  (indexed s.net).map (fun e => ev e.2.kind.event e.1 0 0) ++
  (indexed s.lodge.msgs).map (fun e => ev e.2.event e.1 0 0) ++
  s.cores.flatMap (fun e => e.2.events e.1) ++
  s.dir.flatMap (fun e => e.2.events e.1 ((s.dir.filter (fun x => x.2.waitRoom)).map (fun x => x.2.slice))) ++
  (if s.host.posted = [] then [] else [(.lineFetchReturn, { flag := true, b := s.host.posted.length })]) ++
  (mkeys s.cmes).flatMap (fun k => ev .passGrant k 0 0 :: (List.range 4).map (fun q => ev .passComplete k q 0)) ++
  (List.range s.tops.length).flatMap (fun k =>
    [ev .trellisArrival k 0 0, ev .trellisComplete k 0 0, ev .engineFaultResume 0 (8 + k) 0]) ++
  (mkeys s.lodge.doms).flatMap (fun d => [ev .gracePeriodEnd d 0 0, ev .entryFree d 0 0]) ++
  (List.range 4).flatMap (fun d => [ev .queueMap d 0 0, ev .crewOffer d 0 0]) ++
  s.pergola.queues.flatMap (fun e => e.2.events e.1) ++
  (List.range s.pergola.signals.length).map (fun k => ev .signalUnitRead k 0 0) ++
  s.pergola.bells.map (fun q => ev .doorbell q 0 0) ++
  (mkeys s.pergola.grids).map (fun g => ev .gridRetire g 0 0) ++
  s.pergola.graphs.flatMap (fun e => e.2.events) ++
  s.lodge.contain.map (fun x => ev .containment x 0 0) ++
  (mkeys s.lodge.reported).map (fun x => ev .containmentComplete x 0 0) ++
  s.host.flips.map (fun f => ev .biasFlipLine f.page 0 0) ++
  s.ringEvents ++
  (if s.lodge.requests = [] then [] else [ev .attestationReport 0 0 0, ev .handoverRequest 0 0 0]) ++
  (if s.lodge.engine.isSome then [ev .mailboxRequestComplete 0 0 0] else [])

/-- The first event of a list that changes the state. (log 15, DEDUCED) -/
def State.firstEnabled (s : State) : List (Instr × EvArg) → Option Choice
  | [] => none
  | (i, a) :: rest =>
    let t : State := { s with arg := a }
    match exec i t with
    | .next u => if u = t then s.firstEnabled rest else some (.run t i)
    | _ => s.firstEnabled rest

/-- The pending event whose turn it is: the search starts further on with each step. (log 5, DESIGN CHOICE) -/
def State.eventNext (s : State) : Option Choice :=
  let es := s.events
  let n := s.clock % max es.length 1
  s.firstEnabled (es.drop n ++ es.take n)

/-- What the Lodge and the ports do before any pending event: requests of the management rings are seen as they come (R381), and flits
leave (R370, R371). (log 5, DESIGN CHOICE) -/
def State.upkeep (s : State) : Option Choice :=
  (s.hearAsks <|> s.transmit <|> s.forward <|> s.control).map .done

/-- What outside parties have put first on the agenda: an event, never an encoded instruction. -/
def State.agendaNext (s : State) : Option Choice :=
  match s.agenda with
  | [] => none
  | (i, a) :: rest =>
    let t : State := { s with agenda := rest }
    some (if Sys2Proof.encode i = [] then .run { t with arg := a } i else .done t)

/-- What the next step does. A soft error is found first. Steps are taken in turn by outside parties and gangs, and by pending
events; one that has nothing to do leaves its turn to the others. (log 5, DESIGN CHOICE) -/
def State.choose (s : State) : Choice :=
  let t : State := { s with clock := s.clock + 1, turnEv := ! s.turnEv }
  match s.upsets with
  | u :: rest => .done ({ t with upsets := rest }.findUpset u)
  | [] =>
    let gang := t.issueNext t.schedulers
    let pending := t.upkeep <|> t.eventNext
    let first := if s.turnEv then pending <|> gang <|> t.agendaNext else t.agendaNext <|> gang <|> pending
    first.getD (.done t)

/-! ### A word placed for the next step -/

/-- The bytes of a block whose first instruction is given by its words. -/
def codeBlock (ws : List (BitVec 32)) : List (BitVec 8) := (0x40000000#32 :: ws).flatMap Sys2Proof.bytesOfWord

/-- The state in which the privileged slot of core 0 stands at an instruction. (log 7, DESIGN CHOICE) -/
def State.placePriv (s : State) (bs : List (BitVec 8)) : State :=
  s.modCore 0 (fun x => { x with
    online := true, privLast := false
    slots := minsert x.slots privSlot (startGang 0)
    privCode := mputs 0#8 [] ((List.range bs.length).zip bs)
    l1i := 2 ^ 60 :: x.l1i })

/-- The state in which a crew gang in slot 0 of core 0, of a crew of partition 0, stands at an instruction, 32 lanes running: its
code has been fetched from page 0x10000. (log 7, DESIGN CHOICE) -/
def State.placeCrew (s : State) (bs : List (BitVec 8)) : State :=
  let snap : List Host.Cell := mputs 0#8 [] ((List.range bs.length).zipWith (fun i b => (0x10000 + i, b)) bs)
  let grid : Grid := { id := 1, queue := 0, run := 0, hdr := [], karg := 0#64, snap := snap, next := 1, live := [1], lastCore := some 0 }
  let crew : Crew := { num := 1, grid := 1, codeBase := 0x10000#64, slots := [0], vcount := 64, ucount := 60, tcount := 16, index := 0 }
  let gang : Gang := { crew := 1, block := 0, lanes := allLanes.map (fun l => (l, { st := .run })) }
  let page : Tlb := { root := 0, va := 0x10000, size := 0x1000, dpa := 0x10000, write := true, exec := true }
  let t := s.modCore 0 (fun x => { x with
    online := true, privLast := true, halted := false, ptrs := merase x.ptrs 0
    slots := minsert x.slots 0 gang
    crews := minsert x.crews 1 crew
    tlb := page :: x.tlb
    l1i := 0x10000 :: x.l1i })
  { t with pergola := { t.pergola with grids := minsert t.pergola.grids 1 grid } }

/-- The state whose next step issues the instruction of some words. (log 7, DESIGN CHOICE) -/
def State.place (s : State) (ws : List (BitVec 32)) : State :=
  let op := (Sys2Proof.fieldOp (ws.headD 0#32)).toNat
  let bs := codeBlock ws
  let t : State := { s with agenda := [], upsets := [], turnEv := false, turn := 0, lodge := { s.lodge with stage := 3 } }
  if 0xF0 ≤ op ∧ op ≤ 0xF5 then t.placePriv bs else t.placeCrew bs

end Sys2Proof.Machine
end

