-- ==== Sys2Proof/Machine/Step.lean ====
section
/-! DEFINITION. One step of the module. -/

namespace Sys2Proof.Machine

/-- One step: the instruction or event whose turn it is. (log 3, DESIGN CHOICE) -/
def step (s : State) : Host.Outcome State Fault Refusal :=
  match s.choose with
  | .run t i => exec i t
  | .done t => .next t

/-- The state with the instruction of a table row placed where the next step fetches. (log 7, DESIGN CHOICE) -/
def State.withFetchWord (s : State) (_nbits w : Nat) : State := s.place (Sys2Proof.tableWords w)

end Sys2Proof.Machine
end

