-- ==== Sys2Proof/Safety.lean ====
section
/-! DEFINITION. The terms in which claims about the machine are stated: when a gang may issue an instruction, how an
instruction ends, what it gives its registers, which state it leaves alone, and what every reachable state satisfies. -/

namespace Sys2Proof.Machine

/-! ### Issue -/

/-- The gang that State.cur names, as its instruction begins: results that have landed are in place (R84, R255). -/
def State.issuing (s : State) : Option Gang := (s.gang? s.cur.core s.cur.slot).map Gang.begin

/-- The headers of the blocks that an instruction of signature sg looks at are there to be read: their slices and the host let it read
them, and they match their check values (R75, R288, R389). -/
def State.seesHeads (s : State) (g : Gang) (sg : Sig) : Bool :=
  let heads := s.headsOf s.cur.core s.cur.slot g s.cur.len sg.looks
  (s.accessAll false heads (s.partOf s.cur.core s.cur.slot)).2 && (s.spotBad heads).isNone

/-- The gang g issues an instruction of signature sg: it may (R82), nothing that the instruction names is held (R89, R203), the
checking scoreboard has nothing to say (R86), and the headers that it looks at are there. -/
def State.canIssue (s : State) (g : Gang) (sg : Sig) : Bool :=
  decide (s.issuing = some g) && (! sg.priv || decide (s.cur.slot = privSlot)) && sg.ok && sg.tiles && ! sg.waits g &&
    (! (s.core s.cur.core).schk || ! sg.late g) && sg.closed.isNone && s.seesHeads g sg

/-- The issuing gang's walks for some addresses lead from s to t: every table entry that they read has come and matches its check value,
and their translations stand in the caches (R359). -/
def State.walksTo (s : State) (vas : List (BitVec 64)) (t : State) : Prop :=
  s.walked s.cur.core (s.rootOf s.cur.core s.cur.slot) vas = (t, .ready)

/-- The state t, once the issue and n register-bank accesses of the issuing slot are counted (R320). -/
def State.billed (s : State) (n : Nat) (t : State) : State :=
  (t.count (dieOf s.cur.core) (s.partOf s.cur.core s.cur.slot) 5 1).count (dieOf s.cur.core) (s.partOf s.cur.core s.cur.slot) 6 n

/-- The register-bank accesses of the issuing gang for an instruction of signature sg (R28). -/
def State.bankReads (s : State) (sg : Sig) : Nat := (s.issuing.map (fun g => g.bankReads (sg.allReads g))).getD 0

/-- The state t in which an instruction's effect leaves the machine, once the gang has gone on and the issue is counted. -/
def State.ends (s : State) (sg : Sig) (t : State) : State :=
  s.billed (s.bankReads sg) (t.finish s.cur.core s.cur.slot s.cur.len s.cur.stall sg.lat)

/-- The same for an instruction that has itself set the gang's place. -/
def State.leaves (s : State) (sg : Sig) (t : State) : State := s.billed (s.bankReads sg) t

/-- The state after the issuing instruction has taken a trap (R232). -/
def State.traps (s : State) (t : Trap) : State := s.billed 0 (s.takeTrap s.cur.core s.cur.slot t)

/-! ### Results -/

/-- What the lanes of an instruction give its destination: f gives a lane's words and flags (R27, R101). -/
def Gang.laneWrites (g : Gang) (d : Dst) (f : Nat → List (BitVec 32) × Flags) : List (Loc × BitVec 128) :=
  (g.workers d).flatMap (fun l => dstWords d l (f l).1)

/-- The flags of those lanes together (R39). -/
def Gang.laneFlags (g : Gang) (d : Dst) (f : Nat → List (BitVec 32) × Flags) : Flags :=
  (g.workers d).foldl (fun x l => x ||| (f l).2) 0#32

/-- The state after an instruction of fixed latency whose results are ws and whose flags are fl. -/
def State.gives (s : State) (g : Gang) (sg : Sig) (ws : List (Loc × BitVec 128)) (fl : Flags) : State :=
  s.ends sg (s.put ((g.schedule (sg.lat.getD 1) ws).setFlags fl))

/-- The state after an instruction that gives each of its lanes the words and flags of f. -/
def State.givesLanes (s : State) (g : Gang) (sg : Sig) (d : Dst) (f : Nat → List (BitVec 32) × Flags) : State :=
  s.gives g sg (g.laneWrites d f) (g.laneFlags d f)

/-- An exact integer as the words of the gang's integer view, wrapped or saturated, with its flags (R100). -/
def Gang.intWords (g : Gang) (sat : Bool) (x : Int) : List (BitVec 32) × Flags :=
  let r := intResult x g.iw g.isg sat
  (wordsOf g.wide r.1, r.2)

/-- A pattern of the gang's integer view as register words (R48). -/
def Gang.bitWords (g : Gang) (x : Nat) : List (BitVec 32) × Flags :=
  (wordsOf g.wide (fillBits g.iw g.isg (x % 2 ^ g.iw)), 0#32)

/-- The element of a source under the gang's integer view, as a pattern (R99). -/
def Gang.bitsOf (g : Gang) (a : Src) (l : Nat) : Nat := g.el g.iw a l

/-! ### Packets -/

/-- The next packet of queue q starts as one of type ty: p are its bytes, read at va with t left behind, w is the state in which
it starts, u being the state in which it has read the tables for its addresses (R359), and r is its run (R305, R306). -/
structure PacketStarts (s : State) (q ty : Nat) (p : List (BitVec 8)) (va : BitVec 64) (t u w : State) (r : PRun) : Prop where
  mapped : (s.queue q).state = 1
  unparked : (s.queue q).park = none
  works : s.worksFrom 3 = true
  read : s.nextPacket q = some (t, .got p, va)
  kind : fieldAt p 0 1 = ty
  turn : s.mayStartPacket q p = true
  wins : s.offerWinner (s.queue q).die = some q
  gate : (t.access true { a := t.descAt q, n := 64 }).2 = true
  good : packetBad p = none
  tables : ((t.access true { a := t.descAt q, n := 64 }).1.won q).pergTables (s.queue q).part (packetRanges p) = (u, .ready)
  reachable : u.packetLost (s.queue q).part p = none
  state : w = u.bump
  run : r = { id := u.nextId, ty := ty, index := (s.queue q).ringPos, addr := va, bytes := p }

/-! ### What stays -/

/-- The machine but for its cores and the event counts of its power managers. -/
def State.outside (s : State) : State := { s with cores := [], power := {} }

/-- Two states differ in nothing outside a core but the event counts: other cores, memory, its directory, its messages and its
operations, Lodge, Pergola and every link are the same. -/
def SameOutside (s t : State) (c : Nat) : Prop := t.outside = s.outside ∧ ∀ d, d ≠ c → t.core d = s.core d

/-- Memory in its one canonical form. -/
def Memory.wf (m : List Host.Cell) : Bool := mcanon 0#8 m

/-- What every reachable state satisfies: memory, and the numbers of the writes that its bytes come from, stand in their
canonical forms, so that equal contents are equal states. -/
def State.Inv (s : State) : Prop := Memory.wf s.mem = true ∧ mcanon 0 s.stamps = true

/-- A gang's lanes and registers stand in the order of their numbers, and its pending writes in the order in which they land
(R84). -/
structure Gang.Ordered (g : Gang) : Prop where
  lanes : msorted g.lanes = true
  vregs : msorted g.vregs = true
  uregs : msorted g.uregs = true
  preds : msorted g.preds = true
  tdescs : msorted g.tdescs = true
  pend : g.pend.Pairwise (fun x y => x.land ≤ y.land)

/-- What the lanes in a crew's regroup bins carry stands in the same order. -/
def Crew.Ordered (w : Crew) : Prop := ∀ b ∈ w.bins, ∀ x ∈ b.2.lanes, msorted x.uregs = true ∧ msorted x.tdescs = true

/-- The same of every gang and crew, on a core or saved. -/
structure State.Ordered (s : State) : Prop where
  gangs : ∀ x ∈ s.cores, ∀ e ∈ x.2.slots, e.2.Ordered
  crews : ∀ x ∈ s.cores, ∀ e ∈ x.2.crews, e.2.Ordered
  saved : ∀ e ∈ s.pergola.saved, e.2.crew.Ordered

end Sys2Proof.Machine
end

