-- ==== Sys2Proof/WellFormed.lean ====
section
/-! DEFINITION. Which instructions an encoding can stand for: register numbers inside the ranges of R78, and illegal words that
are illegal; an event has no encoding and no operand. -/

namespace Sys2Proof

/-- R78: v0 to v191 and g0 to g59. -/
def Src.wf : Src → Bool
  | .vec n => decide (n < 192)
  | .uni n => decide (n < 60)
  | _ => true

/-- R78: v0 to v191, g0 to g59, and the three codes that trap. -/
def Dst.wf : Dst → Bool
  | .vec n => decide (n < 192)
  | .uni n => decide (n < 60)
  | .none => true
  | .bad c => decide (0xFD ≤ c ∧ c < 0x100)

/-- An instruction that some words encode, or an event. -/
def Instr.wf : Instr → Bool
  | .setm a | .brx a | .ret a | .setexm a | .wrsr _ a | .vtop _ a | .pref a _ | .cctlEvictL1 a | .cctlWriteBack a
  | .waitc _ a | .tset _ a | .acqa _ a _ | .sxsave a | .gpwait a | .pbarr a _ | .eret a | .tlbinv a _ | .slotcfgResume a
  | .slotcfgSkipResume a | .slotcfgKill a | .slotcfgRingBase a | .slotcfgTrapVector a | .slotcfgStopCrew a => a.wf
  | .getm d | .call d _ | .getexm d | .rdsr d _ | .ptov d _ | .votebal d _ | .rng d | .rngf d | .tget d _ | .sxstat d _
  | .retire d _ | .gpstat d _ => d.wf
  | .callx d a | .iabs d a | .ineg d a | .not d a | .popc d a | .clz d a | .brev d a | .mov d a | .movl d a | .cvti d a _
  | .gredadd d a | .gredmin d a | .gredmax d a | .gscanadd d a _ | .gmaxred d a | .gmask d a _ | .fabs d a | .fneg d a
  | .fclass d a | .ffract d a | .ffloor d a | .fround d a | .frcp d a | .frsq d a | .fsqrt d a | .fexp2 d a | .flog2 d a
  | .fsin d a | .fcos d a | .ftanh d a | .cvtf d a _ | .cvtfi d a _ | .cvtif d a _ | .unpack d a _ | .ldw d a _ | .ldrow d a
  | .vradd d a _ | .vrmax d a _ | .sxopen d a _ | .sxload d a | .sxdepth d a | .publish d a | .ctxld d a => d.wf && a.wf
  | .iadd d a b | .isub d a b | .iaddc d a b | .isubb d a b | .imul d a b | .imulh d a b | .imad d a b | .imin d a b
  | .imax d a b | .and d a b | .or d a b | .xor d a b | .andn d a b | .shl d a b | .shr d a b | .sar d a b | .rotl d a b
  | .bfx d a b | .bfi d a b | .lea d a b | .lea64 d a b | .sel d a b | .shfl d a b | .shflup d a b | .shfldn d a b
  | .shflx d a b | .bcast d a b | .movvg d a b | .movgv d a b | .gcntgt d a b | .gsumgt d a b | .fadd d a b | .fsub d a b
  | .fmul d a b | .ffma d a b | .ffms d a b | .fmin d a b | .fmax d a b | .fscale d a b | .pack d a b | .hadd2 d a b
  | .hmul2 d a b | .hfma2 d a b | .fdot2 d a b | .fdot4 d a b | .ld d a b | .st d a b | .ldr d a b | .ldg d a b | .lds d a b
  | .sts d a b | .atadd d a b | .atmin d a b | .atmax d a b | .atand d a b | .ator d a b | .atxor d a b | .atxch d a b
  | .atcas d a b | .sxmatch d a b | .ctxst d a b => d.wf && a.wf && b.wf
  | .icmpeq _ a b | .icmpne _ a b | .icmplt _ a b | .icmple _ a b | .icmpltn _ a b | .icmplen _ a b | .fcmpeq _ a b
  | .fcmpne _ a b | .fcmplt _ a b | .fcmple _ a b | .fcmpun _ a b | .fcmpord _ a b | .stc _ a b | .redadd a b | .redmin a b
  | .redmax a b | .redand a b | .redor a b | .redxor a b | .sigwait _ a b | .awr _ a b | .sxappend _ a b | .pbwait a b
    => a.wf && b.wf
  | .lda d _ b | .stl d _ b | .tldsc d _ b | .tstsc d _ b | .ard d _ b => d.wf && b.wf
  | .agath _ _ b | .ascat _ _ b | .mma _ _ b | .mma2 _ _ b | .mmat _ _ b | .tperm _ _ b => b.wf
  | .nop _ | .bra _ | .brp _ _ | .meet | .exit | .done | .yield | .regroup _ | .trap _ | .bkpt _ | .pand _ _ _ | .por _ _ _
  | .pxor _ _ _ | .pnot _ _ | .pmov _ _ | .voteall _ _ | .voteany _ _ | .fence _ | .acpy _ _ _ | .acpys _ _ _ | .rput _ _ _
  | .rget _ _ _ | .ratom _ _ _ | .aqfence _ _ | .wsig _ _ _ | .sigadd _ _ _ | .ttrans _ _ | .trsum _ _ _ | .aclr _ _
  | .ald _ _ _ | .ast _ _ _ | .adrain _ _ _ | .rela _ _ | .sxclose _ | .rsenter | .rsleave | .bararr _ | .barwait _
  | .barsync _ | .evroute _ _ _ | .evpost _ | .evwait _ | .haltcWaitTrapLine | .haltcHaltCrews | .haltcResumeCrews
  | .fairnessSwitch | .gangSlotRetire | .scratchpadCleared | .binTimerExpire | .fillLaunch | .gangReady | .blockFetch
  | .translationWalk | .loadComplete | .atomicReturn | .fillRequest | .storeArrival | .homeOperationArrival
  | .evictionNotice | .cctlRequestArrival | .updateAckArrival | .l2VictimSelection | .writeBackComplete | .lineFetchReturn
  | .fillData | .update | .invalidate | .ackD | .ackP | .cctlAck | .versionNoticeArrival | .asyncCommandStart
  | .asyncCommandComplete | .engineFaultResume | .asyncTrap | .trapRecordWrite | .passGrant | .passComplete
  | .trellisArrival | .trellisComplete | .retireArrival | .flipArrival | .leafQuietReport | .aggregatorQuietArrival
  | .gracePeriodEnd | .entryFree | .freedArrival | .parkRequestArrival | .parkAckArrival | .holdDecrementArrival
  | .staleReadIncrement | .gpstatServe | .chorePulseArrival | .waitConditionMet | .doorbell | .queueMap | .queueUnmap
  | .launchPacket | .graphPacket | .waitPacket | .signalPacket | .copyPacket | .indirectPacket | .fencePacket
  | .signalUnitRead | .crewOffer | .gridRetire | .packetComplete | .kernelNode | .copyNode | .signalNode | .waitNode
  | .tailNode | .loopNode | .loopIterationEnd | .budgetWindowEnd | .totalsArrival | .sensorSample | .containment
  | .containmentNotice | .containmentComplete | .resetRelease | .stage1 | .stage2 | .hostLinkTraining | .registerWrite
  | .flack | .biasToHost | .biasToDevice | .biasFlipLine | .attestationReport | .handoverRequest | .mgmtReadRegister
  | .mgmtWriteRegister | .claimChore | .postChore | .switch | .mgmtInvalidOp | .hostRead | .hostWrite | .hostCxlMemRequest
  | .snpData | .snpInv | .hostGrant | .goWritepull | .bisnpResponse | .flitReceive | .remotePutArrival | .remoteGetArrival
  | .remoteAtomicArrival | .remoteSignalAddArrival | .remoteResponseArrival | .accumulatorManagementComplete
  | .mailboxRequestComplete | .portDown => true
  | .illegalInstruction w => decide ((decode [w]).toOption = some (.illegalInstruction w, 1))
  | .illegalOperand w lits => decide ((decode (w :: lits)).toOption = some (.illegalOperand w lits, 1 + lits.length))

end Sys2Proof
end

