-- ==== Sys2Proof/Certificates/Slice0/Obligations.lean ====
section
/-! DEFINITION. The statements about the model, for the provers. A statement about an instruction says, for every state in which
its gang may issue it, the whole next state: what its rule gives, and with it everything that it leaves alone. -/

section Statements

open Sys2Proof Sys2Proof.Machine


/-! ### A step, decoding, the schedulers (R72 to R83, R249, R250) -/

/-- R72 to R79 and R83: when a scheduler gives its turn to a gang, and the words at the gang's slot of its block decode, the
step is the meaning of that instruction, with its length and its stall code. Whose turn it is, and that an event which an
outside party has put first is run as it stands, are the model's own order of events (log 5, the model's choice). -/
def Obligations.StepRunsDecodedInstruction : Prop :=
  ∀ (s u : State) (g : Gang) (pre rest : List Nat) (n k : Nat) (ready : List Nat) (h : BitVec 32) (code : List (BitVec 32)) (i : Instr) (len : Nat)
    (a : EvArg) (more : List (Instr × EvArg)),
    let t : State := { s with clock := s.clock + 1, turnEv := true }
    let c := n / 4
    let v : State := { u with turn := n + 1 }
    let at_ := code.drop (g.slot - 1)
    s.turnEv = false → s.upsets = [] →
    (s.agenda = [] → t.schedulers = pre ++ n :: rest → (∀ m ∈ pre, t.turnOf (m / 4) (m % 4) = .idle) →
      t.turnOf c (n % 4) = .issues u k ready → v.gang? c k = some g → v.block c k g.block = .ok (h :: code) → h.getLsbD 31 = false →
      decode at_ = .ok (i, len) → (∀ j < len - 1, stallOf h (g.slot + 1 + j) = 0) →
        step s = exec i ((v.noteFetch c k).atIssue c k len (stallOf h g.slot) (at_.headD 0#32) ready)) ∧
    (∀ w : State, (w.atIssue c k len (stallOf h g.slot) (at_.headD 0#32) ready).cur =
        { core := c, slot := k, len := len, stall := stallOf h g.slot, word := at_.headD 0#32, ready := ready } ∧
      ((v.noteFetch c k).gang? c k).map (fun x => { x with fetchedAt := none }) = (v.gang? c k).map (fun x => { x with fetchedAt := none }) ∧
      (v.noteFetch c k).mem = v.mem) ∧
    (s.agenda = (i, a) :: more →
      (encode i = [] → step s = exec i { t with agenda := more, arg := a }) ∧
      (encode i ≠ [] → step s = .next { t with agenda := more }))

/-- R250: a scheduler issues the first ready gang in slot order from its pointer, and its pointer goes behind that gang; with
no ready gang its pointer stays; the privileged slot goes first in scheduler 0, but not twice in a row past a ready crew gang.
That a gang which a wait holds at issue is not ready is R249's word; when a turn passes with no issue, and that it leaves the
privileged slot first again, is the model's reading (log 76). -/
def Obligations.SchedulersTakeGangsInTurn : Prop :=
  ∀ (s u : State) (c i k : Nat),
    let p := mget 0 (s.core c).ptrs i
    let ready := s.readySlots c i
    let first := decide (i = 0) && s.privReady c && ! ((s.core c).privLast && decide (ready ≠ []))
    (∀ r, s.turnOf c i = .issues u k r → r = ready ∧
      (first = true → k = privSlot ∧ (u.core c).ptrs = (s.core c).ptrs ∧ (u.core c).privLast = true) ∧
      (first = false → k ∈ ready ∧ (∀ j ∈ ready, (k % 16 + 16 - p) % 16 ≤ (j % 16 + 16 - p) % 16) ∧
        mget 0 (u.core c).ptrs i = (k + 1) % 16 ∧ (i = 0 → (u.core c).privLast = false))) ∧
    (first = true → ∃ t, s.turnOf c i = .issues t privSlot ready) ∧
    (first = false → ready ≠ [] → ∃ t j, s.turnOf c i = .issues t j ready) ∧
    (first = false → ready = [] →
      (s.turnOf c i = .idle ∧ s.anyYielding c i = false ∧ (i = 0 → (s.core c).privLast = false)) ∨
        ∃ t, s.turnOf c i = .passes t ∧ (t.core c).ptrs = (s.core c).ptrs ∧ (i = 0 → (t.core c).privLast = false) ∧
          ∀ j g, s.gang? c j = some g → j ≠ privSlot → j / 16 = i → g.yielding = true →
            (t.gang? c j).map (·.yieldLeft) = some (g.yieldLeft - 1))

/-- The words of one instruction of each family, written out from the layout of R76 and the map of R80, decode to it: the
operation in bits 31 to 24, then D, A and B, and a literal word after the instruction where a source field holds 0xFF. -/
def Obligations.DecodeSamples : Prop :=
  decode [0x00123456#32] = .ok (.nop 0x123456#24, 1) ∧
  decode [0x14030102#32] = .ok (.iadd (.vec 3) (.vec 1) (.vec 2), 1) ∧
  decode [0x14C3FF01#32, 0x00000007#32] = .ok (.iadd (.uni 3) (.lit 0x00000007#32) (.vec 1), 2) ∧
  decode [0x07C20010#32] = .ok (.call (.uni 2) 0x0010#16, 1) ∧
  decode [0x40050607#32] = .ok (.pand 5#8 6#8 7#8, 1) ∧
  decode [0x63FCFDC0#32] = .ok (.ffma .none .lane (.uni 0), 1) ∧
  decode [0x9004C002#32] = .ok (.ld (.vec 4) (.uni 0) (.vec 2), 1) ∧
  decode [0xA0FC0406#32] = .ok (.atadd .none (.vec 4) (.vec 6), 1) ∧
  decode [0xB0011003#32] = .ok (.acpy 1#8 0x10#8 3#8, 1) ∧
  decode [0xC4010203#32] = .ok (.mma 1#8 2#8 (.vec 3), 1) ∧
  decode [0xD9050AFF#32, 0x80000000#32] = .ok (.sxappend 5#8 (.vec 0x0A) (.lit 0x80000000#32), 2) ∧
  decode [0xE0000000#32] = .ok (.rsenter, 1) ∧
  decode [0xEA000007#32] = .ok (.barsync 7#8, 1) ∧
  decode [0xF000C100#32] = .ok (.eret (.uni 1), 1) ∧
  decode [0x1F000000#32] = .ok (.illegalInstruction 0x1F000000#32, 1) ∧
  decode [0xE0000001#32] = .ok (.illegalOperand 0xE0000001#32 [], 1)

/-- R76 to R80: every instruction that its words can hold is read back from them, with the number of its words, whatever comes
after them. -/
def Obligations.DecodeOfEncode : Prop :=
  ∀ (i : Instr) (ws : List (BitVec 32)), i.wf = true → encode i ≠ [] → decode (encode i ++ ws) = .ok (i, (encode i).length)

/-- R76 to R80: whatever words decode to, it is well formed, and its words are the ones that were read. -/
def Obligations.EncodeOfDecode : Prop :=
  ∀ (ws : List (BitVec 32)) (i : Instr) (n : Nat), decode ws = .ok (i, n) → i.wf = true ∧ encode i = ws.take n

/-- R81: a word of an unassigned code traps with cause 0x01 in every slot, and takes no literal; one of 0xF0 to 0xF5 traps
with cause 0x05 in a crew slot, once the header of the block that it ends in front of is there to be read (R75); and nothing
of the machine but the gang's stop, its record, and the count of the issue, shows it. -/
def Obligations.UnassignedAndPrivilegedWords : Prop :=
  ∀ (s : State) (g g0 : Gang) (w : BitVec 32) (ws : List (BitVec 32)) (i : Instr) (n : Nat),
    let op := (w.extractLsb' 24 8).toNat
    s.issuing = some g → s.gang? s.cur.core s.cur.slot = some g0 →
    (op ∈ [0x1F, 0x47, 0x4B, 0x53, 0x5B, 0x5F, 0x6E, 0x6F, 0x97, 0x9F] ∨ 0x7D ≤ op ∧ op ≤ 0x7F ∨ 0x85 ≤ op ∧ op ≤ 0x8F ∨
      0xBC ≤ op ∧ op ≤ 0xBF ∨ 0xD2 ≤ op ∧ op ≤ 0xD7 ∨ 0xE6 ≤ op ∧ op ≤ 0xE7 ∨ 0xF6 ≤ op →
      decode (w :: ws) = .ok (.illegalInstruction w, 1) ∧
      exec (.illegalInstruction w) s = .next (s.traps { cause := 0x01 })) ∧
    (0xF0 ≤ op → op ≤ 0xF5 → s.cur.slot ≠ privSlot → decode (w :: ws) = .ok (i, n) → s.seesHeads g { ok := true } = true →
      exec i s = .next (s.traps { cause := 0x05 })) ∧
    (∀ x, s.cur.slot ≠ privSlot → x = 0x01 ∨ x = 0x05 →
      (s.traps { cause := x }).gang? s.cur.core s.cur.slot = some { g0 with stopped := true, faultStop := false } ∧
      (∀ j, j ≠ s.cur.slot → (s.traps { cause := x }).gang? s.cur.core j = s.gang? s.cur.core j) ∧
      (∃ m q, (s.traps { cause := x }).core s.cur.core = { s.core s.cur.core with slots := m, trapQ := q }) ∧
      SameOutside s (s.traps { cause := x }) s.cur.core)

/-! ### What every step keeps, and how steps end -/

/-- The model's own invariant: memory and the numbers of the writes that its bytes come from stay in their canonical forms, so
that equal contents are equal states. -/
def Obligations.StepKeepsInv : Prop :=
  ∀ (s t : State), s.Inv → step s = .next t → t.Inv

/-- The model's own invariant: the registers, the lanes and the pending writes of every gang, and what the lanes in a bin
carry, stay in order. -/
def Obligations.StepKeepsOrder : Prop :=
  ∀ (s t : State), s.Ordered → step s = .next t → t.Ordered

/-- R379 and R398: the stage of start never goes back, and a start that has failed stays as it is. -/
def Obligations.StartNeverGoesBack : Prop :=
  ∀ (s t : State), step s = .next t →
    s.lodge.stage ≤ t.lodge.stage ∧ (s.lodge.fail = true → t.lodge.fail = true ∧ t.lodge.stage = s.lodge.stage)

/-- The model's own totality: every step has a next state, no meaning refuses, and the one fault is an encoded instruction in
a slot that holds no gang, the model's choice of how to answer what no step asks (log 16). -/
def Obligations.StepsAlwaysGoOn : Prop :=
  (∀ s : State, ∃ t, step s = .next t) ∧
  (∀ (i : Instr) (s : State) (g : Gang), encode i = [] ∨ s.issuing = some g → ∃ t, exec i s = .next t) ∧
  (∀ (i : Instr) (s : State), encode i ≠ [] → s.issuing = none → exec i s = .fault .noGang)

/-- R44, R378 and R379: after reset no core is online, no slot holds a gang, nothing stands in memory, the start status reads
0, and both invariants hold; a core's privileged slot starts with every register zero, MODE 0xC00 and EXM 1; a core of a die
that comes online has its trap line at 0 (R242), and no root that a TLBINV has not brought it (R357). That memory reads zero,
and that the cycle count starts at 0 there, are the model's choice (logs 1 and 97). -/
def Obligations.ResetAndStartValues : Prop :=
  State.reset.Inv ∧ State.reset.Ordered ∧ State.reset.lodge.stage = 0 ∧ State.reset.lodge.fail = false ∧
  State.reset.readReg 0 8 = 0#64 ∧
  (∀ c k, State.reset.gang? c k = none ∧ (State.reset.core c).online = false ∧ (State.reset.core c).handler = false) ∧
  (∀ a, State.reset.byte a = 0#8) ∧
  (∀ (s : State) (c : Nat) (img : Image), ∃ g, (s.startArbor c img).gang? c privSlot = some g ∧
    ((s.startArbor c img).core c).rngk = 0#64 ∧ g.mode = 0x00000C00#32 ∧ maskOf g.exm = 1#32 ∧ g.nstat = 0#32 ∧ g.cychi = 0#32 ∧ g.slot = 1 ∧
    (∀ r l, g.v r l = 0#32 ∧ g.u r = 0#32 ∧ g.t r = 0#128 ∧ (g.pred r l = true ↔ r = 0)) ∧
    (∀ l, (g.lane l).nest = 0 ∧ (g.lane l).resv = none ∧ (g.lane l).rngctr = 0#32 ∧ (g.lane l).bindValid = false)) ∧
  (∀ (s : State) (d i : Nat), i < 40 →
    let x := (s.dieOnline d).core (40 * d + i)
    x.online = true ∧ x.trapLine = 0 ∧ x.cyc0 = s.clock ∧ x.roots = [])

/-! ### Memory at its home (R168 to R172, R276, R287, R389, R390) -/

/-- R276, R389 and R390: a write at a home changes the bytes it is given and no other, unless a sector that it writes in part
fails its check, and then changes nothing. -/
def Obligations.HomeWritesReadBack : Prop :=
  ∀ (s : State) (port seq a x : Nat) (bs : List (BitVec 8)), s.Inv →
    let r := s.homeWrite port seq a bs
    (r.2 = true → r.1.byte x = if a ≤ x ∧ x < a + bs.length then bs.getD (x - a) 0#8 else s.byte x) ∧
    (r.2 = false → r.1 = s) ∧
    (r.2 = false ↔ bs ≠ [] ∧ ∃ q ∈ sectorsOf a bs.length, s.sectorOk q = false ∧ covers a bs.length q = false)

/-- R168 to R172, R192, R193, R222, R276, R287 and R390: an operation that its instruction's checks let through changes no
byte outside its spans, nor one that its lanes do not select; stores, engine writes, the blocks of TSTSC and of drains with
their records, and PUBLISH leave their data; each atomic leaves its sum, minimum, maximum, bits, exchange or compare-and-swap;
a row operation its BF16 sum or maximum in every element; a store conditional its data, or nothing where another write has
come between; and a read, a block read and a CCTL nothing. One that has been lost with its instruction changes nothing. R168
and R172: a write marks every byte that it changes as its own; each lane's reservation, and its store conditionals in flight,
follow that lane's own write wherever nothing else came between, and stay as they were where the lane wrote nothing. Element e
of a row operation is lane e ÷ 8's. -/
def Obligations.OperationsAtTheirHome : Prop :=
  (∀ (s : State) (o : MemOp), s.Inv →
     let t := s.applyOp o
     let selects := fun (x : Span) (i : Nat) => x.mask = [] ∨ x.mask.getD i false = true
     (∀ a, (∀ y ∈ o.spans, a < y.addr ∨ y.addr + y.data.length ≤ a) → a < 0x7FFFFC1000 ∨ 0x7FFFFC3000 ≤ a →
       t.byte a = s.byte a) ∧
     (o.lost = true → t.mem = s.mem) ∧
     (o.lost = false → s.siblings o = [o] → (∀ x ∈ o.spans, s.rangeOk x.addr x.data.length = true) →
       o.spans.Pairwise (fun x y => x.addr + x.data.length ≤ y.addr ∨ y.addr + y.data.length ≤ x.addr) →
       ((∃ l, o.kind = .read l) ∨ (∃ r l, o.kind = .block r l) ∨ (∃ n, o.kind = .cctl n) → t.mem = s.mem) ∧
       ∀ x ∈ o.spans,
         let z := x.data.length
         let m := leNat (s.bytes x.addr z)
         let b := leNat x.data
         (∀ i, i < z → ¬ selects x i → t.byte (x.addr + i) = s.byte (x.addr + i)) ∧
         (o.kind = .store ∨ o.kind = .bytes ∨ (∃ d, o.kind = .publish d) →
           ∀ i, i < z → selects x i → t.byte (x.addr + i) = x.data.getD i 0#8) ∧
         (∀ op ty cmp, o.kind = .atomic op ty cmp → x.mask = [] →
           let signed : Bool := ty = 4 || ty = 6
           let lower := readInt (8 * z) signed b < readInt (8 * z) signed m
           let higher := readInt (8 * z) signed m < readInt (8 * z) signed b
           (op = 0 → ty ≠ 12 → t.bytes x.addr z = leBytes z ((m + b) % 2 ^ (8 * z))) ∧
           (op = 1 → ty ≠ 12 → t.bytes x.addr z = if lower then x.data else s.bytes x.addr z) ∧
           (op = 2 → ty ≠ 12 → t.bytes x.addr z = if higher then x.data else s.bytes x.addr z) ∧
           (op = 0 → ty = 12 → t.bytes x.addr z = leBytes z (roundToFP32 (sumV 0 [fmtFP32.value m, fmtFP32.value b]).1 0).1) ∧
           (op = 1 → ty = 12 → t.bytes x.addr z = leBytes z (pickBits fmtFP32 false m b).1) ∧
           (op = 2 → ty = 12 → t.bytes x.addr z = leBytes z (pickBits fmtFP32 true m b).1) ∧
           (op = 3 → t.bytes x.addr z = leBytes z (m &&& b)) ∧
           (op = 4 → t.bytes x.addr z = leBytes z (m ||| b)) ∧
           (op = 5 → t.bytes x.addr z = leBytes z (m ^^^ b)) ∧
           (op = 6 → t.bytes x.addr z = x.data) ∧
           (op = 7 → t.bytes x.addr z = if m = b then leBytes z cmp.toNat else s.bytes x.addr z)) ∧
         (∀ max, o.kind = .row max → ∀ e, 2 * e + 1 < z → selects x (2 * e) → selects x (2 * e + 1) →
           let v := leNat (s.bytes (x.addr + 2 * e) 2)
           let w := leNat ((x.data.drop (2 * e)).take 2)
           t.bytes (x.addr + 2 * e) 2 = leBytes 2 (if max then (pickBits fmtBF16 true v w).1
             else (roundTo fmtBF16 (sumV 0 [fmtBF16.value v, fmtBF16.value w]).1 (.mode 0) false).1)) ∧
         (o.kind = .stc → o.spans = [x] → x.mask = [] → t.bytes x.addr z =
           if o.expect = some ((s.stamped x.addr z).map (·.2)) then x.data else s.bytes x.addr z))) ∧
  (∀ (s : State) (o : MemOp) (g : Gang), s.Inv → o.lost = false → s.siblings o = [o] →
     (∀ x ∈ o.spans, s.rangeOk x.addr x.data.length = true) → o.core < 160 → s.gang? o.core o.slot = some g →
     let t := s.applyOp o
     let cs := o.writes s
     let writer := fun (a : Nat) => match o.kind with
       | .row _ => (a - (o.spans.map (·.addr)).headD 0) / 16
       | _ => o.lane
     let mine := fun (l a stamp : Nat) => (∃ x ∈ cs, x.1 = a) ∧ writer a = l ∧ mget 0 s.stamps a = stamp
     (∀ x ∈ cs, mget 0 t.stamps x.1 = o.id) ∧
     (∀ a, (∀ x ∈ cs, x.1 ≠ a) → mget 0 t.stamps a = mget 0 s.stamps a) ∧
     (∃ h, t.gang? o.core o.slot = some h ∧
       (∀ l < 32, (g.lane l).resv = none → (h.lane l).resv = none) ∧
       (∀ l r, l < 32 → (g.lane l).resv = some r → ∃ st, (h.lane l).resv = some { r with stamps := st } ∧
         st.length = r.stamps.length ∧ ∀ i (n : Nat), r.stamps[i]? = some n →
           (mine l (r.pa + i) n → st[i]? = some o.id) ∧ (¬ mine l (r.pa + i) n → st[i]? = some n))) ∧
     (∀ p ∈ s.ops, p.kind = .stc → p.core = o.core → p.slot = o.slot → p.applied = false → p.id ≠ o.id →
       ∃ q ∈ t.ops, q.id = p.id ∧ q.kind = .stc ∧ q.expect.isSome = p.expect.isSome ∧
         ∀ st, p.expect = some st → ∃ u, q.expect = some u ∧ u.length = st.length ∧ ∀ i (n : Nat), st[i]? = some n →
           (mine p.lane ((p.spans.map (·.addr)).headD 0 + i) n → u[i]? = some o.id) ∧
           (¬ mine p.lane ((p.spans.map (·.addr)).headD 0 + i) n → u[i]? = some n)))

/-- R157, R161 and R390: no instruction of a crew slot writes a byte of memory as it issues, but for the event log, nor does
it change the gang of a privileged slot or what belongs to those slots. R157, R161, R276 and R287: the elements of a store
leave in increasing lane number, one operation each, and change no byte of memory as they leave; one to the Glasshouse takes
effect at its bank as it arrives there, as one step, with its core as it was. -/
def Obligations.CrewSlotsWriteNothingAtIssue : Prop :=
  (∀ (i : Instr) (s t : State), s.Inv → encode i ≠ [] → s.cur.slot ≠ privSlot → exec i s = .next t →
     (∀ a, a < 0x7FFFFC1000 ∨ 0x7FFFFC3000 ≤ a → t.byte a = s.byte a) ∧
     t.lodge.roots = s.lodge.roots ∧ t.lodge.parts = s.lodge.parts ∧ t.lodge.stage = s.lodge.stage ∧
     (∀ c, t.gang? c privSlot = s.gang? c privSlot ∧
       (t.core c).halted = (s.core c).halted ∧ (t.core c).handler = (s.core c).handler ∧
       (t.core c).trapVec = (s.core c).trapVec ∧ (t.core c).ringBase = (s.core c).ringBase ∧ (t.core c).sctl = (s.core c).sctl ∧
       (t.core c).privCode = (s.core c).privCode)) ∧
  ((∀ (s : State) (g : Gang) (data : Nat → List (BitVec 8)) (refs : List Ref),
     let t := s.storeAll g data refs
     ∃ os ms, t.ops = s.ops ++ os ∧ os.length = refs.length ∧ t.net = s.net ++ ms ∧ ms.length = refs.length ∧ t.mem = s.mem ∧
       t.dir = s.dir ∧
       ∀ i r, refs[i]? = some r → ∃ o m, os[i]? = some o ∧ o.id = s.nextId + i ∧ o.kind = .store ∧ o.core = s.cur.core ∧
         o.slot = s.cur.slot ∧ o.lane = r.lane ∧ o.slice = r.slice ∧ o.spans = [r.span (data r.lane)] ∧
         ms[i]? = some m ∧ m.kind = .store ∧ m.core = s.cur.core ∧ m.slice = r.slice ∧ m.op = s.nextId + i) ∧
   (∀ (s t : State) (m : Msg) (o : MemOp), s.deliver s.arg.a [.store] = some (m, t) →
     t.ops.find? (fun p => p.id = m.op) = some o → o.spans = [] ∨ (∀ x ∈ o.spans, targetOf x.addr = .glass) →
       exec .storeArrival s = .next (t.applyOp o)))

/-! ### Registers, traps, flow (R23, R84, R117, R118, R232 to R237) -/

/-- R84: an instruction that only gives registers results leaves memory, every other core, every other gang, MODE, the NSTAT
bits that it does not set, and every register alone that it does not give a result and that no earlier result is on its way
to. -/
def Obligations.RegisterInstructionFrame : Prop :=
  ∀ (s : State) (g : Gang) (sg : Sig) (ws : List (Loc × BitVec 128)) (fl : Flags), s.issuing = some g → g.Ordered →
    let c := s.cur.core
    let k := s.cur.slot
    let t := s.gives g sg ws fl
    let locs := g.pend.map (·.loc) ++ ws.map (·.1)
    SameOutside s t c ∧ (∃ m, t.core c = { s.core c with slots := m }) ∧ (∀ j, j ≠ k → t.gang? c j = s.gang? c j) ∧
    ∃ h, t.gang? c k = some h ∧ h.mode = g.mode ∧ h.nstat = g.nstat ||| fl ∧ h.cychi = g.cychi ∧ h.crew = g.crew ∧
      h.role = g.role ∧ h.stopped = g.stopped ∧ h.held = g.held ∧
      (∀ r l, (∀ x y, Loc.v x y ∈ locs → 32 * x + y ≠ 32 * r + l) → h.v r l = g.v r l) ∧
      (∀ r, Loc.g r ∉ locs → h.u r = g.u r) ∧
      (∀ p l, l < 32 → Loc.p p l ∉ locs → h.pred p l = g.pred p l) ∧
      (∀ r, Loc.t r ∉ locs → h.t r = g.t r)

/-- R84: a result lands when the coded clock reaches its landing point, over every result that lands no later, and is not seen
before. -/
def Obligations.ResultsLand : Prop :=
  ∀ (g : Gang) (lat : Nat) (before after : List (Loc × BitVec 128)) (x : Loc) (val : BitVec 128), g.Ordered →
    let h := g.schedule lat (before ++ (x, val) :: after)
    let now := h.land (g.coded + lat)
    (∀ n, n < g.coded + lat → h.land n = { g.land n with pend := (h.land n).pend }) ∧
    (∀ r, x = .g r → (∀ w ∈ after, w.1 ≠ x) → now.u r = val.setWidth 32) ∧
    (∀ r, x = .t r → (∀ w ∈ after, w.1 ≠ x) → now.t r = val) ∧
    (∀ r l, x = .v r l → (∀ w ∈ after, ∀ y z, w.1 = .v y z → 32 * y + z ≠ 32 * r + l) → now.v r l = val.setWidth 32) ∧
    (∀ p l, x = .p p l → p ≠ 0 → l < 32 → (∀ w ∈ after, w.1 ≠ x) → now.pred p l = val.getLsbD 0)

/-- R23: predicate p0 reads as true in every lane, and a write to p0 is discarded without trap. -/
def Obligations.PredicateZero : Prop :=
  ∀ (s : State) (g : Gang) (n l : Nat) (v : BitVec 128) (q : BitVec 8),
    g.pred 0 l = true ∧ (g.write n (.p 0 l, v)).preds = g.preds ∧
    (let sg : Sig := { ok := predOk 0#8 && predOk q && predOk q, reads := [predReg q, predReg q], writes := [predReg 0#8], lat := some 4 }
     (predOk q = true → sg.ok = true) ∧
     (s.canIssue g sg = true →
       exec (.pmov 0#8 q) s = .next (s.gives g sg (g.predResults 0#8 (fun l => g.pred q.toNat l)) 0#32)))

/-- R232 and R233: a trap of a crew gang stops it, a page fault the whole crew, with every register as it was; its record
joins those of the core that go to the ring; and nothing else of the machine shows it but the count of the issue. -/
def Obligations.TrapsOfCrewGangs : Prop :=
  ∀ (s : State) (g : Gang) (t : Trap),
    let c := s.cur.core
    let k := s.cur.slot
    let u := s.traps t
    k ≠ privSlot → s.gang? c k = some g →
    u.gang? c k = some { g with stopped := true, faultStop := decide (t.cause = 0x10) } ∧
    (∀ j h, j ≠ k → s.gang? c j = some h → ∃ h', u.gang? c j = some h' ∧
      h' = if t.cause = 0x10 ∧ j ≠ privSlot ∧ h.crew = g.crew ∧ h.stopped = false then { h with stopped := true, faultStop := true }
        else h) ∧
    (u.core c).trapQ = (s.core c).trapQ ++
      [{ cause := t.cause, lane := t.lane, addr := t.addr, info := t.info, async := false, priv := false, slotno := k
         block := g.block, slot := g.slot, word := s.cur.word, crew := (s.crew c g.crew).num, part := (s.crew c g.crew).part }] ∧
    (∃ m q, u.core c = { s.core c with slots := m, trapQ := q }) ∧ SameOutside s u c

/-- R232, R233, R237 and R392: a trap in the privileged slot files its record with PRIV, enters the handler state, and goes on
at the trap vector with MODE 0xC00 and EXM 1; in the handler state it stops the slot, is logged as core-fatal, and the core's
partitions enter containment; the entry stands in memory at once where its slice lets it, and is on its way there otherwise.
The partition 0xFF and the class 0 of that log entry are the model's choice (log 33). -/
def Obligations.TrapsOfThePrivilegedSlot : Prop :=
  ∀ (s : State) (g : Gang) (t : Trap),
    let c := s.cur.core
    let u := s.traps t
    let at_ := 0x7FFFFC1000 + 32 * (s.lodge.logSeq % 256)
    let entry := leBytes 8 (s.lodge.logSeq + 1) ++ [3#8, 0xFF#8, BitVec.ofNat 8 (dieOf c), 0#8] ++ leBytes 4 c
    let reach := s.access true { a := at_, n := 32 }
    s.cur.slot = privSlot → s.gang? c privSlot = some g → g.Ordered → s.Inv →
    (∃ r, (u.core c).trapQ = (s.core c).trapQ ++ [r] ∧ r.cause = t.cause ∧ r.lane = t.lane ∧ r.addr = t.addr ∧ r.info = t.info ∧
      r.async = false ∧ r.priv = true ∧ r.slotno = 64 ∧ r.block = g.block ∧ r.slot = g.slot ∧ r.word = s.cur.word) ∧
    ((s.core c).handler = false → (∃ m q, u.core c = { s.core c with slots := m, trapQ := q, handler := true }) ∧ SameOutside s u c ∧
      (∀ j, j ≠ privSlot → u.gang? c j = s.gang? c j) ∧
      ∃ h, u.gang? c privSlot = some h ∧ h.block = (s.core c).trapVec ∧ h.slot = 1 ∧ h.mode = 0x00000C00#32 ∧
        maskOf h.exm = 1#32 ∧ h.stopped = g.stopped ∧ h.held = none) ∧
    ((s.core c).handler = true →
      (s.lodge.hoip = false → (u.core c).fatal = true ∧ u.gang? c privSlot = some { g with stopped := true }) ∧
      (reach.2 = true → u.bytes at_ 16 = entry) ∧
      (reach.2 = false → ∃ o ∈ u.ops, o.core = lodgePort ∧ o.kind = .bytes ∧ o.applied = false ∧
        ∃ x ∈ o.spans, x.addr = at_ ∧ x.data.take 16 = entry) ∧
      (∀ e ∈ (s.core c).crews, e.1 ≠ 0 → e.2.part < 64 → e.2.part ∈ u.lodge.contain))

/-- R118: sequential flow into a block whose F bit is 1 sends every running lane there and runs a frontier step, and goes on
with the run where that selects the block; into a block whose F bit is 0 it changes no lane. A block that cannot be read
counts as one whose F bit is 0, to be found out at its first issue, and the last block is followed by an index that names no
block, which are the model's choice (log 85); that a fairness switch to block b + 1 goes on with the run is its reading of
R254 (log 86). -/
def Obligations.SequentialFlow : Prop :=
  ∀ (s : State) (c k len : Nat) (g : Gang),
    let b := g.block + 1
    let r := (g.park (fun _ => b)).frontier g.block g.exm (g.lanesIn .wait) false
    s.gang? c k = some g →
    (g.slot + len ≤ 15 → s.advance c k len = s.setGang c k { g with slot := g.slot + len }) ∧
    (15 < g.slot + len →
      (s.isFrontier c k b = false → s.advance c k len = s.setGang c k { g with block := b, slot := 1, fetchedAt := none }) ∧
      (∀ at_ sw, s.isFrontier c k b = true → r.2 = .to b at_ sw →
        s.advance c k len = s.setGang c k { r.1 with block := b, slot := at_, fetchedAt := none }) ∧
      (∀ sel at_ sw, s.isFrontier c k b = true → r.2 = .to sel at_ sw → sel ≠ b →
        s.advance c k len = s.setGang c k (r.1.jump sel at_)))

/-- R117, R253 and R255: a frontier step that no fairness concerns lets the lanes of the smallest waiting block run, and no
other lane changes; it is a switch when a lane that ran is left waiting, and then every reservation of the gang is lost. -/
def Obligations.FrontierStepPicksTheLowestBlock : Prop :=
  ∀ (g : Gang) (src : Nat) (ran waited : List Nat), g.Ordered → g.resume = none → g.fc < 4096 → g.lanesIn .wait ≠ [] →
    ∃ h b, g.frontier src ran waited false = (h, .to b 1 (decide (∃ l ∈ ran, l < 32 ∧ (h.lane l).st = .wait))) ∧
      (∃ l, l < 32 ∧ (g.lane l).st = .wait ∧ (g.lane l).fblock = b) ∧
      (∀ l, l < 32 → (g.lane l).st = .wait → b ≤ (g.lane l).fblock) ∧
      (∀ l, l < 32 → h.lane l = { g.lane l with
        st := if (g.lane l).st = .wait ∧ (g.lane l).fblock = b then .run else (g.lane l).st
        resv := if ∃ j ∈ ran, j < 32 ∧ (h.lane j).st = .wait then none else (g.lane l).resv })

/-! ### Register instructions (R99 to R154): each gives its lanes the values that its rule names -/

/-- R104: the exact integer rows, wrapped or saturated to the width of ETYPE. R105: the carry comes from p95 and goes there;
on the uniform path it is that of the lowest active lane. -/
def Obligations.IntegerResults : Prop :=
  (∀ (s : State) (g : Gang) (d : Dst) (a b : Src),
     (let sg := regSig g d g.wide [(a, g.wide), (b, g.wide)] [] 4
      s.canIssue g sg = true →
       exec (.iadd d a b) s = .next (s.givesLanes g sg d (fun l => g.intWords g.sat (g.int a l + g.int b l))) ∧
       exec (.isub d a b) s = .next (s.givesLanes g sg d (fun l => g.intWords g.sat (g.int a l - g.int b l))) ∧
       exec (.imul d a b) s = .next (s.givesLanes g sg d (fun l => g.intWords g.sat (g.int a l * g.int b l))) ∧
       exec (.imulh d a b) s =
         .next (s.givesLanes g sg d (fun l => g.intWords false (g.int a l * g.int b l / ((2 ^ g.iw : Nat) : Int)))) ∧
       exec (.imin d a b) s = .next (s.givesLanes g sg d (fun l => g.intWords false (min (g.int a l) (g.int b l)))) ∧
       exec (.imax d a b) s = .next (s.givesLanes g sg d (fun l => g.intWords false (max (g.int a l) (g.int b l))))) ∧
     (let sg := regSig g d g.wide [(a, g.wide), (b, g.wide)] (dstRegs g.wide d) 4
      s.canIssue g sg = true →
       exec (.imad d a b) s =
         .next (s.givesLanes g sg d (fun l => g.intWords g.sat (g.int (dstSrc d) l + g.int a l * g.int b l)))) ∧
     (let sg := regSig g d g.wide [(a, g.wide), (.zero, g.wide)] [] 4
      s.canIssue g sg = true →
       exec (.iabs d a) s = .next (s.givesLanes g sg d (fun l => g.intWords g.sat ((g.int a l).natAbs : Int))) ∧
       exec (.ineg d a) s = .next (s.givesLanes g sg d (fun l => g.intWords g.sat (-g.int a l))))) ∧
  (∀ (s : State) (g : Gang) (d : Dst) (a b : Src),
     let sg : Sig := { regSig g d g.wide [(a, g.wide), (b, g.wide)] [512 + 95] 4 with writes := (512 + 95) :: dstRegs g.wide d }
     let cin := fun l => if g.pred 95 l then 1 else 0
     let at_ := fun l => if dstIsUni d then g.active.headD 0 else l
     s.canIssue g sg = true →
       exec (.iaddc d a b) s = .next (s.gives g sg
         (g.laneWrites d (fun l => (wordsOf g.wide (fillBits g.iw g.isg ((g.bitsOf a l + g.bitsOf b l + cin l) % 2 ^ g.iw)), 0#32)) ++
           g.active.map (fun l => (.p 95 l,
             if 2 ^ g.iw ≤ g.bitsOf a (at_ l) + g.bitsOf b (at_ l) + cin (at_ l) then 1#128 else 0#128))) 0#32) ∧
       exec (.isubb d a b) s = .next (s.gives g sg
         (g.laneWrites d (fun l =>
             (wordsOf g.wide (fillBits g.iw g.isg ((g.bitsOf a l + 2 ^ (g.iw + 1) - g.bitsOf b l - cin l) % 2 ^ g.iw)), 0#32)) ++
           g.active.map (fun l => (.p 95 l,
             if g.bitsOf a (at_ l) < g.bitsOf b (at_ l) + cin (at_ l) then 1#128 else 0#128))) 0#32))

/-- R104 and R106: the logic rows and bit counts, each a pattern of the width of ETYPE. R106: the shifts take a count of 32
bits; a count of the width or more leaves no bit of the operand, or copies of its sign. That BFI, where it inserts nothing,
fills the register above an 8- or 16-bit element as every write does, is the model's reading (log 89). -/
def Obligations.LogicAndShiftResults : Prop :=
  (∀ (s : State) (g : Gang) (d : Dst) (a b : Src),
     (let sg := regSig g d g.wide [(a, g.wide), (b, g.wide)] [] 4
      s.canIssue g sg = true →
       exec (.and d a b) s = .next (s.givesLanes g sg d (fun l => g.bitWords (g.bitsOf a l &&& g.bitsOf b l))) ∧
       exec (.or d a b) s = .next (s.givesLanes g sg d (fun l => g.bitWords (g.bitsOf a l ||| g.bitsOf b l))) ∧
       exec (.xor d a b) s = .next (s.givesLanes g sg d (fun l => g.bitWords (g.bitsOf a l ^^^ g.bitsOf b l))) ∧
       exec (.andn d a b) s =
         .next (s.givesLanes g sg d (fun l => g.bitWords (g.bitsOf a l &&& (2 ^ g.iw - 1 - g.bitsOf b l))))) ∧
     (let sg := regSig g d g.wide [(a, g.wide), (.zero, g.wide)] [] 4
      s.canIssue g sg = true →
       exec (.not d a) s = .next (s.givesLanes g sg d (fun l => g.bitWords (2 ^ g.iw - 1 - g.bitsOf a l)))) ∧
     (let sg := regSig g d g.wide [(a, g.wide), (.zero, false)] [] 4
      s.canIssue g sg = true →
       exec (.popc d a) s = .next (s.givesLanes g sg d (fun l => g.bitWords (popCount g.iw (g.bitsOf a l)))) ∧
       exec (.clz d a) s = .next (s.givesLanes g sg d (fun l =>
         g.bitWords (if g.bitsOf a l = 0 then g.iw else g.iw - 1 - Nat.log2 (g.bitsOf a l)))) ∧
       exec (.brev d a) s = .next (s.givesLanes g sg d (fun l => g.bitWords (reverseBits g.iw (g.bitsOf a l)))))) ∧
  (∀ (s : State) (g : Gang) (d : Dst) (a b : Src),
     (let sg := regSig g d g.wide [(a, g.wide), (b, false)] [] 4
      let n := fun l => (g.rd b l).toNat
      s.canIssue g sg = true →
       exec (.shl d a b) s =
         .next (s.givesLanes g sg d (fun l => g.bitWords (if g.iw ≤ n l then 0 else g.bitsOf a l * 2 ^ n l))) ∧
       exec (.shr d a b) s =
         .next (s.givesLanes g sg d (fun l => g.bitWords (if g.iw ≤ n l then 0 else g.bitsOf a l / 2 ^ n l))) ∧
       exec (.sar d a b) s = .next (s.givesLanes g sg d (fun l =>
         g.bitWords (wrapBits g.iw (readInt g.iw true (g.bitsOf a l) / ((2 ^ min (n l) g.iw : Nat) : Int))))) ∧
       exec (.rotl d a b) s = .next (s.givesLanes g sg d (fun l =>
         g.bitWords (g.bitsOf a l * 2 ^ (n l % g.iw) + g.bitsOf a l / 2 ^ (g.iw - n l % g.iw)))) ∧
       exec (.bfx d a b) s = .next (s.givesLanes g sg d (fun l =>
         let pos := n l % 256
         let len := n l / 256 % 256
         let bits := if len = 0 ∨ g.iw ≤ pos then 0
           else wrapBits g.iw (readInt (min len (g.iw - pos)) g.isg (g.bitsOf a l / 2 ^ pos))
         (wordsOf g.wide (fillBits g.iw g.isg bits), 0#32)))) ∧
     (let sg := regSig g d g.wide [(a, g.wide), (b, false)] (dstRegs g.wide d) 4
      s.canIssue g sg = true →
       exec (.bfi d a b) s = .next (s.givesLanes g sg d (fun l =>
         let pos := (g.rd b l).toNat % 256
         let len := (g.rd b l).toNat / 256 % 256
         let old := g.bitsOf (dstSrc d) l
         let n := min len (g.iw - pos)
         g.bitWords (if len = 0 ∨ g.iw ≤ pos then old
           else old % 2 ^ pos + g.bitsOf a l % 2 ^ n * 2 ^ pos + old / 2 ^ (pos + n) * 2 ^ (pos + n))))))

/-- R107, R108 and R109: addresses, moves, the select on p94, and integer conversion. R129 and R130: a lane reads another
lane's source, and zero from a lane that is out of range or empty. -/
def Obligations.MoveResults : Prop :=
  (∀ (s : State) (g : Gang) (d : Dst) (a b : Src) (n : BitVec 8),
     (let sg := regSig g d false [(a, false), (b, false)] [] 4
      s.canIssue g sg = true → exec (.lea d a b) s =
        .next (s.givesLanes g sg d (fun l => ([g.rd a l + g.rd b l * BitVec.ofNat 32 (elemSize g.etype)], 0#32)))) ∧
     (let sg := regSig g d true [(a, true), (b, false)] [] 4
      s.canIssue g sg = true → exec (.lea64 d a b) s = .next (s.givesLanes g sg d (fun l =>
        (wordsOf true (g.rd64 a l + (g.rd b l).signExtend 64 * BitVec.ofNat 64 (elemSize g.etype)).toNat, 0#32)))) ∧
     (let sg := regSig g d false [(a, false)] [] 4
      s.canIssue g sg = true → exec (.mov d a) s = .next (s.givesLanes g sg d (fun l => ([g.rd a l], 0#32)))) ∧
     (let sg := regSig g d true [(a, true)] [] 4
      s.canIssue g sg = true →
        exec (.movl d a) s = .next (s.givesLanes g sg d (fun l => (wordsOf true (g.rd64 a l).toNat, 0#32)))) ∧
     (let sg := regSig g d false [(a, false), (b, false)] [512 + 94] 4
      s.canIssue g sg = true → exec (.sel d a b) s =
        .next (s.givesLanes g sg d (fun l => ([if g.pred 94 l then g.rd a l else g.rd b l], 0#32)))) ∧
     (let sr := regSig g d (g.etype = 6) [(a, n.toNat = 6)] [] 6
      let sg : Sig := { sr with ok := sr.ok && n.toNat ≤ 6 && g.etype ≤ 6 }
      s.canIssue g sg = true → exec (.cvti d a n) s = .next (s.givesLanes g sg d (fun l =>
        let v := intView n.toNat
        let r := intResult (readInt v.1 v.2 (g.el v.1 a l)) g.iw g.isg g.sat
        (wordsOf (g.etype = 6) r.1, r.2))))) ∧
  (∀ (s : State) (g : Gang) (d : Dst) (a b : Src),
     let n := fun l => (g.rd b l).toNat
     (let sr := regSig g d false [(a, false), (b, false)] [] 6
      let sg : Sig := { sr with ok := sr.ok && dstVec d }
      s.canIssue g sg = true →
       exec (.shfl d a b) s = .next (s.givesLanes g sg d (fun l => ([g.cross a (n l : Int)], 0#32))) ∧
       exec (.shflup d a b) s = .next (s.givesLanes g sg d (fun l => ([g.cross a ((l : Int) - n l)], 0#32))) ∧
       exec (.shfldn d a b) s = .next (s.givesLanes g sg d (fun l => ([g.cross a ((l : Int) + n l)], 0#32))) ∧
       exec (.shflx d a b) s = .next (s.givesLanes g sg d (fun l => ([g.cross a ((l ^^^ n l : Nat) : Int)], 0#32)))) ∧
     (let sr := regSig g d false [(a, false), (b, false)] [] 6
      let sg : Sig := { sr with ok := sr.ok && dstVec d && uniOnly b }
      s.canIssue g sg = true →
       exec (.bcast d a b) s = .next (s.givesLanes g sg d (fun l => ([g.cross a (n l : Int)], 0#32)))) ∧
     (let sg : Sig := { ok := g.dstOk d && dstUni d && g.srcOk a && g.srcOk b && uniOnly b
                        reads := srcRegs false a ++ srcRegs false b, writes := dstRegs false d, lat := some 6 }
      s.canIssue g sg = true →
       exec (.movvg d a b) s = .next (s.givesLanes g sg d (fun _ => ([g.cross a (n 0 : Int)], 0#32)))) ∧
     (let sr := regSig g d false [(a, false), (b, false)] [] 6
      let sg : Sig := { sr with ok := sr.ok && dstVec d && uniOnly a && uniOnly b }
      s.canIssue g sg = true →
       exec (.movgv d a b) s =
         .next (s.gives g sg (if n 0 ∈ g.active then dstWords d (n 0) [g.rd a 0] else []) 0#32)))

/-- R110 and R111: the compares write a predicate in each active lane; NV tells a signalling NaN. R112 and R128: predicate
logic, moves between predicates and registers, and votes over the active lanes. -/
def Obligations.CompareAndPredicateResults : Prop :=
  (∀ (s : State) (g : Gang) (p : BitVec 8) (a b : Src),
     (let sg := predSig g p [(a, g.wide), (b, g.wide)] 4
      let x := g.bitsOf a
      let y := g.bitsOf b
      let i := fun l => readInt g.iw true (x l)
      let j := fun l => readInt g.iw true (y l)
      s.canIssue g sg = true →
       exec (.icmpeq p a b) s = .next (s.gives g sg (g.predResults p (fun l => x l = y l)) 0#32) ∧
       exec (.icmpne p a b) s = .next (s.gives g sg (g.predResults p (fun l => x l ≠ y l)) 0#32) ∧
       exec (.icmplt p a b) s = .next (s.gives g sg (g.predResults p (fun l => i l < j l)) 0#32) ∧
       exec (.icmple p a b) s = .next (s.gives g sg (g.predResults p (fun l => i l ≤ j l)) 0#32) ∧
       exec (.icmpltn p a b) s = .next (s.gives g sg (g.predResults p (fun l => x l < y l)) 0#32) ∧
       exec (.icmplen p a b) s = .next (s.gives g sg (g.predResults p (fun l => x l ≤ y l)) 0#32)) ∧
     (let sr := predSig g p [(a, false), (b, false)] 4
      let sg : Sig := { sr with ok := sr.ok && fcmpType g.etype }
      let x := g.fv a
      let y := g.fv b
      let un := fun l => (x l).isNan || (y l).isNan
      let fl := if g.active.any (fun l => (x l).isSig || (y l).isSig) then flagNV else 0#32
      s.canIssue g sg = true →
       exec (.fcmpeq p a b) s = .next (s.gives g sg (g.predResults p (fun l => ! un l && (x l).cmp (y l) = .eq)) fl) ∧
       exec (.fcmpne p a b) s = .next (s.gives g sg (g.predResults p (fun l => un l || (x l).cmp (y l) ≠ .eq)) fl) ∧
       exec (.fcmplt p a b) s = .next (s.gives g sg (g.predResults p (fun l => ! un l && (x l).cmp (y l) = .lt)) fl) ∧
       exec (.fcmple p a b) s = .next (s.gives g sg (g.predResults p (fun l => ! un l && (x l).cmp (y l) ≠ .gt)) fl) ∧
       exec (.fcmpun p a b) s = .next (s.gives g sg (g.predResults p un) fl) ∧
       exec (.fcmpord p a b) s = .next (s.gives g sg (g.predResults p (fun l => ! un l)) fl))) ∧
  (∀ (s : State) (g : Gang) (p q r : BitVec 8) (d : Dst) (a : Src),
     let x := g.pred q.toNat
     let y := g.pred r.toNat
     (let sg : Sig := { ok := predOk p && predOk q && predOk r, reads := [predReg q, predReg r], writes := [predReg p], lat := some 4 }
      s.canIssue g sg = true →
       exec (.pand p q r) s = .next (s.gives g sg (g.predResults p (fun l => x l && y l)) 0#32) ∧
       exec (.por p q r) s = .next (s.gives g sg (g.predResults p (fun l => x l || y l)) 0#32) ∧
       exec (.pxor p q r) s = .next (s.gives g sg (g.predResults p (fun l => x l != y l)) 0#32)) ∧
     (let sg : Sig := { ok := predOk p && predOk q && predOk q, reads := [predReg q, predReg q], writes := [predReg p], lat := some 4 }
      s.canIssue g sg = true →
       exec (.pnot p q) s = .next (s.gives g sg (g.predResults p (fun l => ! x l)) 0#32) ∧
       exec (.pmov p q) s = .next (s.gives g sg (g.predResults p x) 0#32)) ∧
     (let sg : Sig := { ok := g.dstOk d && dstVec d && predOk q, reads := [predReg q], writes := dstRegs false d, lat := some 4 }
      s.canIssue g sg = true →
       exec (.ptov d q) s = .next (s.givesLanes g sg d (fun l => ([if x l then 1#32 else 0#32], 0#32)))) ∧
     (let sg := predSig g p [(a, false)] 4
      s.canIssue g sg = true →
       exec (.vtop p a) s = .next (s.gives g sg (g.predResults p (fun l => g.rd a l ≠ 0#32)) 0#32)) ∧
     (let sg : Sig := { ok := predOk p && predOk q, reads := [predReg q], writes := [predReg p], lat := some 6 }
      s.canIssue g sg = true →
       exec (.voteall p q) s = .next (s.gives g sg (g.predResults p (fun _ => g.active.all x)) 0#32) ∧
       exec (.voteany p q) s = .next (s.gives g sg (g.predResults p (fun _ => g.active.any x)) 0#32)) ∧
     (let sg : Sig := { ok := g.dstOk d && predOk q, reads := [predReg q], writes := dstRegs false d, lat := some 6 }
      s.canIssue g sg = true →
       exec (.votebal d q) s = .next (s.givesLanes g sg d (fun _ => ([maskOf (g.active.filter x)], 0#32)))))

/-- R137 to R142: floating-point arithmetic: the exact value, rounded once. R143 and R144: the functions give their value
rounded once, FSQRT after 18 clocks and the others after 14; the value that is rounded is the model's own approximation to 640
bits (log 17). R148 and R149: packed pairs, each element rounded by itself, and dot products, rounded once. -/
def Obligations.FloatResults : Prop :=
  (∀ (s : State) (g : Gang) (d : Dst) (a b : Src),
     let sg := fun (as : List Src) (more : List Nat) =>
       ({ regSig g d false (as.map (fun x => (x, false))) more 4 with
           ok := (regSig g d false (as.map (fun x => (x, false))) more 4).ok && floatType g.etype } : Sig)
     let x := g.fv a
     let y := g.fv b
     let z := g.fv (dstSrc d)
     let xy := fun l => (x l).mul (y l)
     let flagged := fun (r : Nat × Flags) (bad : Bool) => oneWord (r.1, r.2 ||| nvIf bad)
     (s.canIssue g (sg [a, b] []) = true →
       exec (.fadd d a b) s = .next (s.givesLanes g (sg [a, b] []) d (fun l => oneWord (g.floatSum [x l, y l] false))) ∧
       exec (.fsub d a b) s = .next (s.givesLanes g (sg [a, b] []) d (fun l => oneWord (g.floatSum [x l, (y l).neg] false))) ∧
       exec (.fmul d a b) s =
         .next (s.givesLanes g (sg [a, b] []) d (fun l => flagged (g.floatResult (xy l).1) (xy l).2)) ∧
       exec (.fmin d a b) s = .next (s.givesLanes g (sg [a, b] []) d (fun l =>
         oneWord (pickBits g.fmt false (g.el g.fmt.width a l) (g.el g.fmt.width b l)))) ∧
       exec (.fmax d a b) s = .next (s.givesLanes g (sg [a, b] []) d (fun l =>
         oneWord (pickBits g.fmt true (g.el g.fmt.width a l) (g.el g.fmt.width b l)))) ∧
       exec (.fscale d a b) s = .next (s.givesLanes g (sg [a, b] []) d (fun l =>
         oneWord (g.floatResult ((x l).shift (g.rd b l).toInt))))) ∧
     (s.canIssue g (sg [a, b] (dstRegs false d)) = true →
       exec (.ffma d a b) s = .next (s.givesLanes g (sg [a, b] (dstRegs false d)) d (fun l =>
         oneWord (g.floatSum [(xy l).1, z l] (xy l).2))) ∧
       exec (.ffms d a b) s = .next (s.givesLanes g (sg [a, b] (dstRegs false d)) d (fun l =>
         oneWord (g.floatSum [(xy l).1, (z l).neg] (xy l).2)))) ∧
     (s.canIssue g (sg [a] []) = true →
       exec (.ffloor d a) s = .next (s.givesLanes g (sg [a] []) d (fun l => oneWord (g.floatResult ((x l).integral 3)))) ∧
       exec (.fround d a) s = .next (s.givesLanes g (sg [a] []) d (fun l =>
         oneWord (g.floatResult ((x l).integral (if g.rnd = 5 then 0 else g.rnd))))) ∧
       exec (.ffract d a) s = .next (s.givesLanes g (sg [a] []) d (fun l => oneWord (match x l with
         | .inf _ => ((g.floatResult (.nan false)).1, flagNV)
         | .fin neg m e _ =>
           let frac := if 0 ≤ e then 0 else m % pow2 (-e)
           g.floatResult (if frac = 0 then .zero neg else .fin neg frac e false)
         | v => g.floatResult v))))) ∧
  (∀ (s : State) (g : Gang) (d : Dst) (a : Src),
     let sg := fun (lat : Nat) =>
       ({ regSig g d false [(a, false)] [] lat with ok := (regSig g d false [(a, false)] [] lat).ok && floatType g.etype } : Sig)
     let row := fun (y : FVal → FVal × Flags) l =>
       oneWord ((g.floatResult (y (g.fv a l)).1).1, (g.floatResult (y (g.fv a l)).1).2 ||| (y (g.fv a l)).2)
     (s.canIssue g (sg 14) = true →
       exec (.frcp d a) s = .next (s.givesLanes g (sg 14) d (row frcpV)) ∧
       exec (.frsq d a) s = .next (s.givesLanes g (sg 14) d (row frsqV)) ∧
       exec (.fexp2 d a) s = .next (s.givesLanes g (sg 14) d (row fexp2V)) ∧
       exec (.flog2 d a) s = .next (s.givesLanes g (sg 14) d (row flog2V)) ∧
       exec (.fsin d a) s = .next (s.givesLanes g (sg 14) d (row fsinV)) ∧
       exec (.fcos d a) s = .next (s.givesLanes g (sg 14) d (row fcosV)) ∧
       exec (.ftanh d a) s = .next (s.givesLanes g (sg 14) d (row ftanhV))) ∧
     (s.canIssue g (sg 18) = true → exec (.fsqrt d a) s = .next (s.givesLanes g (sg 18) d (row fsqrtV)))) ∧
  (∀ (s : State) (g : Gang) (d : Dst) (a b : Src),
     let two : Bool := g.etype = 10 || g.etype = 11
     let sg := fun (more : List Nat) (lat : Nat) (ok : Bool) =>
       ({ regSig g d false [(a, false), (b, false)] more lat with
           ok := (regSig g d false [(a, false), (b, false)] more lat).ok && ok } : Sig)
     let el := fun (x : Src) l k => g.fmt.value (elemOf 16 k (g.rd x l))
     let pair := fun (r : Nat → Nat × Flags) => ([BitVec.ofNat 32 ((r 0).1 + 65536 * (r 1).1)], (r 0).2 ||| (r 1).2)
     (s.canIssue g (sg [] 4 two) = true →
       exec (.hadd2 d a b) s =
         .next (s.givesLanes g (sg [] 4 two) d (fun l => pair (fun k => g.floatSum [el a l k, el b l k] false))) ∧
       exec (.hmul2 d a b) s = .next (s.givesLanes g (sg [] 4 two) d (fun l => pair (fun k =>
         let p := (el a l k).mul (el b l k)
         ((g.floatResult p.1).1, (g.floatResult p.1).2 ||| nvIf p.2))))) ∧
     (s.canIssue g (sg (dstRegs false d) 4 two) = true →
       exec (.hfma2 d a b) s = .next (s.givesLanes g (sg (dstRegs false d) 4 two) d (fun l => pair (fun k =>
         g.floatSum [((el a l k).mul (el b l k)).1, el (dstSrc d) l k] ((el a l k).mul (el b l k)).2))) ∧
       exec (.fdot2 d a b) s = .next (s.givesLanes g (sg (dstRegs false d) 4 two) d (fun l =>
         oneWord (g.dotFloat 2 16 (g.rd a l) (g.rd b l) (g.rd (dstSrc d) l))))) ∧
     (let ok : Bool := g.etype ≤ 1 || g.etype = 7 || g.etype = 8 || g.etype = 9
      s.canIssue g (sg (dstRegs false d) 6 ok) = true →
       exec (.fdot4 d a b) s = .next (s.givesLanes g (sg (dstRegs false d) 6 ok) d (fun l =>
         let x := g.rd a l
         let y := g.rd b l
         let z := g.rd (dstSrc d) l
         if g.etype ≤ 1 then
           oneWord (intResult ((List.range 4).foldl (fun (t : Int) k =>
             t + readInt 8 g.isg (elemOf 8 k x) * readInt 8 g.isg (elemOf 8 k y)) z.toInt) 32 true g.sat)
         else oneWord (g.dotFloat 4 8 x y z)))))

/-- R139 and R140: the sign rows write the operand with its sign bit cleared or inverted, and a NaN as the canonical one;
FCLASS writes one bit. -/
def Obligations.FloatSignResults : Prop :=
  ∀ (s : State) (g : Gang) (d : Dst) (a : Src),
    let bits := g.el g.fmt.width a
    let sign := fun l => decide (2 ^ (g.fmt.eb + g.fmt.fb) ≤ bits l)
    let row := fun (x : Bool → Bool) l => oneWord
      (if (g.fmt.value (bits l)).isNan then (g.fmt.nanBits, nvIf (g.fmt.value (bits l)).isSig)
        else (g.fmt.signed (x (sign l)) (bits l % 2 ^ (g.fmt.eb + g.fmt.fb)), 0#32))
    (let sr := regSig g d false [(a, false)] [] 4
     let sg : Sig := { sr with ok := sr.ok && floatType g.etype }
     s.canIssue g sg = true →
      exec (.fabs d a) s = .next (s.givesLanes g sg d (row (fun _ => false))) ∧
      exec (.fneg d a) s = .next (s.givesLanes g sg d (row (fun n => ! n)))) ∧
    (let sr := regSig g d false [(a, false)] [] 4
     let sg : Sig := { sr with ok := sr.ok && fcmpType g.etype }
     s.canIssue g sg = true →
      exec (.fclass d a) s = .next (s.givesLanes g sg d (fun l =>
        ([BitVec.ofNat 32 (2 ^ classBit g.etype (g.el (elemBits g.etype) a l))], 0#32))))

/-- R55 and R145 to R147: conversions, PACK and UNPACK; under stochastic rounding every active lane draws once and its
generator counter moves on. -/
def Obligations.ConversionResults : Prop :=
  ∀ (s : State) (g : Gang) (d : Dst) (a b : Src) (n : BitVec 8),
    let draw := g.draw (s.key g)
    let then_ := fun (sg : Sig) (f : Nat → List (BitVec 32) × Flags) =>
      (s.ends sg (s.put (((if g.rnd = 5 then g.drawn else g).schedule 6 (g.laneWrites d f)).setFlags (g.laneFlags d f))) : State)
    let word := fun l => if n.toNat = 6 then (g.rd64 a l).toNat else (g.rd a l).toNat
    let row := fun l =>
      let r := convertElem n.toNat g.etype (word l) (g.rounding 32 0 (draw l)) g.sat
      (wordsOf (g.etype = 6) r.1, r.2)
    let sg := fun (lo hi dlo dhi : Nat) =>
      ({ regSig g d (g.etype = 6) [(a, n.toNat = 6)] [] 6 with
          ok := (regSig g d (g.etype = 6) [(a, n.toNat = 6)] [] 6).ok && lo ≤ n.toNat && n.toNat ≤ hi && dlo ≤ g.etype &&
            g.etype ≤ dhi } : Sig)
    (s.canIssue g (sg 7 13 7 13) = true → exec (.cvtf d a n) s = .next (then_ (sg 7 13 7 13) row)) ∧
    (s.canIssue g (sg 7 12 0 6) = true → exec (.cvtfi d a n) s = .next (then_ (sg 7 12 0 6) row)) ∧
    (s.canIssue g (sg 0 6 7 12) = true → exec (.cvtif d a n) s = .next (then_ (sg 0 6 7 12) row)) ∧
    (let e := eightBit g.etype
     let sp : Sig := { regSig g d false [(a, e), (b, e)] [] 6 with
       ok := (regSig g d false [(a, e), (b, e)] [] 6).ok &&
         (if e then g.packPair a && g.packPair b else g.etype = 10 || g.etype = 11) }
     let conv := fun (v : BitVec 32) w k l => convertElem 12 g.etype v.toNat (g.rounding w k (draw l)) g.sat
     s.canIssue g sp = true → exec (.pack d a b) s = .next (then_ sp (fun l =>
       if e then
         let x := fun (k : Nat) => conv (((if k < 2 then g.rd64 a l else g.rd64 b l) >>> (32 * (k % 2))).setWidth 32) 16 (16 * k) l
         ([BitVec.ofNat 32 ((x 0).1 + 2 ^ 8 * (x 1).1 + 2 ^ 16 * (x 2).1 + 2 ^ 24 * (x 3).1)],
           (x 0).2 ||| (x 1).2 ||| (x 2).2 ||| (x 3).2)
       else
         let x := conv (g.rd a l) 32 0 l
         let y := conv (g.rd b l) 32 32 l
         ([BitVec.ofNat 32 (x.1 + 65536 * y.1)], x.2 ||| y.2)))) ∧
    (let su : Sig := { regSig g d false [(a, false)] [] 6 with
       ok := (regSig g d false [(a, false)] [] 6).ok &&
         (if eightBit g.etype then n.toNat ≤ 3 else (g.etype = 10 || g.etype = 11) && n.toNat ≤ 1) }
     s.canIssue g su = true → exec (.unpack d a n) s = .next (s.givesLanes g su d (fun l => oneWord (roundTo fmtFP32
       (elementValue g.etype (elemOf (elemBits g.etype) n.toNat (g.rd a l))) (.mode 0) false))))

/-- R131 and R132: group reductions combine the active lanes, integers exactly and floats in the fixed pairwise tree; every
active lane receives the result, and the scan gives each lane the sum up to it. R150 to R154: the sampling instructions and
the generator, whose counter moves on by one in every active lane. -/
def Obligations.ReductionAndSamplingResults : Prop :=
  (∀ (s : State) (g : Gang) (d : Dst) (a : Src) (n : BitVec 8),
     g.active ≠ [] →
     let wide : Bool := g.etype = 6
     let sr := regSig g d wide [(a, wide)] [] 10
     let sg : Sig := { sr with ok := (if wide then g.dst64Ok d else g.dstOk d) && (if wide then g.src64Ok a else g.srcOk a) &&
       (g.etype ≤ 6 || floatType g.etype) }
     let xs := g.active.map (g.int a)
     let bits := g.el g.fmt.width a
     let sig := g.active.any (fun l => (g.fmt.value (bits l)).isSig)
     let same := fun (ws : List (BitVec 32)) (fl : Flags) => s.gives g sg (g.laneWrites d (fun _ => (ws, 0#32))) fl
     let ints := fun (x : Int) (sat : Bool) => same (g.intWords sat x).1 (g.intWords sat x).2
     let canon := fun (v : Nat) => if (g.fmt.value v).isNan then g.fmt.nanBits else v
     let floats := fun (f : Nat → Nat → Nat × Flags) =>
       let r := reduceTree f (treeNodes g.active bits)
       same [BitVec.ofNat 32 (canon (r.1.getD 0))] (r.2 ||| nvIf sig)
     s.canIssue g sg = true →
       exec (.gredadd d a) s = .next (if g.etype ≤ 6 then ints (xs.foldl (· + ·) 0) g.sat else floats g.addBits) ∧
       exec (.gredmin d a) s = .next (if g.etype ≤ 6 then ints (xs.foldl min (xs.headD 0)) false else floats (g.pick false)) ∧
       exec (.gredmax d a) s = .next (if g.etype ≤ 6 then ints (xs.foldl max (xs.headD 0)) false else floats (g.pick true)) ∧
       (dstVec d = true → n.toNat ≤ 1 → exec (.gscanadd d a n) s =
         let incl : List (Nat × Flags) :=
           if g.etype ≤ 6 then scanFrom (fun (t : Int) x => t + x) (fun t => intResult t g.iw g.isg g.sat) 0 xs
           else match g.active.map bits with
             | [] => []
             | x :: rest => (x, 0#32) :: scanFrom (fun (t : Nat × Flags) y => g.addBits t.1 y) (fun t => t) (x, 0#32) rest
         let sums := incl.map (fun x => if 7 ≤ g.etype then canon x.1 else x.1)
         .next (s.gives g { sg with ok := sg.ok && dstVec d && n.toNat ≤ 1 && (g.etype ≤ 6 || floatType g.etype) }
           ((g.active.zip (if n.toNat = 0 then sums else 0 :: sums)).flatMap (fun p => dstWords d p.1 (wordsOf g.wide p.2)))
           (incl.foldl (fun f x => f ||| x.2) (nvIf (7 ≤ g.etype && sig)))))) ∧
  (∀ (s : State) (g : Gang) (d : Dst) (a b : Src) (p : BitVec 8),
     let bits := g.el g.fmt.width a
     let nums := g.active.filter (fun l => ! (g.fmt.value (bits l)).isNan)
     let pass := g.passing a b
     let same := fun (sg : Sig) (ws : List (BitVec 32)) (fl : Flags) => s.gives g sg (g.laneWrites d (fun _ => (ws, 0#32))) fl
     let drawn := fun (sg : Sig) (f : Nat → BitVec 32) =>
       (s.ends sg (s.put (g.drawn.schedule 6 (g.laneWrites d (fun l => ([f l], 0#32))))) : State)
     (s.canIssue g (pivotSig g d a b) = true →
       exec (.gcntgt d a b) s = .next (same (pivotSig g d a b) [BitVec.ofNat 32 pass.1.length] pass.2) ∧
       exec (.gsumgt d a b) s =
         let t := reduceTree g.addBits (treeNodes pass.1 bits)
         .next (same (pivotSig g d a b) [BitVec.ofNat 32 (t.1.getD 0)] (pass.2 ||| t.2))) ∧
     (let sg : Sig := { ok := g.dst64Ok d && d ≠ .none && g.srcOk a && floatType g.etype
                        reads := srcRegs false a, writes := dstRegs true d, lat := some 10 }
      let fl := nvIf (g.active.any (fun l => (g.fmt.value (bits l)).isSig))
      s.canIssue g sg = true →
       exec (.gmaxred d a) s =
         let best := nums.foldl (fun (m : Option Nat) l => match m with
           | none => some (bits l)
           | some x => if (g.fmt.value x).cmpZ (g.fmt.value (bits l)) = .lt then some (bits l) else some x) none
         .next (match best with
           | none => same sg [BitVec.ofNat 32 g.fmt.nanBits, 0xFFFFFFFF#32] fl
           | some x => same sg [BitVec.ofNat 32 x, BitVec.ofNat 32 ((nums.filter (fun l => bits l = x)).headD 0)] fl)) ∧
     (let sg : Sig := { ok := g.dstOk d && dstVec d && g.srcOk a && predOk p && floatType g.etype
                        reads := srcRegs false a, writes := predReg p :: dstRegs false d, lat := some 6 }
      let bit := fun l => (g.rd a l).getLsbD l
      s.canIssue g sg = true → exec (.gmask d a p) s = .next (s.gives g sg (g.predResults p bit ++
        (g.active.filter (fun l => ! bit l)).flatMap (fun l => dstWords d l [BitVec.ofNat 32 (g.fmt.signed true g.fmt.infBits)]))
        0#32)) ∧
     (let sg : Sig := { ok := g.dstOk d && dstVec d, writes := dstRegs false d, lat := some 6 }
      s.canIssue g sg = true →
       exec (.rng d) s = .next (drawn sg (fun l => (g.draw (s.key g) l).setWidth 32)) ∧
       exec (.rngf d) s = .next (drawn sg (fun l =>
         let m := (g.draw (s.key g) l >>> 40).toNat
         BitVec.ofNat 32 (roundToFP32 (if m = 0 then .zero false else .fin false m (-24) false) 0).1))))

/-! ### MODE, EXM, special registers and control flow (R34 to R42, R80, R113 to R127, R133) -/

/-- R80, R113 and R114: NOP only goes on; SETM and GETM, SETEXM and GETEXM write and read MODE and EXM, whatever the guard.
R34: a write to EXM holds the running lanes whose bit is 0 and lets the held lanes whose bit is 1 run; a lane in another state
keeps it, and so does everything else of every lane. -/
def Obligations.ModeAndMaskInstructions : Prop :=
  (∀ (s : State) (g : Gang) (x : BitVec 24) (d : Dst) (a : Src),
     (let sg : Sig := { ok := true, lat := some 1, guarded := false }
      s.canIssue g sg = true → exec (.nop x) s = .next (s.ends sg (s.put g))) ∧
     (let sg : Sig := { ok := g.srcOk a && uniOnly a, reads := srcRegs false a, lat := some 1, guarded := false }
      s.canIssue g sg = true →
       (modeOk (g.rd a 0) = true → exec (.setm a) s = .next (s.ends sg (s.put { g with mode := g.rd a 0 }))) ∧
       (modeOk (g.rd a 0) = false → exec (.setm a) s = .next (s.traps { cause := 0x02 })) ∧
       ((g.writeExm (g.rd a 0)).exm ≠ [] → exec (.setexm a) s = .next (s.ends sg (s.put (g.writeExm (g.rd a 0))))) ∧
       ((g.writeExm (g.rd a 0)).exm = [] → exec (.setexm a) s = .next (s.leaves sg (s.land s.cur.core s.cur.slot
         ((g.writeExm (g.rd a 0)).frontier g.block [] (g.lanesIn .wait) false))))) ∧
     (let sg : Sig := { ok := g.dstOk d, writes := dstRegs false d, lat := some 4, guarded := false }
      let all := fun (w : BitVec 32) => if dstIsUni d then dstWords d 0 [w] else g.exm.flatMap (fun l => dstWords d l [w])
      s.canIssue g sg = true →
       exec (.getm d) s = .next (s.ends sg (s.put (g.schedule 4 (all g.mode)))) ∧
       exec (.getexm d) s = .next (s.ends sg (s.put (g.schedule 4 (all (maskOf g.exm))))))) ∧
  (∀ (g : Gang) (m : BitVec 32) (l : Nat), l < 32 → msorted g.lanes = true →
     (g.writeExm m).lane l = { g.lane l with st := match (g.lane l).st with
       | .run => if m.getLsbD l then .run else .held
       | .held => if m.getLsbD l then .run else .held
       | x => x })

/-- R36 to R42 and R115: RDSR gives each active lane the special register, and RDSR of CYCLO latches the upper half; WRSR
writes the registers that can be written, from the highest active lane where one value is taken, and leaves the others; a
number above 0x16 traps with cause 0x02; and with no active lane neither has an effect. That nothing is latched then is the
model's reading (log 83). R36 to R41: the value of each special register for a lane. The clock that CYC counts from, the phase
of the refresh sequencer and the privileged slot's own key are the model's choices (logs 97, 12 and 81), and so is what the
registers of a crew read in that slot (log 101). -/
def Obligations.SpecialRegisterInstructions : Prop :=
  (∀ (s : State) (g : Gang) (d : Dst) (r n : BitVec 8) (a : Src),
     let c := s.cur.core
     let k := s.cur.slot
     (let sg : Sig := { ok := g.dstOk d && r.toNat ≤ 0x16, writes := dstRegs false d, lat := some 6 }
      (s.issuing = some g → s.seesHeads g sg = true → 0x16 < r.toNat → exec (.rdsr d r) s = .next (s.traps { cause := 0x02 })) ∧
      (s.canIssue g sg = true →
       (g.active = [] → exec (.rdsr d r) s = .next (s.ends sg (s.put g))) ∧
       (g.active ≠ [] → (r = 0x08#8 → s.flagsOwed = false) →
         exec (.rdsr d r) s =
           let h := if r = 0x05#8 then { g with cychi := (s.cyc c >>> 32).setWidth 32 } else g
           .next (s.ends sg (s.put (h.schedule 6 (g.laneWrites d (fun l => ([s.special g r.toNat l], 0#32))))))))) ∧
     (let sg : Sig := { ok := n.toNat ≤ 0x16 && g.srcOk a, reads := srcRegs false a, priv := n = 0x16#8 }
      let top := g.rd a (g.active.getLastD 0)
      let key := fun (x : BitVec 64) => if k = privSlot then (s.put g).modCore c (fun y => { y with rngk := x })
        else (s.put g).modCrew c g.crew (fun w => { w with rngk := x })
      (s.issuing = some g → s.seesHeads g sg = true → 0x16 < n.toNat → exec (.wrsr n a) s = .next (s.traps { cause := 0x02 })) ∧
      (s.canIssue g sg = true →
       (g.active = [] → exec (.wrsr n a) s = .next (s.ends sg (s.put g))) ∧
       (g.active ≠ [] →
         (n = 0x08#8 → s.flagsOwed = false →
           exec (.wrsr n a) s = .next (s.ends sg (s.put { g with nstat := g.nstat &&& ~~~(top &&& 0x7F#32) }))) ∧
         (n = 0x0F#8 → exec (.wrsr n a) s = .next (s.ends sg (key ((s.key g >>> 32).setWidth 32 ++ top)))) ∧
         (n = 0x10#8 → exec (.wrsr n a) s = .next (s.ends sg (key (top ++ (s.key g).setWidth 32)))) ∧
         (n = 0x11#8 → exec (.wrsr n a) s =
           .next (s.ends sg (s.put (g.active.foldl (fun h l => h.modLane l (fun x => { x with rngctr := g.rd a l })) g)))) ∧
         (n = 0x16#8 → exec (.wrsr n a) s =
           .next (s.ends sg ((s.put g).modCore c (fun x => { x with sctl := top &&& 1#32 })))) ∧
         (n ∉ [0x08#8, 0x0F#8, 0x10#8, 0x11#8, 0x16#8] → exec (.wrsr n a) s = .next (s.ends sg (s.put g))))))) ∧
  (∀ (s : State) (g : Gang) (l p : Nat),
     let c := s.cur.core
     let x := g.lane l
     let w := s.crew c g.crew
     let sr := fun n => s.special g n l
     let ph := (Config.ghPhase (dieOf c) + s.clock) % 8192
     sr 0x01 ++ sr 0x00 = x.wid ∧ sr 0x02 = BitVec.ofNat 32 l ∧ sr 0x03 = BitVec.ofNat 32 s.cur.slot ∧ sr 0x04 = BitVec.ofNat 32 c ∧
     sr 0x05 = BitVec.ofNat 32 (s.clock - (s.core c).cyc0) ∧ sr 0x06 = g.cychi ∧
     sr 0x07 = (if w.modeb.testBit 7 then 1#32 else 0#32) ∧ sr 0x08 = g.nstat ∧
     (sr 0x09).getLsbD 31 = decide (ph % 256 < 48) ∧
     (ph % 256 < 48 → (sr 0x09).extractLsb' 24 5 = BitVec.ofNat 5 (ph / 256) ∧
       (sr 0x09).extractLsb' 16 6 = BitVec.ofNat 6 (256 * (ph / 256) + 48 - ph)) ∧
     (48 ≤ ph % 256 → (sr 0x09).extractLsb' 24 5 = BitVec.ofNat 5 (ph / 256 + 1) ∧ (sr 0x09).extractLsb' 16 6 = 0#6) ∧
     (sr 0x09).extractLsb' 0 9 = BitVec.ofNat 9 (256 * (ph / 256 + 1) - ph) ∧
     sr 0x0A = 0x570F0100#32 ∧ sr 0x0B = (if s.lodge.cxl then 0x3F#32 else 0x1F#32) ∧ sr 0x0C = 0x040A0400#32 ∧
     sr 0x0E ++ sr 0x0D = w.karg ∧ sr 0x10 ++ sr 0x0F = (if s.cur.slot = privSlot then (s.core c).rngk else w.rngk) ∧
     sr 0x11 = x.rngctr ∧ sr 0x12 = BitVec.ofNat 32 x.nest ∧ sr 0x13 = x.rsver ∧ sr 0x14 = BitVec.ofNat 32 w.dom ∧
     sr 0x15 = BitVec.ofNat 32 w.part ∧ sr 0x16 = (s.core c).sctl ∧ (0x16 < p → sr p = 0#32))

/-- R74, R82, R119 and R120: a transfer sends every running lane to its target, writes the link of a call, and runs a frontier
step. The lowest lane whose target may not be entered traps with cause 0x03 before every other check; a target that is
misplaced or out of range traps with cause 0x04 after them. -/
def Obligations.TransferInstructions : Prop :=
  ∀ (s : State) (g : Gang) (t : BitVec 24) (disp : BitVec 16) (d : Dst) (a : Src),
    let c := s.cur.core
    let k := s.cur.slot
    let link := if dstIsUni d then dstWords d 0 [linkOf g] else g.exm.flatMap (fun l => dstWords d l [linkOf g])
    let goes := fun (i : Instr) (sg : Sig) (goal : Nat → Goal) (ws : List (Loc × BitVec 128)) =>
      let all := g.exm.map (fun l => (l, goal l))
      (∀ l, s.issuing = some g → s.seesHeads g sg = true → sg.closed = some l → (sg.seeks = true → sg.waits g = false) →
        exec i s = .next (s.traps { cause := 0x03, lane := l })) ∧
      (s.canIssue g sg = true → exec i s = .next (match goalTrap s all with
        | some x => s.traps x
        | none => s.leaves sg (s.land c k (((g.schedule 1 ws).park (goalOf all)).frontier g.block g.exm (g.lanesIn .wait) false))))
    let shut := fun (sg : Sig) (known : Bool) (goal : Nat → Goal) => if known then sg.toward s (g.exm.map (fun l => (l, goal l))) else sg
    let reg := fun l => regGoal (s.codeBase g) (g.rd a l)
    let there := fun (_ : Nat) => Goal.block t.toNat
    let near := fun (_ : Nat) => dispGoal (s.codeBase g) g.block disp
    goes (.bra t) (shut { ok := true, lat := some 1, guarded := false } true there) there [] ∧
    goes (.brx a) (shut (targetSig g .none a) (g.srcOk a) reg) reg [] ∧
    goes (.ret a) (shut (targetSig g .none a) (g.srcOk a) reg) reg [] ∧
    goes (.call d disp) (shut (targetSig g d .zero) true near) near link ∧
    goes (.callx d a) (shut (targetSig g d a) (g.srcOk a) reg) reg link

/-- R121 to R125 and R251: BRP sends the active lanes whose predicate is 1, and traps with cause 0x03 or 0x04 where their
target is closed or misplaced; MEET rejoins; EXIT and DONE end lanes; YIELD stands back for the other gangs of its scheduler
that were ready in its clock, which the step has put into State.cur; and with no active lane BRP, EXIT and DONE only go on.
What DONE does to the privileged slot is the model's choice (log 82). R74, R119, R126 and R260: REGROUP moves the active
lanes, with what they carry, into the bin of its entry block and role, whose running fill they do not join once its time is
up. It waits while a slot of the scoreboard is taken and while no bin has room; a closed entry block traps with cause 0x03;
with no active lane it only goes on. In the privileged slot, which has no bins, its lanes are gone, by the model's choice (log
82). -/
def Obligations.LaneFlowInstructions : Prop :=
  (∀ (s : State) (g : Gang) (p : BitVec 8) (disp : BitVec 16),
     let c := s.cur.core
     let k := s.cur.slot
     let taken := g.active.filter (fun l => g.pred p.toNat l)
     let goals := taken.map (fun l => (l, dispGoal (s.codeBase g) g.block disp))
     let sg1 : Sig := { ok := true, lat := some 1 }
     let free : Sig := { ok := true, lat := some 1, guarded := false }
     (let sg0 : Sig := { ok := predOk p, reads := [predReg p], lat := some 1, seeks := true }
      let sg := if predOk p then sg0.toward s goals else sg0
      (∀ l, s.issuing = some g → s.seesHeads g sg = true → sg.waits g = false → sg.closed = some l →
         exec (.brp p disp) s = .next (s.traps { cause := 0x03, lane := l })) ∧
      (s.canIssue g sg = true →
       (taken = [] → exec (.brp p disp) s = .next (s.ends sg (s.put g))) ∧
       (taken ≠ [] →
         (∀ x, goalTrap s goals = some x → exec (.brp p disp) s = .next (s.traps x)) ∧
         (goalTrap s goals = none →
           let h := g.modLanes taken (fun x => { x with st := .wait, fblock := goalOf goals (taken.headD 0) })
           exec (.brp p disp) s = .next (if h.exm = [] then
               s.leaves sg (s.land c k (h.frontier g.block g.exm (g.lanesIn .wait) false))
             else s.ends sg (s.put h)))))) ∧
     (s.canIssue g free = true →
       exec .meet s = .next (s.ends free (s.put g.meet)) ∧
       exec .yield s = .next (s.ends free (s.put (if k = privSlot then g else
         { g with yieldFor := s.cur.ready.filter (· ≠ k), yieldLeft := 16 })))) ∧
     (s.canIssue g sg1 = true →
       (g.active = [] →
         exec .done s = .next (s.ends sg1 (s.put g)) ∧ exec .exit s = .next (s.ends sg1 (s.put g))) ∧
       (g.active ≠ [] →
         let u := (s.put g).exitLanes c k g.active .gone
         exec .done s = .next (s.leaves sg1 ((s.put g).doneGang c k g)) ∧
         (∃ h, u.gang? c k = some h ∧
           exec .exit s = .next (if h.exm = [] then s.leaves sg1 (u.land c k (h.frontier g.block [] (g.lanesIn .wait) false))
             else s.ends sg1 u))))) ∧
  (∀ (s : State) (g : Gang) (t : BitVec 24),
     let c := s.cur.core
     let k := s.cur.slot
     let sg := ({ ok := true, lat := some 1, seeks := true } : Sig).toward s (g.active.map (fun l => (l, .block t.toNat)))
     let w := s.crew c g.crew
     let key := binKey t.toNat g.role
     let old := (mfind w.bins key).map (fun b => if b.overdue w.rgto s.clock then b.expire else b)
     let free := g.count 0 = 0 ∧ g.count 1 = 0 ∧ g.count 10 = 0 ∧ g.claims = []
     let room := (old = none → w.bins.length < 4) ∧ ((old.map (·.lanes.length)).getD 0) + g.active.length ≤ 64
     let b := (old.getD { block := t.toNat, role := g.role, vcount := g.vcount }).deposit s.clock
       (g.active.map (g.landAll.binLane w.liveLo w.liveHi))
     let h := g.modLanes g.active (fun _ => {})
     let u := (s.put h).modCrew c g.crew (fun w => { w with bins := minsert w.bins key b })
     (g.active ≠ [] → s.mayEnter c k t.toNat = false → s.issuing = some g → s.seesHeads g sg = true → sg.waits g = false →
       exec (.regroup t) s = .next (s.traps { cause := 0x03, lane := g.active.headD 0 })) ∧
     (s.canIssue g sg = true →
       (g.active = [] → exec (.regroup t) s = .next (s.ends sg (s.put g))) ∧
       (g.active ≠ [] → free → room →
         exec (.regroup t) s = .next (if h.exm = [] then s.leaves sg (u.land c k (h.frontier g.block [] (g.lanesIn .wait) false))
           else s.ends sg u)) ∧
       (g.active ≠ [] → ¬ (free ∧ room) → exec (.regroup t) s = .next s)))

/-- R22, R81, R82, R86 and R133: whatever instruction issues, a field that breaks its rule traps with cause 0x02, a tile that
is not held with 0x22, and an early read or write with 0x06 while SCTL.SCHK is 1, in this order and after a closed target and
the privilege check; a word of an unassigned opcode, a broken fixed field, TRAP and BKPT take their traps; TRAP without an
active lane has no effect, and BKPT ignores the guard. R82: a privileged instruction traps with cause 0x05 in every crew slot,
whatever its operands. -/
def Obligations.TrapsOnRequest : Prop :=
  (∀ (s : State) (g : Gang) (b : BitVec 8) (w : BitVec 32) (lits : List (BitVec 32)) (sig : Gang → Sig) (eff : Gang → Res),
     (s.issuing = some g → s.seesHeads g (sig g) = true →
       let sg := sig g
       (sg.closed = none → (sg.seeks = true → sg.waits g = false) → (sg.priv = true → s.cur.slot = privSlot) →
         (sg.ok = false → issue s sig eff = .next (s.traps { cause := 0x02 })) ∧
         (sg.ok = true → sg.tiles = false → issue s sig eff = .next (s.traps { cause := 0x22 })) ∧
         (sg.ok = true → sg.tiles = true → sg.waits g = false → (s.core s.cur.core).schk = true → sg.late g = true →
           issue s sig eff = .next (s.traps { cause := 0x06 })))) ∧
     (s.issuing = some g →
       exec (.illegalInstruction w) s = .next (s.traps { cause := 0x01 }) ∧
       (let sg := illegalSig s w lits g
        ((sg.seeks = true → sg.waits g = false) → s.seesHeads g sg = true → exec (.illegalOperand w lits) s = .next (s.traps (match sg.closed with
           | some l => { cause := 0x03, lane := l }
           | none => { cause :=
               if (0xF0 ≤ (fieldOp w).toNat ∧ (fieldOp w).toNat ≤ 0xF5 ∨ fieldOp w = 0x13#8 ∧ fieldD w = 0x16#8) ∧ s.cur.slot ≠ privSlot
               then 0x05 else 0x02 }))) ∧
        ((fieldOp w).toNat ∉ [0x04, 0x08, 0x09, 0xF0] → sg.seeks = false ∧ sg.closed = none))) ∧
     (s.canIssue g { ok := true, lat := some 1, guarded := false } = true →
       exec (.bkpt b) s = .next (s.traps { cause := 0x41, info := b.toNat })) ∧
     (let sg : Sig := { ok := true, lat := some 1 }
      s.canIssue g sg = true →
       exec (.trap b) s = .next (if g.active = [] then s.ends sg (s.put g) else s.traps { cause := 0x40, info := b.toNat }))) ∧
  (∀ (s : State) (g : Gang) (d : Dst) (a b : Src) (n : BitVec 8), s.issuing = some g → s.seesHeads g { ok := true } = true →
     s.cur.slot ≠ privSlot → ∀ i ∈ [Instr.eret a, .tlbinv a n, .ctxst d a b, .ctxld d a, .haltcWaitTrapLine, .haltcHaltCrews, .haltcResumeCrews,
       .slotcfgResume a, .slotcfgSkipResume a, .slotcfgKill a, .slotcfgRingBase a, .slotcfgTrapVector a, .slotcfgStopCrew a,
       .wrsr 0x16#8 a],
       exec i s = .next (s.traps { cause := 0x05 }))

/-! ### Loads, stores, atomics, rows, scratchpad, Glasshouse (R155 to R174) -/

/-- R161, R162, R167 and R359: a load whose addresses pass the checks, once their translations are known, goes out in its
path; LDA holds the gang's later accesses back, and LDR reserves each element and gives the gang its exemption. A load behind
an own operation that is on its way to its home is read at the home (log 23, a deduction). R166 and R359: LDROW reads 512
bytes as one snapshot at their home, once their translation is known, 16 of them for each active lane. R31, R158, R162, R359,
R389 and R390: every instruction that accesses memory by global addresses waits while an LDA of its gang is out, has no effect
with no active lane, waits until the table entries for its addresses have come, and traps with the first failing condition of
its addresses before anything of it takes effect; where such an entry does not match its check value, the mismatch is taken up
and the instruction has no effect in any lane. That the walks read the tables so is the model's reading (log 99). -/
def Obligations.LoadsGoOut : Prop :=
  (∀ (s t : State) (g : Gang) (d : Dst) (a b : Src) (n : BitVec 8) (refs : List Ref),
     g.mayAccess = true → g.active ≠ [] → g.count 0 < 63 →
     let parts := fun (rs : List Ref) => rs.map (fun r => (r, g.part d r.lane))
     let at_ := fun (ls : List Nat) => ls.map (fun l => (l, g.globalAddr a b l))
     (let sg := loadSig g d (dstVec d && g.src64Ok a && g.srcOk b) (srcRegs true a ++ srcRegs false b)
      let vas := at_ g.active
      s.canIssue g sg = true → s.walksTo (vas.map (·.2)) t →
       (t.resolve .load g.z vas = .ok refs →
         exec (.ld d a b) s = .next (s.ends sg (t.issueLoad g false false (parts refs)))) ∧
       (t.resolve .loadHbm g.z vas = .ok refs →
         let h := refs.foldl (fun (g : Gang) r => g.modLane r.lane (fun x =>
           { x with resv := some { load := t.nextId, pa := r.dpa, z := g.z, stamps := [] } })) { g with ec := 64 }
         exec (.ldr d a b) s = .next (s.ends sg (t.issueLoad h false true (parts refs))))) ∧
     (let sg := loadSig g d (dstUni d && g.src64Ok a && uniOnly a && g.srcOk b && uniOnly b) (srcRegs true a ++ srcRegs false b)
      let vas := at_ (g.active.take 1)
      s.canIssue g sg = true → s.walksTo (vas.map (·.2)) t → t.resolve .load g.z vas = .ok refs →
       exec (.ldg d a b) s = .next (s.ends sg (t.issueLoad g false false (parts refs)))) ∧
     (let sg := loadSig g d (dstVec d && scopeOk n 7 && g.src64Ok b) (srcRegs true b)
      let vas := g.active.map (fun l => (l, g.rd64 b l))
      s.canIssue g sg = true → s.walksTo (vas.map (·.2)) t → t.resolve .load g.z vas = .ok refs →
       exec (.lda d n b) s = .next (s.ends sg (t.issueLoad { g with acquiring := g.acquiring ++ [g.seq] } (3 ≤ n.toNat) false
         (parts refs))))) ∧
  (∀ (s u : State) (g : Gang) (m : Nat) (a : Src) (r : Ref) (rest : List Ref),
     let sg : Sig := { ok := m % 4 = 0 && decide (m + 3 < g.vcount) && g.src64Ok a && uniOnly a
                       reads := srcRegs true a, writes := [m, m + 1, m + 2, m + 3] }
     let vas := [(g.active.headD 0, g.rd64 a 0)]
     s.canIssue g sg = true → g.mayAccess = true → g.active ≠ [] → g.count 0 < 63 → s.walksTo (vas.map (·.2)) u →
     u.resolve .loadHbm 512 vas = .ok (r :: rest) →
       let t := u.bump.post .homeOp { u.opOf g r.lane (.read g.active) r.slice [r.span (List.replicate 512 0#8)] with load := some u.nextId }
       let parts := g.active.map (fun l =>
         ({ lane := l, locs := (List.range 4).map (fun i => Loc.v (m + i) l), addr := r.dpa + 16 * l, z := 16
            unit := 0, usize := 0 } : LoadPart))
       exec (.ldrow (.vec m) a) s = .next (s.ends sg (t.fileLoad g 0
         { id := u.nextId, slot := u.cur.slot, seq := g.seq, kind := .home, parts := parts }))) ∧
  (∀ (s : State) (g : Gang) (d : Dst) (x a b : Src) (n p : BitVec 8) (m : Nat),
     let at_ := fun (f : Nat → BitVec 64) => g.active.map (fun l => (l, f l))
     let row := [(g.active.headD 0, g.rd64 a 0)]
     let rowOk := m % 4 = 0 && decide (m + 3 < g.vcount) && g.src64Ok a && uniOnly a
     let ret := fun (op : Nat) => ({ ok := g.delemOk d && dstVec d && atomicOk g op a b
                                     reads := srcRegs true a ++ srcRegs g.pair b ++ (if op = 7 then dstRegs g.pair d else [])
                                     writes := dstRegs g.pair d } : Sig)
     let red := fun (op : Nat) => ({ ok := atomicOk g op a b, reads := srcRegs true a ++ srcRegs g.pair b } : Sig)
     let rows : Sig := { ok := rowOk, reads := srcRegs true a ++ [m, m + 1, m + 2, m + 3] }
     let forms : List (Instr × Sig × Access × Nat × List (Nat × BitVec 64)) :=
       [(.ld d a b, loadSig g d (dstVec d && g.src64Ok a && g.srcOk b) (srcRegs true a ++ srcRegs false b), .load, g.z,
          at_ (g.globalAddr a b)),
        (.ldr d a b, loadSig g d (dstVec d && g.src64Ok a && g.srcOk b) (srcRegs true a ++ srcRegs false b), .loadHbm, g.z,
          at_ (g.globalAddr a b)),
        (.ldg d a b, loadSig g d (dstUni d && g.src64Ok a && uniOnly a && g.srcOk b && uniOnly b) (srcRegs true a ++ srcRegs false b),
          .load, g.z, (g.active.take 1).map (fun l => (l, g.globalAddr a b l))),
        (.lda d n b, loadSig g d (dstVec d && scopeOk n 7 && g.src64Ok b) (srcRegs true b), .load, g.z, at_ (g.rd64 b)),
        (.ldrow (.vec m) a, { ok := rowOk, reads := srcRegs true a, writes := [m, m + 1, m + 2, m + 3] }, .loadHbm, 512, row),
        (.st x a b, { ok := g.elemOk x && g.src64Ok a && g.srcOk b, reads := srcRegs g.pair x ++ srcRegs true a ++ srcRegs false b },
          .store, g.z, at_ (g.globalAddr a b)),
        (.stl x n b, { ok := g.elemOk x && scopeOk n 7 && g.src64Ok b, reads := srcRegs g.pair x ++ srcRegs true b }, .store, g.z,
          at_ (g.rd64 b)),
        (.stc p a b, { ok := predOk p && g.src64Ok a && g.elemOk b, reads := srcRegs true a ++ srcRegs g.pair b, writes := [predReg p] },
          .update, g.z, at_ (g.rd64 a)),
        (.vradd (.vec m) a n, rows, .update, 512, row), (.vrmax (.vec m) a n, rows, .update, 512, row)] ++
       [(Instr.atadd d a b, ret 0), (.atmin d a b, ret 1), (.atmax d a b, ret 2), (.atand d a b, ret 3), (.ator d a b, ret 4),
        (.atxor d a b, ret 5), (.atxch d a b, ret 6), (.atcas d a b, ret 7), (.redadd a b, red 0), (.redmin a b, red 1),
        (.redmax a b, red 2), (.redand a b, red 3), (.redor a b, red 4), (.redxor a b, red 5)].map
         (fun f => (f.1, f.2, .update, g.z, at_ (g.rd64 a)))
     ∀ f ∈ forms, s.canIssue g f.2.1 = true →
       (g.mayAccess = false → exec f.1 s = .next s) ∧
       (g.mayAccess = true →
         (g.active = [] → exec f.1 s = .next (s.ends f.2.1 (s.put g))) ∧
         (∀ t u, g.active ≠ [] → s.walksTo (f.2.2.2.2.map (·.2)) u → u.resolve f.2.2.1 f.2.2.2.1 f.2.2.2.2 = .error t →
           exec f.1 s = .next (s.traps t)) ∧
         (∀ u, g.active ≠ [] → s.walked s.cur.core (s.rootOf s.cur.core s.cur.slot) (f.2.2.2.2.map (·.2)) = (u, .wait) →
           exec f.1 s = .next (s.asked u)) ∧
         (∀ u q, g.active ≠ [] → s.walked s.cur.core (s.rootOf s.cur.core s.cur.slot) (f.2.2.2.2.map (·.2)) = (u, .bad q) →
           exec f.1 s = .next (s.ends f.2.1 ((u.put g).mismatch (s.partOf s.cur.core s.cur.slot) s.cur.core q)))))

/-- R161, R162 and R359: a plain store, once its translations are known, puts each active lane's element on its way to its
home, in increasing lane number; STL first waits for the gang's earlier accesses at its scope. The access of the L1 that such
a write counts for is the model's choice (log 53). R168, R287 and R359: STC, once its translations are known, sends for each
active lane a store that its home decides against the lane's reservation, and every active lane loses its reservation; it
waits until the LDR of each reservation has been served. That it writes nothing in the L1 at issue, and waits so, is the
model's reading (log 21). -/
def Obligations.StoresGoOut : Prop :=
  (∀ (s t : State) (g : Gang) (d a b : Src) (n : BitVec 8) (refs : List Ref),
     g.mayAccess = true → g.active ≠ [] → t.storesOut < 64 →
     let after := fun (sg : Sig) => s.ends sg (((t.put g).countL1 refs).storeAll g (g.storeBytes d) refs)
     (let sg : Sig := { ok := g.elemOk d && g.src64Ok a && g.srcOk b
                        reads := srcRegs g.pair d ++ srcRegs true a ++ srcRegs false b }
      let vas := g.active.map (fun l => (l, g.globalAddr a b l))
      s.canIssue g sg = true → s.walksTo (vas.map (·.2)) t → t.resolve .store g.z vas = .ok refs →
       exec (.st d a b) s = .next (after sg)) ∧
     (let sg : Sig := { ok := g.elemOk d && scopeOk n 7 && g.src64Ok b, reads := srcRegs g.pair d ++ srcRegs true b }
      let vas := g.active.map (fun l => (l, g.rd64 b l))
      s.canIssue g sg = true → s.walksTo (vas.map (·.2)) t → t.resolve .store g.z vas = .ok refs →
       (t.earlierDone g n.toNat = true → exec (.stl d n b) s = .next (after sg)) ∧
       (t.earlierDone g n.toNat = false → exec (.stl d n b) s = .next s))) ∧
  (∀ (s u : State) (g : Gang) (p : BitVec 8) (a b : Src) (refs : List Ref),
     let sg : Sig := { ok := predOk p && g.src64Ok a && g.elemOk b, reads := srcRegs true a ++ srcRegs g.pair b, writes := [predReg p] }
     let vas := g.active.map (fun l => (l, g.rd64 a l))
     let served := ∀ l ∈ g.active, ∀ r, (g.lane l).resv = some r → r.stamps ≠ []
     s.canIssue g sg = true → g.mayAccess = true → g.active ≠ [] → g.count 0 < 63 → s.walksTo (vas.map (·.2)) u →
     u.resolve .update g.z vas = .ok refs →
       let expect := fun (r : Ref) => (g.lane r.lane).resv.bind (fun v => if v.pa = r.dpa ∧ v.z = g.z then some v.stamps else none)
       let t := u.bump.postAll (fun r w => { w.opOf g r.lane .stc r.slice [r.span (g.storeBytes b r.lane)] with
         load := some u.nextId, expect := expect r }) .store refs
       let parts := refs.map (fun r => ({ lane := r.lane, locs := [.p p.toNat r.lane], addr := r.dpa, unit := 0, usize := 0 } : LoadPart))
       (served → exec (.stc p a b) s =
         .next (s.ends sg (t.fileLoad (g.modLanes g.active (fun x => { x with resv := none })) 0
           { id := u.nextId, slot := u.cur.slot, seq := g.seq, kind := .stc, parts := parts }))) ∧
       (¬ served → exec (.stc p a b) s = .next s))

/-- R169 to R171 and R359: the returning atomics, numbered as R169 lists them: once their translations are known, one home
operation for each active lane, in increasing lane number, and a scoreboard slot for D unless D is 0xFC. R169 to R172 and
R359: the atomics that return nothing and the row operations: once their translations are known, home operations, and no
register written. -/
def Obligations.AtomicsGoOut : Prop :=
  (∀ (s u : State) (g : Gang) (d : Dst) (a b : Src) (refs : List Ref),
     let vas := g.active.map (fun l => (l, g.rd64 a l))
     g.mayAccess = true → g.active ≠ [] → s.walksTo (vas.map (·.2)) u → u.resolve .update g.z vas = .ok refs →
     (d ≠ .none → (g.claims.filter (·.slot)).length < 8) →
     let sg := fun (op : Nat) => ({ ok := g.delemOk d && dstVec d && atomicOk g op a b
                                    reads := srcRegs true a ++ srcRegs g.pair b ++ (if op = 7 then dstRegs g.pair d else [])
                                    writes := dstRegs g.pair d } : Sig)
     let new := fun l => if g.pair then g.rd64 (dstSrc d) l else (g.rd (dstSrc d) l).setWidth 64
     let parts := refs.map (fun r => { g.part d r.lane with addr := r.dpa, unit := 0, usize := 0 })
     let after := fun (op : Nat) =>
       let t := u.bump.postAtomics g op b new (some u.nextId) refs
       let t := if d = .none then t.put g
         else (t.put (g.claim true (parts.flatMap (·.locs)))).modCore u.cur.core (fun k =>
           { k with loads := k.loads ++ [{ id := u.nextId, slot := u.cur.slot, seq := g.seq, kind := .atomic, parts := parts }] })
       s.ends (sg op) t
     ∀ p ∈ [(0, Instr.atadd d a b), (1, .atmin d a b), (2, .atmax d a b), (3, .atand d a b), (4, .ator d a b), (5, .atxor d a b),
         (6, .atxch d a b), (7, .atcas d a b)],
       s.canIssue g (sg p.1) = true → exec p.2 s = .next (after p.1)) ∧
  (∀ (s t : State) (g : Gang) (d : Dst) (a b : Src) (n : BitVec 8) (refs : List Ref),
     g.mayAccess = true → g.active ≠ [] → t.storesOut < 64 →
     (let vas := g.active.map (fun l => (l, g.rd64 a l))
      let sg := fun (op : Nat) => ({ ok := atomicOk g op a b, reads := srcRegs true a ++ srcRegs g.pair b } : Sig)
      s.walksTo (vas.map (·.2)) t → t.resolve .update g.z vas = .ok refs →
       ∀ p ∈ [(0, Instr.redadd a b), (1, .redmin a b), (2, .redmax a b), (3, .redand a b), (4, .redor a b), (5, .redxor a b)],
         s.canIssue g (sg p.1) = true →
           exec p.2 s = .next (s.ends (sg p.1) ((t.put g).postAtomics g p.1 b (fun _ => 0#64) none refs))) ∧
     (∀ m, d = .vec m →
       let sg : Sig := { ok := m % 4 = 0 && decide (m + 3 < g.vcount) && g.src64Ok a && uniOnly a
                         reads := srcRegs true a ++ [m, m + 1, m + 2, m + 3] }
       let vas := [(g.active.headD 0, g.rd64 a 0)]
       let data := allLanes.flatMap (fun l => (List.range 4).flatMap (fun i => leBytes 4 (g.v (m + i) l).toNat))
       let mask := (List.range 512).map (fun i => decide (i / 2 ≤ n.toNat) && decide (i / 16 ∈ g.active))
       let out := fun (max : Bool) => (t.put g).postAll (fun r u => u.opOf g r.lane (.row max) r.slice [r.span data mask]) .homeOp refs
       s.canIssue g sg = true → s.walksTo (vas.map (·.2)) t → t.resolve .update 512 vas = .ok refs →
         exec (.vradd d a n) s = .next (s.ends sg (out false)) ∧ exec (.vrmax d a n) s = .next (s.ends sg (out true))))

/-- R31, R163, R164 and R228: the scratchpad is read and written in the issue step, and a write is seen by the gangs that wait
on a phase word; a misaligned offset or one past the end traps; and with no active lane nothing happens. How many accesses a
write counts for is the model's choice (log 53). R31, R165 and R390: LDW reads the Glasshouse region that the launch bound; a
misaligned offset, an unbound slot and an offset past the region trap; a sector that fails its check is taken up, and the load
then delivers nothing; and with no active lane nothing happens. -/
def Obligations.ScratchpadAndGlasshouse : Prop :=
  (∀ (s : State) (g : Gang) (d : Dst) (x a b : Src),
     g.mayAccess = true →
     let w := s.myCrew g
     let offs := g.active.map (fun l => (l, (g.rd a l + g.rd b l).toNat))
     (let sg := loadSig g d (dstVec d && g.srcOk a && g.srcOk b) (srcRegs false a ++ srcRegs false b)
      s.canIssue g sg = true →
       (g.active = [] → exec (.lds d a b) s = .next (s.ends sg (s.put g))) ∧
       (∀ t, g.active ≠ [] → spadTrap g.z w.sc offs = some t → exec (.lds d a b) s = .next (s.traps t)) ∧
       (g.active ≠ [] → spadTrap g.z w.sc offs = none → (d ≠ .none → (g.claims.filter (·.slot)).length < 8) →
         let parts := offs.map (fun o => { g.part d o.1 with
           addr := o.2, unit := 0, usize := 0, val := some (partValue g.z g.zsigned (w.spadBytes o.2 g.z)) })
         exec (.lds d a b) s = .next (s.ends sg ((s.put (if d = .none then g else g.claim true (parts.flatMap (·.locs)))).bump.modCore
           s.cur.core (fun k => { k with
             loads := k.loads ++ [{ id := s.nextId, slot := s.cur.slot, seq := g.seq, kind := .shared, parts := parts }] }))))) ∧
     (let sg : Sig := { ok := g.elemOk x && g.srcOk a && g.srcOk b
                        reads := srcRegs g.pair x ++ srcRegs false a ++ srcRegs false b }
      s.canIssue g sg = true →
       (g.active = [] → exec (.sts x a b) s = .next (s.ends sg (s.put g))) ∧
       (∀ t, g.active ≠ [] → spadTrap g.z w.sc offs = some t → exec (.sts x a b) s = .next (s.traps t)) ∧
       (g.active ≠ [] → spadTrap g.z w.sc offs = none → exec (.sts x a b) s = .next (s.ends sg
         (((s.put g).spadStep s.cur.core g.crew (fun _ => offs.foldl (fun w o => w.spadWrite o.2 (g.storeBytes x o.1)) w)).count
           (dieOf s.cur.core) (s.partOf s.cur.core s.cur.slot) 3 (distinct (offs.map (fun o => o.2 / 128)))))))) ∧
  (∀ (s : State) (g : Gang) (d : Dst) (a : Src) (n : BitVec 8),
     let sg := loadSig g d (dstVec d && g.srcOk a && n.toNat < 8) (srcRegs false a)
     let off := fun l => (g.rd a l).toNat
     let bad := g.active.filterMap (fun l => if off l % g.z ≠ 0 then some (l, BitVec.ofNat 64 (off l), Cond.mk 1 0x12)
       else if ((s.boundRegion (s.myCrew g) n.toNat).map (fun r => decide (off l + g.z ≤ r.size * 65536))).getD false then none
       else some (l, BitVec.ofNat 64 (off l), Cond.mk 4 0x11))
     s.canIssue g sg = true → g.mayAccess = true →
     (g.active = [] → exec (.ldw d a n) s = .next (s.ends sg (s.put g))) ∧
     (∀ t, firstCond bad = some t → exec (.ldw d a n) s = .next (s.traps t)) ∧
     (∀ r, g.active ≠ [] → firstCond bad = none → s.boundRegion (s.myCrew g) n.toNat = some r → g.count 1 < 63 →
       let parts := g.active.map (fun l => { g.part d l with
         addr := r.start + off l, unit := 0, usize := 0, val := some (partValue g.z g.zsigned (s.bytes (r.start + off l) g.z)) })
       let failed := s.firstBad (g.active.map (fun l => (r.start + off l, g.z)))
       let t := match failed with
         | some q => s.mismatch (s.partOf s.cur.core s.cur.slot) s.cur.core q
         | none => s
       exec (.ldw d a n) s = .next (s.ends sg (t.bump.fileLoad g 1
         { id := t.nextId, slot := s.cur.slot, seq := g.seq, kind := .ghl, failed := failed.isSome, parts := parts }))))

/-- R31, R158, R173, R174 and R359: a FENCE goes on once the gang's earlier accesses are performed at its scope, and waits for
them otherwise; once the translations that they need are known, PREF brings lines into the L1 that it lacks, or into their
home slices, and drops an address that fails a check; CCTL drops a line from the L1 or asks its home to write it back, after
the traps of its addresses. What a scope asks for is the model's reading of R173 and R364 (logs 34 and 91), what PREF checks
that of R158 (log 93), and that CCTL waits for a line that is on its way, the model's choice (log 24). -/
def Obligations.FencesAndCacheControl : Prop :=
  ∀ (s t : State) (g : Gang) (n : BitVec 8) (a : Src),
    let c := t.cur.core
    let root := s.rootOf s.cur.core s.cur.slot
    let vas := g.active.map (fun l => (l, g.rd64 a l))
    (let sg : Sig := { ok := scopeOk n 7 }
     s.canIssue g sg = true →
      (g.active = [] ∨ s.earlierDone g n.toNat = true → exec (.fence n) s = .next (s.ends sg (s.put g))) ∧
      (g.active ≠ [] → s.earlierDone g n.toNat = false →
        exec (.fence n) s = .next (s.leaves sg (s.put (g.hold s (.performed n.toNat g.seq)))))) ∧
    (let sg : Sig := { ok := g.src64Ok a && n.toNat ≤ 1, reads := srcRegs true a }
     let refs := okRefs (vas.map (fun v => (v.1, v.2, t.checkAddr c (t.rootOf c t.cur.slot) .load v.2 g.z)))
     s.canIssue g sg = true → g.mayAccess = true → s.walksTo (vas.map (·.2)) t →
      (n = 1#8 → exec (.pref a n) s = .next (s.ends sg (refs.foldl (fun (u : State) r =>
        let l := r.tlb.unit r.dpa
        u.bump.sendM { kind := .fillReq, core := u.cur.core, slice := r.slice, unit := l.1, usize := l.2, op := u.nextId
                       part := u.partOf u.cur.core u.cur.slot, nocache := true }) (t.put g)))) ∧
      (n = 0#8 → exec (.pref a n) s = .next (s.ends sg (refs.foldl (fun (u : State) r =>
        let l := r.tlb.unit r.dpa
        if ((u.core u.cur.core).line? l.1 l.2).isSome || (u.core u.cur.core).fills.any (fun f => f.1 = l.1 && f.2.1 = l.2) then u
        else u.bump.askFill u.cur.core r.slice l.1 l.2 u.nextId (u.partOf u.cur.core u.cur.slot)) (t.put g))))) ∧
    (let sg : Sig := { ok := g.src64Ok a, reads := srcRegs true a }
     let bad := vas.filterMap (fun v => if ! canonical v.2 then some (v.1, v.2, Cond.mk 2 0x11)
       else match t.translate c root v.2 with
         | .error .page => some (v.1, v.2, Cond.mk 3 0x10)
         | .error .access => some (v.1, v.2, Cond.mk 4 0x11)
         | .ok _ => none)
     let refs := vas.filterMap (fun v => match t.translate c root v.2 with
       | .ok x => some (Ref.mk v.1 (x.dpaOf (vaLow v.2)) x)
       | .error _ => none)
     let lines := refs.map (fun r => (r, r.tlb.unit r.dpa))
     let plain := fun (r : Ref) => targetOf r.dpa = .hbm || targetOf r.dpa = .host
     s.canIssue g sg = true → s.walksTo (vas.map (·.2)) t →
      (∀ x, firstCond bad = some x → exec (.cctlEvictL1 a) s = .next (s.traps x) ∧ exec (.cctlWriteBack a) s = .next (s.traps x)) ∧
      (firstCond bad = none → g.mayAccess = false → exec (.cctlEvictL1 a) s = .next s ∧ exec (.cctlWriteBack a) s = .next s) ∧
      (firstCond bad = none → g.mayAccess = true →
        ((∃ p ∈ lines, ∃ f ∈ (t.core c).fills, f.1 = p.2.1 ∧ f.2.1 = p.2.2) → exec (.cctlEvictL1 a) s = .next s) ∧
        ((∀ p ∈ lines, ∀ f ∈ (t.core c).fills, ¬ (f.1 = p.2.1 ∧ f.2.1 = p.2.2)) →
          exec (.cctlEvictL1 a) s = .next (s.ends sg (lines.foldl (fun u p => if plain p.1 then
            (u.modCore u.cur.core (fun x => x.dropLine p.2.1 p.2.2)).post .evict
              (u.opOf g p.1.lane (.cctl 0) p.1.slice [{ addr := p.2.1, usize := p.2.2, delta := p.1.tlb.delta }]) else u) (t.put g)))) ∧
        exec (.cctlWriteBack a) s = .next (s.ends sg (lines.foldl (fun u p => if plain p.1 then
          u.post .cctl (u.opOf g p.1.lane (.cctl 1) p.1.slice [{ addr := p.2.1, usize := p.2.2, delta := p.1.tlb.delta }]) else u) (t.put g)))))

/-! ### Waits, barriers, events and the asynchronous queues (R175 to R186, R204, R205, R224 to R231, R241 to R243) -/

/-- R31, R183, R184, R224, R227, R228, R231, R241 and R359: each waiting instruction goes on at once when its condition holds,
with the effect of its completion, and otherwise holds its gang until it does; with no active lane it only goes on, but for
WAITC, which ignores the guard; a failed address or offset traps. R183, R184, R224, R226 to R228, R231, R241, R320 and R389:
when the condition of each wait holds, and what its completion takes. That a SIGWAIT reads behind what its gang has stored and
what is on its way to its core is R159, R277 and R286; a word that does not match its check value satisfies none. That the
read with which a wait ends is counted is the model's choice (log 53). R224: GPWAIT traps in a gang of which a lane is in a
section. -/
def Obligations.WaitingInstructions : Prop :=
  (∀ (s : State) (g : Gang) (n : BitVec 8) (a b : Src),
     let k := s.cur.slot
     let w := s.myCrew g
     let waits := fun (u : State) (sg : Sig) (cond : WaitCond) =>
       if u.condHolds u.cur.core u.cur.slot g cond then s.ends sg ((u.put g).condEffect u.cur.core u.cur.slot false cond)
       else s.leaves sg (u.put (g.hold u cond))
     let sgC : Sig := { ok := n.toNat ≤ 11 && g.srcOk a && uniOnly a, reads := srcRegs false a, guarded := false }
     let sgS : Sig := { ok := scopeOk n 7 && g.src64Ok a && uniOnly a && g.src64Ok b && uniOnly b
                        reads := srcRegs true a ++ srcRegs true b }
     let sgB : Sig := { ok := n.toNat < w.nbars }
     let sgP : Sig := { ok := g.srcOk a && uniOnly a && g.srcOk b && uniOnly b, reads := srcRegs false a ++ srcRegs false b }
     let sgG : Sig := { ok := g.srcOk a && uniOnly a, reads := srcRegs false a }
     let sgE : Sig := { ok := if k = privSlot then n.toNat = 0 else n.toNat ≤ 7 && (mget {} w.events n.toNat).sink = 0 }
     let sgH : Sig := { ok := true, priv := true }
     let vas := [(g.active.headD 0, g.rd64 a 0)]
     let off := (g.rd a 0).toNat
     (s.canIssue g sgC = true → exec (.waitc n a) s = .next (waits s sgC (.counter n.toNat (g.rd a 0).toNat))) ∧
     (g.active = [] → g.mayAccess = true →
       ∀ f ∈ [(Instr.sigwait n a b, sgS), (.barwait n, sgB), (.pbwait a b, sgP), (.gpwait a, sgG), (.evwait n, sgE),
         (.haltcWaitTrapLine, sgH)], s.canIssue g f.2 = true → exec f.1 s = .next (s.ends f.2 (s.put g))) ∧
     (g.active ≠ [] →
       (s.canIssue g sgS = true → g.mayAccess = true →
         (∀ t u, s.walksTo [g.rd64 a 0] u → u.resolve .load 8 vas = .error t → exec (.sigwait n a b) s = .next (s.traps t)) ∧
         (∀ u r rest, s.walksTo [g.rd64 a 0] u → u.resolve .load 8 vas = .ok (r :: rest) → exec (.sigwait n a b) s =
           .next (waits u sgS (.signal (r.tlb.spot r.dpa 8) (g.rd64 b 0) n.toNat g.seq)))) ∧
       (s.canIssue g sgB = true → exec (.barwait n) s = .next (waits s sgB (.bar n.toNat))) ∧
       (s.canIssue g sgP = true →
         (off % 4 ≠ 0 → exec (.pbwait a b) s =
           .next (s.traps { cause := 0x12, lane := g.active.headD 0, addr := BitVec.ofNat 64 off })) ∧
         (off % 4 = 0 → w.sc < off + 4 → exec (.pbwait a b) s =
           .next (s.traps { cause := 0x13, lane := g.active.headD 0, addr := BitVec.ofNat 64 off })) ∧
         (off % 4 = 0 → off + 4 ≤ w.sc → exec (.pbwait a b) s = .next (waits s sgP (.phase off ((g.rd b 0).getLsbD 0))))) ∧
       (s.canIssue g sgG = true → (∀ l < 32, (g.lane l).st = .empty ∨ (g.lane l).nest = 0) →
         exec (.gpwait a) s = .next (waits s sgG (.ticket w.dom (g.rd a 0)))) ∧
       (s.canIssue g sgE = true →
         exec (.evwait n) s = .next (waits s sgE (if k = privSlot then .trapLine true else .event n.toNat))) ∧
       (s.canIssue g sgH = true → exec .haltcWaitTrapLine s = .next (waits s sgH (.trapLine false))))) ∧
  (∀ (s : State) (c k : Nat) (g : Gang),
     let w := s.crew c g.crew
     (∀ p x, s.condHolds c k g (.counter p x) = true ↔ 63 ≤ x ∨ g.count p ≤ x) ∧
     (∀ (y : Spot) x n q, s.condHolds c k g (.signal y x n q) = true ↔
       x.toNat ≤ leNat (s.bytes y.a 8) ∧ (s.access false y).2 = true ∧ s.rangeOk y.a y.n = true ∧
       (∀ o ∈ s.ops, o.core = c → o.slot = k → o.seq < q → o.applied = false → o.touches y.a y.n = false) ∧
       (∀ m ∈ s.net, m.core = c → m.up = false → m.unit < y.a + y.n → m.unit + m.usize ≤ y.a)) ∧
     (∀ d x, s.condHolds c k g (.ticket d x) = true ↔ x = 0#32 ∨ (mget 0#32 (s.core c).freed d - x).toNat < 2 ^ 31) ∧
     (∀ n, s.condHolds c k g (.bar n) = true ↔ g.barPend.getLsbD n = false ∨ (mget {} w.bars n).ph ≠ g.barPhase.getLsbD n) ∧
     (g.held = none → ∀ o b, s.condHolds c k g (.phase o b) = true ↔ (decide (leNat (w.spadBytes o 4) / 2 ^ 31 % 2 = 1)) = b) ∧
     (g.held = none → ∀ e, s.condHolds c k g (.event e) = true ↔
       1 ≤ (mget {} w.events e).cnt ∧ ∀ y, (s.core c).waiter g.crew e = some y → k ≤ y.1) ∧
     (∀ b, s.condHolds c k g (.trapLine b) = true ↔ 1 ≤ (s.core c).trapLine) ∧
     (∀ e, s.gang? c k = some g → s.condEffect c k false (.event e) = s.modCrew c g.crew (fun w =>
       { w with events := minsert w.events e { (mget {} w.events e : EvLine) with cnt := (mget {} w.events e).cnt - 1 } })) ∧
     (∀ (y : Spot) x n q, s.condEffect c k false (.signal y x n q) = (s.charge (s.partOf c k) true y).served false y.a y.n) ∧
     (∀ o b, s.condEffect c k false (.phase o b) = s.count (dieOf c) (s.partOf c k) 3 1) ∧
     (∀ n, s.condEffect c k false (.bar n) = s.modGang c k (fun g => { g with barPend := g.barPend &&& ~~~(1#16 <<< n) })) ∧
     s.condEffect c k false (.trapLine true) = s.modCore c (fun x => { x with trapLine := x.trapLine - 1 }) ∧
     s.condEffect c k false (.trapLine false) = s) ∧
  (∀ (s : State) (g : Gang) (a : Src) (l : Nat),
     s.canIssue g { ok := g.srcOk a && uniOnly a, reads := srcRegs false a } = true → g.active ≠ [] → l < 32 →
     (g.lane l).st ≠ .empty → (g.lane l).nest ≠ 0 → (∀ j < l, (g.lane j).st = .empty ∨ (g.lane j).nest = 0) →
       exec (.gpwait a) s = .next (s.traps { cause := 0x31, lane := l }))

/-- R31, R226 to R231, R242, R257 and R262: arrivals at barriers and posts to event lines, once the gang's earlier accesses
are performed at CREW scope, and no effect with no active lane. A lane that left a BARSYNC while it waited, and issues it
again after its phase has completed, arrives no more, whatever other lanes have done there meanwhile; where that is so of
every lane, the gang only goes on. That is the model's reading (log 75). R229 and R231: a pulse on an event line releases the
first of the gangs that wait on it, and with none waiting it adds one to the line's count, at most 65,535. -/
def Obligations.ArrivalsAndPosts : Prop :=
  (∀ (s : State) (g : Gang) (n m : BitVec 8) (a : Src) (line : BitVec 8),
     let c := s.cur.core
     let k := s.cur.slot
     let w := s.myCrew g
     let off := (g.rd a 0).toNat
     let x := leNat (w.spadBytes off 4)
     let sgP : Sig := { ok := g.srcOk a && uniOnly a && n.toNat ≤ 1, reads := srcRegs false a }
     let sgR : Sig := { ok := k ≠ privSlot && line.toNat ≤ 7 && m.toNat ≤ 8 &&
                          (n.toNat ≤ 10 || (16 ≤ n.toNat && n.toNat < 16 + w.nbars && n.toNat ≤ 31)) }
     let sgV : Sig := { ok := if k = privSlot then n.toNat = 0 else n.toNat ≤ 7 }
     (g.active = [] →
       ∀ f ∈ [(Instr.bararr n, barSig s n g), (.barsync n, barSig s n g), (.pbarr a n, sgP), (.evroute line n m, sgR),
         (.evpost n, sgV)], s.canIssue g f.2 = true → exec f.1 s = .next (s.ends f.2 (s.put g))) ∧
     (g.active ≠ [] →
       (s.canIssue g (barSig s n g) = true →
         (s.earlierDone g 1 = false → exec (.bararr n) s = .next s ∧ exec (.barsync n) s = .next s) ∧
         (s.earlierDone g 1 = true →
           exec (.bararr n) s = .next (s.ends (barSig s n g) (s.arriveBar g n.toNat)) ∧
           (∀ l, l ∈ s.lanesOver g n.toNat ↔ l ∈ g.active ∧ ∃ r ∈ g.resync, r.block = g.block ∧ r.slot = g.slot ∧ r.bar = n.toNat ∧
             r.lanes.getLsbD l = true ∧ r.ph ≠ (mget {} w.bars n.toNat).ph) ∧
           ((∀ l ∈ g.active, l ∈ s.lanesOver g n.toNat) →
             exec (.barsync n) s = .next (s.ends (barSig s n g) (s.put (g.passBar n.toNat (mget {} w.bars n.toNat).ph)))) ∧
           (¬ (∀ l ∈ g.active, l ∈ s.lanesOver g n.toNat) →
             let u := s.arriveBar (g.resynced n.toNat) n.toNat (s.lanesOver g n.toNat)
             ∃ h, u.gang? c k = some h ∧ exec (.barsync n) s = .next (if u.condHolds c k h (.bar n.toNat) then
                 s.ends (barSig s n g) ((u.put h).condEffect c k false (.bar n.toNat))
               else s.leaves (barSig s n g) (u.put (h.hold u (.bar n.toNat))))))) ∧
       (s.canIssue g sgP = true →
         (off % 4 ≠ 0 → exec (.pbarr a n) s =
           .next (s.traps { cause := 0x12, lane := g.active.headD 0, addr := BitVec.ofNat 64 off })) ∧
         (off % 4 = 0 → w.sc < off + 4 → exec (.pbarr a n) s =
           .next (s.traps { cause := 0x13, lane := g.active.headD 0, addr := BitVec.ofNat 64 off })) ∧
         (off % 4 = 0 → off + 4 ≤ w.sc → s.earlierDone g 1 = true →
           let ph := x / 2 ^ 31
           let exp := x / 2 ^ 16 % 2 ^ 15
           let cnt := x % 2 ^ 16 + (if n = 0#8 then g.active.length else 1)
           let y := if exp ≤ cnt then (1 - ph) * 2 ^ 31 + exp * 2 ^ 16 else ph * 2 ^ 31 + exp * 2 ^ 16 + min cnt 65535
           exec (.pbarr a n) s = .next (s.ends sgP (((s.put g).spadStep c g.crew (fun w => w.spadWrite off (leBytes 4 y))).count
             (dieOf c) (s.partOf c k) 3 1)))) ∧
       (s.canIssue g sgR = true →
         exec (.evroute line n m) s = .next (s.ends sgR ((s.put g).modCrew c g.crew (fun w =>
           let kept := if m = 0#8 then w.events
             else w.events.map (fun e => if e.2.sink = m.toNat ∧ e.1 ≠ line.toNat then (e.1, { e.2 with sink := 0 }) else e)
           let new : EvLine := { src := n.toNat, sink := m.toNat, cnt := 0 }
           { w with events := minsert kept line.toNat new })))) ∧
       (s.canIssue g sgV = true → s.earlierDone g 1 = true →
         exec (.evpost n) s = .next (s.ends sgV (if k = privSlot
           then (s.put g).modCore c (fun x => { x with trapLine := min (x.trapLine + 1) 65535 })
           else (s.put g).modCore c (fun x => x.eventAdd g.crew n.toNat)))))) ∧
  (∀ (x : Core) (crew e : Nat) (w : Crew), mfind x.crews crew = some w →
     let waiting := (x.gangsOf crew).filter (fun y => ! y.2.stopped && y.2.held.any (fun h => h.cond = .event e && ! h.met))
     let one : EvLine := { (mget {} w.events e : EvLine) with cnt := min ((mget {} w.events e).cnt + 1) 65535 }
     (waiting = [] → x.eventAdd crew e = x.setCrew crew { w with events := minsert w.events e one }) ∧
     (∀ k g rest, waiting = (k, g) :: rest →
       x.eventAdd crew e = x.setGang k { g with held := g.held.map (fun h => { h with met := true }) }))

/-- R31 and R175 to R182: a command whose descriptor passes its checks joins the end of its queue, and its counters rise; it
waits while the queue or a counter is full; the first failed check traps; and with no active lane nothing is posted. That the
checks rank as R177 lists them is the model's reading (log 108), and so are a range of no bytes and the extent that a scaled
tensor touches (log 69). R31, R198, R204, R205 and R359: a tile command with a legal descriptor that passes its memory checks,
once its translations are known, joins its queue; a strict ALD first reads the scale records, behind the gang's own stores to
them; AST and ADRAIN take the tile as it stands, and ADRAIN with CLR clears what it drains. That a scaled ALD decodes its
whole tensor is the model's reading (log 69). R88, R175 and R177: posting a command adds it behind the commands of its queue,
with its descriptor and mode as they stand; the gang's counter of the queue rises, and with a place on another node that of
path 11; and nothing else of the machine changes but the model's own count of identifiers. -/
def Obligations.CommandsJoinTheirQueue : Prop :=
  (∀ (s : State) (g : Gang) (q a n : BitVec 8) (b : Src),
     g.mayAccess = true →
     let ws := g.descWords a
     let sc := (s.myCrew g).sc
     let far := fun (x : BitVec 64) => ! s.ownNode x
     let joins := fun (i : Instr) (sg : Sig) (conds : List AddrCond) (x : ACmd) =>
       s.canIssue g sg = true →
         (g.active = [] → exec i s = .next (s.ends sg (s.put g))) ∧
         (∀ t, g.active ≠ [] → firstCond conds = some t → exec i s = .next (s.traps t)) ∧
         (g.active ≠ [] → firstCond conds = none → s.postWaits g q.toNat x.remote = true → exec i s = .next s) ∧
         (g.active ≠ [] → firstCond conds = none → s.postWaits g q.toNat x.remote = false →
           exec i s = .next (s.ends sg (s.postCommand g q.toNat x)))
     joins (.acpy q a n) (descSig q a 5 (fun _ => n.toNat ≤ 3) [] g)
       (sideCheck (n.getLsbD 0) sc (ws 5) 0 (wordAt (ws 5) 4) ++ sideCheck (n.getLsbD 1) sc (ws 5) 2 (wordAt (ws 5) 4))
       (command .copy n.toNat (ws 5)) ∧
     joins (.acpys q a n) (descSig q a 8 (fun _ => n.toNat ≤ 3) [] g)
       (rowsCheck (n.getLsbD 0) sc (ws 8) 0 6 ++ rowsCheck (n.getLsbD 1) sc (ws 8) 2 7) (command .copyRows n.toNat (ws 8)) ∧
     (∀ p ∈ [(Instr.agath q a b, ACmdKind.gather), (.ascat q a b, .scatter)],
       joins p.1 (descSig q a 5 (fun g => g.srcOk b) (srcRegs false b) g)
         (canonCheck (pairAt (ws 5) 0) ++ fieldCheck (decide (1 ≤ wordAt (ws 5) 2) && decide (wordAt (ws 5) 2 ≤ 65536)) ++ g.active.flatMap (fun l =>
           (spadCheck sc ((wordAt (ws 5) 4 + l * wordAt (ws 5) 2 : Nat) : Int) (wordAt (ws 5) 2)).map (fun x => (l, x.2))))
         { command p.2 0 (ws 5) with idx := g.active.map (fun l => (l, g.rd b l)) }) ∧
     (∀ p ∈ [(Instr.rput q a n, ACmdKind.rput), (.rget q a n, .rget)],
       joins p.1 (descSig q a 8 (fun _ => n.toNat ≤ 1) [] g)
         (sideCheck (n.getLsbD 0) sc (ws 8) 0 (wordAt (ws 8) 4) ++ cellCheck (pairAt (ws 8) 6) ++
           fieldCheck (wordAt (ws 8) 5 = 0))
         { command p.2 n.toNat (ws 8) with remote := far (pairAt (ws 8) 2) }) ∧
     joins (.ratom q a n) (descSig q a 10 (fun g => n.toNat ≤ 7 && atomicType n.toNat g.etype) [] g)
       (alignCheck (pairAt (ws 10) 0) g.z ++ cellCheck (pairAt (ws 10) 6) ++ cellCheck (pairAt (ws 10) 8))
       { command .ratom n.toNat (ws 10) with remote := far (pairAt (ws 10) 0) } ∧
     joins (.wsig q a n) (descSig q a 10 (fun _ => n.toNat ≤ 3) [] g)
       (sideCheck (n.getLsbD 0) sc (ws 10) 0 (wordAt (ws 10) 4) ++ cellCheck (pairAt (ws 10) 8) ++ alignCheck (pairAt (ws 10) 6) 8 ++
         (if n.getLsbD 1 then [] else canonCheck (pairAt (ws 10) 2) ++ canonCheck (pairAt (ws 10) 6)))
       { command .wsig n.toNat (ws 10) with remote := n.getLsbD 1 && (far (pairAt (ws 10) 2) || far (pairAt (ws 10) 6)) } ∧
     joins (.sigadd q a n) (descSig q a 6 (fun _ => n = 0#8 || n = 2#8) [] g)
       (alignCheck (pairAt (ws 6) 0) 8 ++ (if n.getLsbD 1 then [] else canonCheck (pairAt (ws 6) 0)) ++ cellCheck (pairAt (ws 6) 4))
       { command .sigadd n.toNat (ws 6) with remote := n.getLsbD 1 && far (pairAt (ws 6) 0) } ∧
     joins (.aqfence q a) { ok := q.toNat ≤ 7 } []
       { command .fence a.toNat [] with
         before := ((s.core s.cur.core).queues.filter (fun p => a.getLsbD p.1)).flatMap (fun p => p.2.map (·.id)) }) ∧
  (∀ (s y : State) (g : Gang) (d a n : BitVec 8),
     let t := tdescOf (g.t a.toNat)
     let w := s.myCrew g
     let ks := t.drained g.active
     let v := y.view g t
     let joins := fun (i : Instr) (ok legal strict : Bool) (q : Nat) (u : TUse) (x : ACmd) (f : Crew → Crew) =>
       let sg := tileCmdSig s d a ok g
       let recs := if strict && g.strict then v.records else []
       let trap := y.tdescTrap w (y.rootOf y.cur.core y.cur.slot) t u
       s.canIssue g sg = true →
         (g.active = [] → exec i s = .next (s.ends sg (s.put g))) ∧
         (g.active ≠ [] → t.space = 0 ∨ 128 < t.rows ∨ 128 < t.cols ∨ legal = false →
           exec i s = .next (s.traps { cause := 0x02 })) ∧
         (g.active ≠ [] → t.space ≠ 0 → t.rows ≤ 128 → t.cols ≤ 128 → legal = true →
          s.walksTo (t.pages (if strict && g.strict then t.whole else u.part)) y →
           (∀ e, trap = some e → exec i s = .next (s.traps e)) ∧
           (trap = none → w.tilesFree [d.toNat] = false ∨ y.postWaits g q false = true ∨ y.ownStoreIn g recs = true →
             exec i s = .next s) ∧
           (trap = none → w.tilesFree [d.toNat] = true → y.postWaits g q false = false → y.ownStoreIn g recs = false →
             (∀ z, y.readAll w.part recs = (z, .wait) → exec i s = .next (s.asked z)) ∧
             (∀ z e, y.readAll w.part recs = (z, .bad e) → exec i s = .next (s.ends sg ((z.put g).mismatch w.part y.cur.core e))) ∧
             (∀ z, y.readAll w.part recs = (z, .ready) →
               (strict = true → g.strict = true → y.strictBad v w.nbv = true → exec i s = .next (s.traps { cause := 0x21 })) ∧
               ((strict = true → g.strict = true → y.strictBad v w.nbv = false) →
                 exec i s = .next (s.ends sg ((z.postCommand g q { x with desc := g.t a.toNat, tileNo := d.toNat }).modCrew y.cur.core
                   g.crew f))))))
     g.mayAccess = true →
       joins (.ald d a n) (n.toNat ≤ 7) true true n.toNat
         { access := .asyncRead, spaces := [1, 2, 3], homes := false, part := if t.sc then t.whole else t.rowsOf g.active }
         (command .ald 0 []) (fun w => w.seize s.nextId [d.toNat]) ∧
       joins (.ast d a n) (n.toNat ≤ 7) (t.fmt = 12 && ! t.sc) false n.toNat
         { access := .asyncWrite, spaces := [1, 2], part := t.rowsOf g.active }
         { command .ast 0 [] with tile := w.capture d.toNat t } id ∧
       joins (.adrain d a n) (n.toNat / 32 = 0) true false (n.toNat % 8) { access := .asyncWrite, spaces := [1, 2], part := ks }
         { command .drain n.toNat [] with tile := w.capture d.toNat t }
         (fun w => if n.getLsbD 4 then { w with tiles := w.tiles.filter (fun e => ! (e.1 / 16384 = d.toNat &&
             decide (e.1 / 128 % 128 ∈ (if t.sc then (List.range t.rows).filter (fun i => blockRowOn g.active (i / 32)) else ks)) &&
             e.1 % 128 < t.cols)) }
           else w)) ∧
  (∀ (s : State) (g : Gang) (q : Nat) (x : ACmd),
     let c := s.cur.core
     let k := s.cur.slot
     let t := s.postCommand g q x
     (∃ y, mget [] (t.core c).queues q = mget [] (s.core c).queues q ++ [y] ∧ y.kind = x.kind ∧ y.words = x.words ∧
       y.mode = g.mode ∧ y.stage = x.stage ∧ y.seq = g.seq) ∧
     (∀ p, p ≠ q → mget [] (t.core c).queues p = mget [] (s.core c).queues p) ∧
     (∃ m n, t.core c = { s.core c with slots := m, queues := n }) ∧ (∀ j, j ≠ k → t.gang? c j = s.gang? c j) ∧
     (∃ h, t.gang? c k = some h ∧ h = { g with flights := h.flights } ∧
       ∀ p, h.count p = g.count p + (if p = 2 + q then 1 else 0) + (if x.remote = true ∧ p = 11 then 1 else 0)) ∧
     t = { s with cores := t.cores, nextId := s.nextId + 1 } ∧ (∀ d, d ≠ c → t.core d = s.core d))

/-! ### Tiles, the matrix engine, Trellis, readers and the privileged slot (R187 to R225, R236 to R242, R350 to R356) -/

/-- R31 and R190: TSET writes a tensor descriptor from four uniform registers when it is legal, and traps when it is not; TGET
reads one back; and with no active lane neither has an effect. R31, R192, R193, R359 and R389: TLDSC, once its translations
are known, reads one block and its scale record as one snapshot, from the L1 when it holds them whole and otherwise from their
home; TSTSC writes the lanes' bytes of the block, and the record, in one operation at their home; a block that the descriptor
does not have and a failed check of R191 trap, and with no active lane nothing happens. That a block with a store of the core
pending in it is read at the home is the model's reading (log 95), and so is which accesses R191 checks (log 29); the lane and
the address that a descriptor's trap names, and what the accesses count for, are its choices (logs 28 and 53). R31, R202,
R203, R207 and R208: ACLR clears the active lanes' rows, AWR writes and ARD reads eight columns of one row of each lane, RELA
gives tiles back, and ACQA grants the lowest tiles that the crew lacks, or none; a column group with its reserved bits set
traps, a tile that is in use is waited for, and with no active lane nothing happens. That ACQA refuses the privileged slot is
the model's choice (log 101). R31, R191, R196 to R200 and R359: a matrix instruction whose operands pass the checks of R197,
in their order, once their translations are known, and whose tiles are free enters its cluster's table, holds its tiles and
keeps the translations of its operands; nothing is computed yet. One whose operands need more than 1,024 translations traps
with cause 0x02. A strict one first reads its scale records, behind its gang's own stores to them. With no active lane nothing
happens. That the operands are judged as asynchronous reads is the model's reading (log 29); what counts as a page, what a
descriptor's trap names, and that memory conditions rank before the number of pages are its choices (logs 32, 28, 104). -/
def Obligations.TileAndMatrixInstructions : Prop :=
  (∀ (s : State) (g : Gang) (d : BitVec 8) (n : Nat),
     let x : BitVec 128 := g.u (n + 3) ++ g.u (n + 2) ++ g.u (n + 1) ++ g.u n
     let y := g.t d.toNat
     (let sg : Sig := { ok := g.tdescOk d && quadOk g n, reads := uniRegs n 4, writes := [tdescReg d], lat := some 4 }
      s.canIssue g sg = true →
       (g.active = [] → exec (.tset d (.uni n)) s = .next (s.ends sg (s.put g))) ∧
       (g.active ≠ [] → tdescLegal x = true → exec (.tset d (.uni n)) s = .next (s.ends sg (s.put (g.schedule 4 [(.t d.toNat, x)])))) ∧
       (g.active ≠ [] → tdescLegal x = false → exec (.tset d (.uni n)) s = .next (s.traps { cause := 0x02 }))) ∧
     (let sg : Sig := { ok := g.tdescOk d && quadOk g n, reads := [tdescReg d], writes := uniRegs n 4, lat := some 4 }
      s.canIssue g sg = true → exec (.tget (.uni n) d) s = .next (s.gives g sg (if g.active = [] then [] else
       [(.g n, (y.setWidth 32).setWidth 128), (.g (n + 1), ((y >>> 32).setWidth 32).setWidth 128),
         (.g (n + 2), ((y >>> 64).setWidth 32).setWidth 128), (.g (n + 3), ((y >>> 96).setWidth 32).setWidth 128)]) 0#32))) ∧
  (∀ (s y : State) (g : Gang) (a : BitVec 8) (b : Src) (n : Nat),
     let c := s.cur.core
     let root := s.rootOf c s.cur.slot
     let t := tdescOf (g.t a.toNat)
     let block := blockOf t (g.rd b 0)
     let sgL := blockSig g n a b false
     let sgS := blockSig g n a b true
     let useL := fun (k : Nat) => ({ access := .loadHbm, spaces := [1], part := [k] } : TUse)
     let useS := fun (k : Nat) => ({ access := .update, spaces := [1], part := [k] } : TUse)
     g.mayAccess = true →
     (s.canIssue g sgL = true →
       (g.active = [] → exec (.tldsc (.vec n) a b) s = .next (s.ends sgL (s.put g))) ∧
       (g.active ≠ [] → block = none → exec (.tldsc (.vec n) a b) s = .next (s.traps { cause := 0x02 })) ∧
       (∀ k tr, g.active ≠ [] → block = some (k, tr) → s.walksTo (t.pages [k]) y →
         (∀ x, y.tdescTrap (y.myCrew g) root t (useL k) = some x → exec (.tldsc (.vec n) a b) s = .next (s.traps x)) ∧
         (∀ p r slice, y.tdescTrap (y.myCrew g) root t (useL k) = none → g.count 0 < 63 →
           blockSpans (y.xlats c root (t.pages [k])) t k = some (p, r, slice) →
           let part := y.partOf c y.cur.slot
           let loc := fun (l : Nat) => (List.range 9).map (fun i => Loc.v (n + i) l)
           let rec_ := fun (u : State) (failed : Bool) (ps : List LoadPart) =>
             ({ id := u.nextId, slot := y.cur.slot, seq := g.seq, kind := .home, failed := failed, parts := ps } : LoadOp)
           let own := y.ownHomeOp p.addr 1024 || y.ownHomeOp r.addr 32
           (∀ x z, (y.core c).held p = some x → (y.core c).held r = some z → own = false →
             let bad := (y.core c).heldBad p <|> (y.core c).heldBad r
             let u := (match bad with
               | some q => y.mismatchAt part c (dieOf c, 2) q
               | none => y).count (dieOf c) part 3 ((unitsOf p.addr 1024 128).length + (unitsOf r.addr 32 128).length)
             exec (.tldsc (.vec n) a b) s = .next (s.ends sgL (u.bump.fileLoad g 0 (rec_ u bad.isSome (g.active.map (fun l =>
               { lane := l, locs := loc l, unit := 0, usize := 0, val := some (blockLane tr x z l) })))))) ∧
           ((y.core c).held p = none ∨ (y.core c).held r = none ∨ own = true →
             exec (.tldsc (.vec n) a b) s = .next (s.ends sgL ((y.bump.post .homeOp { y.opOf g 0 (.block tr g.active) slice [p, r] with
                 load := some y.nextId }).fileLoad g 0 (rec_ y false (g.active.map (fun l =>
               { lane := l, locs := loc l, unit := 0, usize := 0, val := none }))))))))) ∧
     (s.canIssue g sgS = true →
       (g.active = [] → exec (.tstsc (.vec n) a b) s = .next (s.ends sgS (s.put g))) ∧
       (g.active ≠ [] → block = none → exec (.tstsc (.vec n) a b) s = .next (s.traps { cause := 0x02 })) ∧
       (∀ k tr, g.active ≠ [] → block = some (k, tr) → s.walksTo (t.pages [k]) y →
         (∀ x, y.tdescTrap (y.myCrew g) root t (useS k) = some x → exec (.tstsc (.vec n) a b) s = .next (s.traps x)) ∧
         (∀ p r slice, y.tdescTrap (y.myCrew g) root t (useS k) = none → y.storesOut < 64 →
           blockSpans (y.xlats c root (t.pages [k])) t k = some (p, r, slice) →
           let byte := fun (l j : Nat) => BitVec.ofNat 8 ((g.v (n + j / 4) l).toNat / 2 ^ (8 * (j % 4)))
           let data := (List.range 1024).map (fun i => if tr then byte (i % 32) (i / 32) else byte (i / 32) (i % 32))
           let mask := (List.range 1024).map (fun i => decide ((if tr then i % 32 else i / 32) ∈ g.active))
           let words := (List.range 8).map (fun (l : Nat) => (g.cross (.vec (n + 8)) (l : Int)).toNat * 2 ^ (32 * l))
           let rec0 : BitVec 256 := BitVec.ofNat 256 (words.foldl (· + ·) 0 % 2 ^ 200)
           let record := if tr then swapRecord rec0 else rec0
           exec (.tstsc (.vec n) a b) s = .next (s.ends sgS ((y.put g).post .homeOp { y.opOf g 0 .bytes slice
             [{ p with data := data, mask := mask }, { r with data := leBytes 32 record.toNat }] with whole := true })))))) ∧
  (∀ (s : State) (g : Gang) (d m : BitVec 8) (a : Dst) (b : Src) (n r col : Nat),
     let c := s.cur.core
     let w := s.myCrew g
     let ts := tilesFrom d.toNat m.toNat
     let loads := fun (t : State) (kind : LoadKind) (parts : List LoadPart) => t.modCore c (fun x =>
       { x with loads := x.loads ++ [{ id := s.nextId, slot := s.cur.slot, seq := g.seq, kind := kind, parts := parts }] })
     let sgR : Sig := { ok := n % 8 = 0 && n + 7 < g.vcount && tileOk d && g.srcOk b && uniOnly b
                        tiles := w.holds d.toNat, reads := srcRegs false b, writes := (List.range 8).map (fun i => n + i) }
     let sgW : Sig := { ok := tileOk d && n % 8 = 0 && n + 7 < g.vcount && g.srcOk b && uniOnly b
                        tiles := w.holds d.toNat, reads := srcRegs false b ++ (List.range 8).map (fun i => n + i) }
     let sgQ : Sig := { ok := predOk d && g.dstOk a && 1 ≤ m.toNat && m.toNat ≤ 24, writes := predReg d :: dstRegs false a }
     (g.active = [] → ∀ f ∈ [(Instr.aclr d m, tileRangeSig s d m g), (.rela d m, tileRangeSig s d m g), (.ard (.vec n) d b, sgR),
         (.awr d (.vec n) b, sgW), (.acqa d a m, sgQ)], s.canIssue g f.2 = true → exec f.1 s = .next (s.ends f.2 (s.put g))) ∧
     (g.active ≠ [] →
     (s.canIssue g (tileRangeSig s d m g) = true → w.tilesFree ts = false →
       exec (.aclr d m) s = .next s ∧ exec (.rela d m) s = .next s) ∧
     (2 ^ 6 ≤ (g.rd b 0).toNat →
       (s.canIssue g sgR = true → exec (.ard (.vec n) d b) s = .next (s.traps { cause := 0x02 })) ∧
       (s.canIssue g sgW = true → exec (.awr d (.vec n) b) s = .next (s.traps { cause := 0x02 }))) ∧
     (s.canIssue g (tileRangeSig s d m g) = true → w.tilesFree ts = true →
       exec (.aclr d m) s = .next (s.ends (tileRangeSig s d m g) (s.startAcc g ts false (fun w =>
         let kept := w.tiles.filter (fun e => ! (decide (e.1 / 16384 ∈ ts) && decide (e.1 / 128 % 128 / 4 ∈ g.active)))
         { w with tiles := kept }))) ∧
       exec (.rela d m) s = .next (s.ends (tileRangeSig s d m g) (s.startAcc g ts true id))) ∧
     (accGroup (g.rd b 0) = some (r, col) → w.tilesFree [d.toNat] = false →
       (s.canIssue g sgR = true → exec (.ard (.vec n) d b) s = .next s) ∧
       (s.canIssue g sgW = true → exec (.awr d (.vec n) b) s = .next s)) ∧
     (accGroup (g.rd b 0) = some (r, col) → w.tilesFree [d.toNat] = true →
       (s.canIssue g sgR = true →
         let parts := g.active.map (fun l =>
           ({ lane := l, locs := (List.range 8).map (fun i => Loc.v (n + i) l), unit := 0, usize := 0
              val := some (BitVec.ofNat 512 (((List.range 8).map (fun i =>
                (w.acc d.toNat (4 * l + r) (8 * col + i)).toNat * 2 ^ (32 * i))).foldl (· + ·) 0)) } : LoadPart))
         exec (.ard (.vec n) d b) s = .next (s.ends sgR
           (loads (s.startAcc (g.claim false (parts.flatMap (·.locs))) [d.toNat] false id) .tile parts))) ∧
       (s.canIssue g sgW = true → exec (.awr d (.vec n) b) s = .next (s.ends sgW (s.startAcc g [d.toNat] false (fun w =>
         g.active.foldl (fun w l => (List.range 8).foldl (fun w i =>
           w.setAcc d.toNat (4 * l + r) (8 * col + i) (g.v (n + i) l)) w) w))))) ∧
     (s.canIssue g sgQ = true → (g.claims.filter (·.slot)).length < 8 →
       let ok := m.toNat ≤ (s.core c).freeTiles && w.tileCount + m.toNat ≤ 24 && s.cur.slot ≠ privSlot
       let new := if ok then ((List.range 24).filter (fun t => ! w.holds t)).take m.toNat else []
       let mask : Nat := (new.map (fun t => 2 ^ t)).foldl (· + ·) 0
       let part := fun (l : Nat) (locs : List Loc) (x : Nat) =>
         ({ lane := l, locs := locs, unit := 0, usize := 0, val := some (BitVec.ofNat 512 x) } : LoadPart)
       let parts := g.active.map (fun l => part l [.p d.toNat l] (if ok then 1 else 0)) ++ (match a with
         | .vec n => g.active.map (fun l => part l [.v n l] mask)
         | .uni n => [part 0 [.g n] mask]
         | _ => [])
       exec (.acqa d a m) s = .next (s.ends sgQ (loads (((s.put (g.claim true (parts.flatMap (·.locs)))).bump).modCrew c g.crew
         (fun w => { w with held := new.foldl (fun h t => h ||| (1#24 <<< t)) w.held })) .status parts))))) ∧
  (∀ (s y : State) (g : Gang) (d a m : BitVec 8) (b : Src) (v : Nat),
     g.mayAccess = true →
     let w := s.myCrew g
     let fw := g.rd b (g.active.headD 0)
     let f := fmtWord fw
     let t := tdescOf (g.t a.toNat)
     let enters := fun (i : Instr) (sg : Sig) (first : Option Nat) (e : MxEntry) (ds : List TDesc) (named : List Nat) =>
       let vas := ds.flatMap (fun d => d.pages d.whole)
       let c := y.cur.core
       let k := clusterOf c
       let root := y.rootOf c y.cur.slot
       let w := y.myCrew g
       let xl := y.xlats c root vas
       let recs := if g.strict then ds.flatMap (fun d => (y.view g d).records) else []
       let conds := ds.flatMap (fun d => y.tdescConds w root d { access := .asyncRead, host := false, part := d.whole })
       s.canIssue g sg = true →
         (g.active = [] → exec i s = .next (s.ends sg (s.put g))) ∧
         (∀ x, g.active ≠ [] → first = some x → exec i s = .next (s.traps { cause := x })) ∧
         (g.active ≠ [] → first = none → s.walksTo vas y →
           (∀ x, firstCond conds = some x → exec i s = .next (s.traps x)) ∧
           (firstCond conds = none → 1024 < xl.length → exec i s = .next (s.traps { cause := 0x02 })) ∧
           (firstCond conds = none → xl.length ≤ 1024 →
             (w.tilesFree named = false ∨ 32 ≤ (y.cme k).table.length ∨ y.ownStoreIn g recs = true → exec i s = .next s) ∧
             (w.tilesFree named = true → (y.cme k).table.length < 32 → y.ownStoreIn g recs = false →
               (∀ z, y.readAll w.part recs = (z, .wait) → exec i s = .next (s.asked z)) ∧
               (∀ z q, y.readAll w.part recs = (z, .bad q) → exec i s = .next (s.ends sg ((z.put g).mismatch w.part c q))) ∧
               (∀ z, y.readAll w.part recs = (z, .ready) →
                 (g.strict = true → ds.any (fun d => y.strictBad (y.view g d) w.nbv) = true →
                   exec i s = .next (s.traps { cause := 0x21 })) ∧
                 ((g.strict = true → ds.any (fun d => y.strictBad (y.view g d) w.nbv) = false) →
                   let u := (z.put g).bump.modCrew c g.crew (fun w => w.seize y.nextId named)
                   let new := { e with
                     id := y.nextId, core := c, slot := y.cur.slot, crew := g.crew, part := w.part, seq := g.seq, xlat := xl
                     place := w.slots.findIdx (· = y.cur.slot)
                     after := y.outstanding c y.cur.slot g.seq, active := maskOf g.active, sat := g.sat, strict := g.strict
                     prio := w.prio, since := y.clock, word := y.cur.word }
                   exec i s = .next (s.ends sg
                     { u with cmes := minsert u.cmes k { u.cme k with table := (u.cme k).table ++ [new] } }))))))
     (∀ x ∈ [(Instr.mma d a b, MxKind.mma, 2), (.mma2 d a b, .mma2, 4), (.mmat d a b, .mmat, 1)],
       let ds := (g.descs a.toNat x.2.2).map tdescOf
       let named := outTiles x.2.1 d.toNat ++ (if x.2.1 = .mmat then [f.src] else [])
       enters x.1
         { ok := tileOk d && g.srcOk b && a.toNat + x.2.2 ≤ 16 && a.toNat + x.2.2 ≤ g.tcount && (x.2.1 ≠ .mma2 || d.toNat % 4 = 0)
           tiles := w.holds d.toNat
           reads := srcRegs false b ++ (List.range x.2.2).map (fun i => 1024 + a.toNat + i) }
         (if (∃ l ∈ g.active, g.rd b l ≠ fw) ∨ 2 ≤ f.nbvc ∧ ¬ (f.nbvc = 3 ↔ w.nbv = true) then some 0x20
           else if productOk x.2.1 f ds = false then some 0x02
           else if named.all w.holds = false then some 0x22 else none)
         (mxEntry x.2.1 d.toNat fw (g.descs a.toNat x.2.2) []) ds named) ∧
     (let shape := fun (small : Bool) (depth : Nat) =>
        if t.space = 0 ∨ kStepOf t.fmt = none ∨ t.sc = true ∧ 10 ≤ t.fmt ∨ small = false ∨ depth = 0 then some 0x02 else none
      enters (.ttrans d a) { ok := tileOk d && g.tdescOk a && true, tiles := w.holds d.toNat, reads := [tdescReg a] }
       (shape (t.rows ≤ 128 && t.cols ≤ 128) t.cols) (mxEntry .ttrans d.toNat 0#32 [g.t a.toNat] []) [t] [d.toNat] ∧
      enters (.tperm d a (.vec v))
       { ok := tileOk d && g.tdescOk a && decide (v < g.vcount), tiles := w.holds d.toNat, reads := [tdescReg a, v] }
       (shape (t.rows ≤ 128 && t.cols ≤ 128) t.rows)
       (mxEntry .tperm d.toNat 0#32 [g.t a.toNat] (allLanes.foldl (fun q l => minsert q l (g.v v l)) [])) [t] [d.toNat] ∧
      enters (.trsum d a m) { ok := tileOk d && g.tdescOk a && decide (m.toNat ≤ 1), tiles := w.holds d.toNat, reads := [tdescReg a] }
       (shape ((if m.setWidth 32 = 0#32 then t.cols else t.rows) ≤ 128) (if m.setWidth 32 = 0#32 then t.rows else t.cols))
       (mxEntry .trsum d.toNat (m.setWidth 32) [g.t a.toNat] []) [t] [d.toNat]))

/-- R31 and R211 to R218: a Trellis instruction whose operands pass its checks and whose lanes hold the bindings that it needs
leaves for the die's Trellis unit, with its counter raised for its destinations; it waits while 63 are in flight; with no
active lane it only goes on; a parameter block that breaks its ranges traps with cause 0x02, and an image's address with its
own cause. The causes of an image's address are the model's reading (log 70). R212: an instruction that needs a bound sequence
traps with cause 0x30 in the lowest active lane that has none; SXMATCH and SXSAVE need that of their lowest active lane alone.
-/
def Obligations.TrellisInstructionsGoOut : Prop :=
  (∀ (s : State) (g : Gang) (d e : Dst) (p n : BitVec 8) (a b : Src) (m : Nat),
     let key := g.active.take 1
     let zero := fun (_ : Nat) => 0#32
     let block := (List.range 6).map (fun i => g.u (m + i))
     let bound := fun (ls : List Nat) => ∀ l ∈ ls, s.bound (g.lane l) = true
     let image := firstCond (alignCheck (g.rd64 a 0) 64 ++ canonCheck (g.rd64 a 0))
     let sends := fun (i : Instr) (sg : Sig) (p : Prop) (locs : List Loc) (t : TOp) =>
       s.canIssue g sg = true →
         (g.active = [] → exec i s = .next (s.ends sg (s.put g))) ∧
         (g.active ≠ [] → p →
           (g.count 10 < 63 → exec i s = .next (s.ends sg (s.sendTrellis g locs t))) ∧
           (63 ≤ g.count 10 → exec i s = .next s))
     let sgO : Sig := { ok := g.dstOk d && m % 2 = 0 && decide (m + 5 < g.ucount), reads := uniRegs m 6, writes := dstRegs false d }
     let sgS : Sig := { ok := g.src64Ok a && uniOnly a, reads := srcRegs true a }
     let sgL : Sig := { ok := g.dstOk d && g.src64Ok a && uniOnly a, reads := srcRegs true a, writes := dstRegs false d }
     sends (.sxopen d (.uni m) 0#8) sgO (paramsOk block = true) (dstLocs d false g.active)
       { trellisOp .opn (g.trellisArgs g.active zero zero) with words := block, dest := d } ∧
     (s.canIssue g sgO = true → g.active ≠ [] →
       let c := (block.getD 0 0#32).toNat
       let k := (block.getD 1 0#32).toNat
       c = 0 ∨ 2 ^ 20 < c ∨ k = 0 ∨ 64 < k ∨ block.getD 5 0#32 ≠ 0#32 →
         exec (.sxopen d (.uni m) 0#8) s = .next (s.traps { cause := 0x02 })) ∧
     sends (.sxopen d a 1#8)
       { ok := g.dstOk d && g.srcOk a && pathOk d [a], reads := srcRegs false a, writes := dstRegs false d } True
       (dstLocs d false g.active) { trellisOp .bind (g.active.map (fun l => (l, g.rd a l, 0#32, 0#32))) with dest := d } ∧
     sends (.sxappend p a b)
       { ok := predOk p && g.srcOk a && g.srcOk b, reads := srcRegs false a ++ srcRegs false b, writes := [predReg p] }
       (bound g.active) (g.active.map (fun l => Loc.p p.toNat l))
       { trellisOp .append (g.trellisArgs g.active (g.rd a) (g.rd b)) with pdst := p.toNat } ∧
     sends (.sxmatch d a e)
       { ok := g.dstOk d && dstVec d && g.srcOk a && uniOnly a && g.dstOk e && dstUni e
         reads := srcRegs false a, writes := dstRegs false d ++ dstRegs false e }
       (bound key) (dstLocs d false allLanes ++ dstLocs e false [])
       { trellisOp .matchOp (g.trellisArgs key (fun _ => g.rd a 0) zero) with dest := d, dest2 := e } ∧
     sends (.sxsave a) sgS (bound key ∧ image = none) []
       { trellisOp .save (g.trellisArgs key zero zero) with addr := g.rd64 a 0 } ∧
     sends (.sxload d a) sgL (image = none) (dstLocs d false g.active)
       { trellisOp .load (g.trellisArgs g.active zero zero) with addr := g.rd64 a 0, dest := d } ∧
     (∀ x, g.active ≠ [] → image = some x →
       (s.canIssue g sgS = true → bound key → exec (.sxsave a) s = .next (s.traps x)) ∧
       (s.canIssue g sgL = true → exec (.sxload d a) s = .next (s.traps x))) ∧
     sends (.sxstat d n) { ok := g.dstOk d && n.toNat ≤ 4, writes := dstRegs false d } (n = 0#8 ∨ bound g.active)
       (dstLocs d false g.active)
       { trellisOp (.stat n.toNat) (g.active.map (fun l =>
           (l, (g.lane l).handle, if (g.lane l).bindValid then 1#32 else 0#32, 0#32))) with dest := d } ∧
     sends (.sxclose n) { ok := n.toNat ≤ 1 } (n = 0#8 ∨ bound g.active) []
       (trellisOp (.close n.toNat) (g.trellisArgs g.active zero zero)) ∧
     sends (.sxdepth d a)
       { ok := g.dstOk d && g.srcOk a && pathOk d [a], reads := srcRegs false a, writes := dstRegs false d } (bound g.active)
       (dstLocs d false g.active) { trellisOp .depth (g.trellisArgs g.active (g.rd a) zero) with dest := d }) ∧
  (∀ (s : State) (g : Gang) (d e : Dst) (p n : BitVec 8) (a b : Src) (l : Nat),
     let traps := fun (i : Instr) (sg : Sig) =>
       s.canIssue g sg = true → exec i s = .next (s.traps { cause := 0x30, lane := l })
     l ∈ g.active → s.bound (g.lane l) = false → g.active.Pairwise (· < ·) →
     ((∀ j ∈ g.active, s.bound (g.lane j) = false → l ≤ j) →
       traps (.sxappend p a b)
         { ok := predOk p && g.srcOk a && g.srcOk b, reads := srcRegs false a ++ srcRegs false b, writes := [predReg p] } ∧
       traps (.sxdepth d a)
         { ok := g.dstOk d && g.srcOk a && pathOk d [a], reads := srcRegs false a, writes := dstRegs false d } ∧
       (n ≠ 0#8 →
         traps (.sxstat d n) { ok := g.dstOk d && n.toNat ≤ 4, writes := dstRegs false d } ∧
         traps (.sxclose n) { ok := n.toNat ≤ 1 })) ∧
     ((∀ j ∈ g.active, l ≤ j) →
       traps (.sxmatch d a e)
         { ok := g.dstOk d && dstVec d && g.srcOk a && uniOnly a && g.dstOk e && dstUni e
           reads := srcRegs false a, writes := dstRegs false d ++ dstRegs false e } ∧
       traps (.sxsave a) { ok := g.src64Ok a && uniOnly a, reads := srcRegs true a }))

/-- R220: RSENTER takes a hold of the crew's domain in the leaf for each lane that was in no section, and records its colour
and version; RSLEAVE leaves in increasing lane number; the depth stays within 1 to 15, or the instruction traps. R31, R222,
R223, R225, R339 and R359: PUBLISH, once its translation is known, goes to its home when the gang's earlier accesses are
performed at PACKAGE, and traps where its word is not in HBM; RETIRE and GPSTAT ask the Lodge, RETIRE with the Glasshouse
region whose start its block is, and RETIRE of no bytes or of an unknown kind traps; with no active lane each only goes on.
The causes of a PUBLISH and the region of a RETIRE are the model's reading (log 71). -/
def Obligations.ReadersAndRetirement : Prop :=
  (∀ (s : State) (g : Gang),
     let c := s.cur.core
     let sg : Sig := { ok := true, lat := some 4 }
     let w := s.myCrew g
     let leaf := mget {} (s.core c).leafs w.dom
     s.canIssue g sg = true →
     ((∀ l ∈ g.active, (g.lane l).nest ≠ 15) →
       exec .rsenter s = .next (s.ends sg ((s.put (g.modLanes g.active (fun x => x.enter leaf c))).modCore c (fun x =>
         let n := leaf.cnt leaf.colour + (g.active.filter (fun l => (g.lane l).nest = 0)).length
         { x with leafs := minsert x.leafs w.dom (leaf.setCnt leaf.colour n) })))) ∧
     ((∀ l ∈ g.active, (g.lane l).nest ≠ 0) →
       exec .rsleave s = .next (s.ends sg ((s.put g).leaveLanes c s.cur.slot w.dom w.part g.active))) ∧
     (∀ l ∈ g.active, g.active.Pairwise (· < ·) →
       ((g.lane l).nest = 15 → (∀ j ∈ g.active, (g.lane j).nest = 15 → l ≤ j) →
         exec .rsenter s = .next (s.traps { cause := 0x31, lane := l })) ∧
       ((g.lane l).nest = 0 → (∀ j ∈ g.active, (g.lane j).nest = 0 → l ≤ j) →
         exec .rsleave s = .next (s.traps { cause := 0x31, lane := l })))) ∧
  (∀ (s t : State) (g : Gang) (d : Dst) (x a : Src) (n : BitVec 8) (refs : List Ref),
     let c := s.cur.core
     let w := s.myCrew g
     let sgP : Sig := { ok := g.src64Ok x && uniOnly x && g.src64Ok a && uniOnly a, reads := srcRegs true x ++ srcRegs true a }
     let sgR : Sig := { ok := g.dstOk d && g.descOk n 4, reads := uniRegs (descBase n) 4, writes := dstRegs false d }
     let sgG : Sig := { ok := g.dstOk d && n.toNat ≤ 5, writes := dstRegs false d }
     let vas := [(g.active.headD 0, g.rd64 a 0)]
     let ws := g.descWords n 4
     let base := pairAt ws 0
     let full := d ≠ .none ∧ 8 ≤ (g.claims.filter (·.slot)).length
     (g.active = [] →
       (s.canIssue g sgP = true → g.mayAccess = true → exec (.publish x a) s = .next (s.ends sgP (s.put g))) ∧
       (s.canIssue g sgR = true → g.mayAccess = true → exec (.retire d n) s = .next (s.ends sgR (s.put g))) ∧
       (s.canIssue g sgG = true → exec (.gpstat d n) s = .next (s.ends sgG (s.put g)))) ∧
     (g.active ≠ [] →
       (s.canIssue g sgP = true → g.mayAccess = true → s.walksTo [g.rd64 a 0] t →
         (∀ y, t.resolve .update 8 vas = .error y →
           exec (.publish x a) s = .next (s.traps (if y.cause = 0x14 then { y with cause := 0x11 } else y))) ∧
         (t.resolve .update 8 vas = .ok refs →
           (t.earlierDone g 5 = false → exec (.publish x a) s = .next s) ∧
           (t.earlierDone g 5 = true →
             exec (.publish x a) s = .next (s.ends sgP ((t.put g).postAll (fun r u => u.opOf g r.lane
               (.publish (u.crew u.cur.core g.crew).dom) r.slice [r.span (leBytes 8 (g.rd64 x 0).toNat)]) .homeOp refs))))) ∧
       (s.canIssue g sgR = true → g.mayAccess = true →
         (ws.getD 2 0#32 = 0#32 ∨ 2 < (ws.getD 3 0#32).toNat → exec (.retire d n) s = .next (s.traps { cause := 0x02 })) ∧
         (ws.getD 2 0#32 ≠ 0#32 → (ws.getD 3 0#32).toNat ≤ 2 →
           (s.earlierDone g 5 = false ∨ full → exec (.retire d n) s = .next s) ∧
           (s.earlierDone g 5 = true → ¬ full → s.walksTo (if (ws.getD 3 0#32).toNat = 2 then [base] else []) t →
             let region := if (ws.getD 3 0#32).toNat ≠ 2 || ! canonical base then none
               else match t.translate c (t.rootOf c t.cur.slot) base with
                 | .ok y => t.regionStart (y.dpaOf (vaLow base))
                 | .error _ => none
             exec (.retire d n) s = .next (s.ends sgR ((t.expectStatus g d).bump.sendL (.retire c t.nextId (t.myCrew g).dom
               { ticket := 0#32, base := base, size := ws.getD 2 0#32, kind := (ws.getD 3 0#32).toNat, region := region })))))) ∧
       (s.canIssue g sgG = true →
         (full → exec (.gpstat d n) s = .next s) ∧
         (¬ full → exec (.gpstat d n) s =
           .next (s.ends sgG ((s.expectStatus g d).bump.sendL (.gpstat c s.nextId w.dom w.part n.toNat)))))))

/-- R31, R237, R239 and R241: in the privileged slot, ERET leaves the handler and goes to its target, TLBINV drops
translations of the core or of its die, and HALTC 1 and 2 stop and start the core's crew slots; with no active lane each only
goes on. An ERET whose target may not be entered traps with cause 0x03, before any other cause. Where ERET's lanes go is the
model's reading (log 73). R31 and R238: SLOTCFG on the crew gang of a slot: resume it, skip its recorded instruction and its
literals with that instruction's coded gap, kill its crew, stop its crew at the pre-emption point; a slot without a gang
changes nothing; and the ring base, kept as it is given, and the trap vector of the core; with no active lane each only goes
on. What a skip leaves of a wait, that the end of a killed crew awaits what it has out, that a new ring starts at its first
entry, and the causes of a trap vector, are the model's reading (log 74). -/
def Obligations.PrivilegedInstructions : Prop :=
  (∀ (s : State) (g : Gang) (a : Src) (n : BitVec 8),
     let c := s.cur.core
     let goals := g.goals (fun _ => regGoal 0#64 (g.rd a (g.active.headD 0)))
     let sgI : Sig := { ok := g.src64Ok a && uniOnly a && n.toNat ≤ 3, reads := srcRegs true a, priv := true }
     let sgH : Sig := { ok := true, priv := true }
     let va := vaLow (g.rd64 a 0)
     let die := dieOf c
     (g.active = [] →
       ∀ f ∈ [(Instr.eret a, eretSig s a g), (.tlbinv a n, sgI), (.haltcHaltCrews, sgH), (.haltcResumeCrews, sgH)],
         s.canIssue g f.2 = true → exec f.1 s = .next (s.ends f.2 (s.put g))) ∧
     (s.issuing = some g → s.cur.slot = privSlot → g.active ≠ [] → g.srcOk a = true → (eretSig s a g).waits g = false →
       s.seesHeads g (eretSig s a g) = true → ∀ l, closedLane s goals = some l → exec (.eret a) s = .next (s.traps { cause := 0x03, lane := l })) ∧
     (g.active ≠ [] →
       (s.canIssue g (eretSig s a g) = true →
         (∀ x, regGoal 0#64 (g.rd a (g.active.headD 0)) = .block x → exec (.eret a) s = .next (s.leaves (eretSig s a g)
           ((s.land c s.cur.slot ((g.park (goalOf goals)).frontier g.block g.exm (g.lanesIn .wait) false)).modCore c
             (fun x => { x with handler := false })))) ∧
         (∀ t, goalTrap s goals = some t → exec (.eret a) s = .next (s.traps t))) ∧
       (s.canIssue g sgI = true →
         (n = 0#8 ∨ n = 1#8 → exec (.tlbinv a n) s = .next (s.ends sgI ((s.put g).flushCore (n = 1#8) va c))) ∧
         (n = 2#8 ∨ n = 3#8 → exec (.tlbinv a n) s = .next (s.ends sgI ((List.range 40).foldl
           (fun (t : State) i => t.flushCore (n = 3#8) va (40 * die + i))
           { s.put g with dieTlbs := minsert s.dieTlbs die (dropTlb (n = 3#8) va (mget [] s.dieTlbs die)) })))) ∧
       (s.canIssue g sgH = true →
         exec .haltcHaltCrews s = .next (s.ends sgH ((s.put g).modCore c (fun x => { x with halted := true }))) ∧
         exec .haltcResumeCrews s = .next (s.ends sgH ((s.put g).modCore c (fun x => { x with halted := false })))))) ∧
  (∀ (s : State) (g : Gang) (a : Src),
     let c := s.cur.core
     let k := (g.rd a 0).toNat
     let t := s.put g
     let sg : Sig := { ok := g.srcOk a && uniOnly a, reads := srcRegs false a, priv := true }
     let sgB : Sig := { ok := g.src64Ok a && uniOnly a, reads := srcRegs true a, priv := true }
     let x := g.rd64 a 0
     let goals := [(0, regGoal 0#64 (g.rd a 0))]
     (g.active = [] →
       (s.canIssue g sg = true → ∀ i ∈ [Instr.slotcfgResume a, .slotcfgSkipResume a, .slotcfgKill a, .slotcfgStopCrew a,
         .slotcfgTrapVector a], exec i s = .next (s.ends sg t)) ∧
       (s.canIssue g sgB = true → exec (.slotcfgRingBase a) s = .next (s.ends sgB t))) ∧
     (g.active ≠ [] →
       (s.canIssue g sg = true →
         (64 ≤ k ∨ s.gang? c k = none → ∀ i ∈ [Instr.slotcfgResume a, .slotcfgSkipResume a, .slotcfgKill a, .slotcfgStopCrew a],
           exec i s = .next (s.ends sg t)) ∧
         (∀ h, k < 64 → s.gang? c k = some h →
           exec (.slotcfgResume a) s = .next (s.ends sg (
             if h.stopped = false then t
             else if h.faultStop then t.modCore c (fun x => x.modGangsOf h.crew (fun g => if g.faultStop then g.resumed else g))
             else t.modGang c k Gang.resumed)) ∧
           (h.stopped = false → exec (.slotcfgSkipResume a) s = .next (s.ends sg t)) ∧
           (h.stopped = true →
             let u := t.modGang c k (fun g => { (g.leaveWait s.clock).resumed with resync := g.resync })
             let w := t.wordsNow c k
             exec (.slotcfgSkipResume a) s = .next (s.ends sg
               (u.finish c k w.1 w.2.1 (latencyOf (Sys2Proof.fieldOp w.2.2).toNat)))) ∧
           exec (.slotcfgStopCrew a) s = .next (s.ends sg (t.modCore c (fun x => x.preempt h.crew s.clock (fun g => ! g.stopped)
             (fun g => { g with stopped := true, opStop := true })))) ∧
           exec (.slotcfgKill a) s = .next (s.ends sg (
             let mine := fun (e : MxEntry) => e.core = c && e.crew = h.crew && ! e.running && e.kdone = 0
             let m := t.cme (clusterOf c)
             let left : Cme := { m with table := m.table.filter (fun e => ! mine e) }
             let u : State := { t.dropCommands c h.crew with cmes := minsert t.cmes (clusterOf c) left }
             let u := (m.table.filter mine).foldl (fun (u : State) e => u.modCrew c h.crew (fun w => w.letGo e.id)) u
             ((u.modCore c (fun x => x.modGangsOf h.crew (fun g => { g with stopped := true }))).modCrew c h.crew
               (fun w => { w with killed := true })).settleKill c h.crew))) ∧
         (∀ b, goals = [(0, Goal.block b)] → s.mayEnter c s.cur.slot b = true → exec (.slotcfgTrapVector a) s =
           .next (s.ends sg (t.modCore c (fun k => { k with trapVec := b })))) ∧
         (∀ y, goalTrap s goals = some y → exec (.slotcfgTrapVector a) s = .next (s.traps y))) ∧
       (s.canIssue g sgB = true →
         (x.toNat % 8192 ≠ 0 → exec (.slotcfgRingBase a) s = .next (s.traps { cause := 0x02 })) ∧
         (x.toNat % 8192 = 0 → exec (.slotcfgRingBase a) s = .next (s.ends sgB (
           t.modCore c (fun k => { k with ringBase := x, ringIdx := 0 })))))))

/-- R31, R240 and R350 to R355: CTXST of a slot without a gang writes 1; of a crew's slot it stops the crew for saving, is
issued again while the save goes on, and writes 0 when the area has been written whole, giving back what the crew held; it
writes 1 for a save that containment has abandoned, and waits while a containment of the crew's partition stands. CTXLD checks
the area and its codes, writes 0xFFFFFFFF when the core lacks room, waits while the matrix table does (log 42, a deduction),
and otherwise restores the crew, clears MAGIC, and writes its slot; a crew of a partition that is being contained gets the
notice again (R393). With no active lane each only goes on. How a save goes on, the codes and the causes of a bad area, and
the pages of an area, are the model's reading (logs 32, 39, 43); what is kept beside an area, where that has no bytes for it,
is its choice (logs 38, 41). -/
def Obligations.SaveAndRestore : Prop :=
  ∀ (s t : State) (g : Gang) (d : Dst) (a b : Src),
    let c := s.cur.core
    let va := g.rd64 a 0
    let k := (g.rd b 0).toNat
    let sgS : Sig := { ok := g.dstOk d && g.src64Ok a && uniOnly a && g.srcOk b && uniOnly b
                       reads := srcRegs true a ++ srcRegs false b, writes := dstRegs false d, priv := true }
    let sgL : Sig := { ok := g.dstOk d && g.src64Ok a && uniOnly a, reads := srcRegs true a, writes := dstRegs false d, priv := true }
    let ws := fun (v : BitVec 32) => g.laneWrites d (fun _ => ([v], 0#32))
    let gives := fun (sg : Sig) (t : State) (v : BitVec 32) =>
      s.ends sg (t.put (((ws v).foldl (fun (g : Gang) w => g.write g.seq w) g).repack ((ws v).map (fun w => (w.1, g.whole)))))
    let pages := fun (n : Nat) => (pageCuts va n).map (·.1)
    let reads := fun (u : State) (n : Nat) (t : State) (spots : List Spot) (bs : List (BitVec 8)) =>
      u.walksTo (pages n) t ∧ t.areaSpots .loadHbm va n = .ok spots ∧
        (t.accessAll false spots).2 = true ∧ t.spotBad spots = none ∧ bs = spots.flatMap (fun p => t.bytes p.a p.n)
    (g.active = [] →
      (s.canIssue g sgS = true → exec (.ctxst d a b) s = .next (s.ends sgS (s.put g))) ∧
      (s.canIssue g sgL = true → exec (.ctxld d a) s = .next (s.ends sgL (s.put g)))) ∧
    (g.active ≠ [] → s.canIssue g sgS = true →
      let lost := g.seq ∈ (s.core c).saveLost
      (lost → exec (.ctxst d a b) s = .next
        (gives sgS (s.modCore c (fun x => { x with saveLost := x.saveLost.filter (· ≠ g.seq) })) 1#32)) ∧
      (¬ lost → (s.core c).savingOf k = none →
        (64 ≤ k ∨ s.gang? c k = none → exec (.ctxst d a b) s = .next (gives sgS s 1#32)) ∧
        (∀ h, k < 64 → s.gang? c k = some h →
          let n := (s.areaShape c h.crew).size
          let far := s.contained (s.crew c h.crew).part
          (far = true → exec (.ctxst d a b) s = .next s) ∧
          (far = false → s.walksTo (pages n) t →
            (∀ y, t.areaSpots .update va n = .error y → exec (.ctxst d a b) s = .next (s.traps y)) ∧
            (∀ spots, t.areaSpots .update va n = .ok spots →
              exec (.ctxst d a b) s = .next (s.leaves sgS
                ((t.beginSave c h.crew { spots := spots, id := t.nextId, seq := g.seq }).bump)))))) ∧
      (∀ n w v, ¬ lost → (s.core c).savingOf k = some (n, w, v) →
        let complete := w.parking = 4 ∧ s.settled (enginePort c) v.id = true
        (s.contained w.part = true → exec (.ctxst d a b) s = .next s) ∧
        (s.contained w.part = false → complete →
          exec (.ctxst d a b) s = .next (gives sgS (s.endSave c n) (if v.seq = g.seq then 0#32 else 1#32))) ∧
        (s.contained w.part = false → ¬ complete → exec (.ctxst d a b) s = .next (s.leaves sgS (s.saveStep c n v))))) ∧
    (g.active ≠ [] → s.canIssue g sgL = true →
      (s.walksTo (pages 256) t →
        (∀ y, t.areaSpots .loadHbm va 256 = .error y → exec (.ctxld d a) s = .next (s.traps y)) ∧
        (∀ spots, t.areaSpots .loadHbm va 256 = .ok spots →
          let h := t.accessAll false spots
          (h.2 = false → exec (.ctxld d a) s = .next (s.asked h.1)) ∧
          (∀ q, h.2 = true → t.spotBad spots = some q → exec (.ctxld d a) s =
            .next (s.leaves sgL ((t.mismatch 64 c q).takeTrap c t.cur.slot { cause := 0x02 }))))) ∧
      (∀ t1 spots1 head, reads s 256 t1 spots1 head →
        (areaHeadOk head = false → exec (.ctxld d a) s = .next (s.traps { cause := 0x02 })) ∧
        (∀ t2 spots2 recs, areaHeadOk head = true → reads t1 (256 + 2048 * fieldAt head 6 2) t2 spots2 recs →
          (areaShapeOk recs = false → exec (.ctxld d a) s = .next (s.traps { cause := 0x02 })) ∧
          (∀ spots bs, areaShapeOk recs = true → reads t2 (areaShapeOf recs).size t spots bs →
            let shape := areaShapeOf recs
            let part := fieldAt bs 28 1
            let demand : Demand := { vs := shape.vs, sc := shape.sc, bars := shape.bars, tiles := shape.tiles }
            let magic := clipSpots spots 4
            (areaCodesOk bs = false → exec (.ctxld d a) s = .next (s.traps { cause := 0x02 })) ∧
            (areaCodesOk bs = true → (t.core c).fits demand = none →
              exec (.ctxld d a) s = .next (gives sgL (t.servedAll spots) 0xFFFFFFFF#32)) ∧
            (∀ p, areaCodesOk bs = true → (t.core c).fits demand = some p →
              (32 < (t.cme (clusterOf c)).table.length + shape.mx → exec (.ctxld d a) s = .next s) ∧
              (∀ u, (t.cme (clusterOf c)).table.length + shape.mx ≤ 32 → (t.accessAll true magic).2 = true →
                (t.accessAll true magic).1.walked c part (areaEntryPages bs) = (u, .ready) →
                let u := ((u.restore c bs p).renotice c part).servedAll spots
                exec (.ctxld d a) s = .next (gives sgL (u.homeWrites (enginePort c) 0 magic (leBytes 4 0))
                  (BitVec.ofNat 32 (p.slots.headD 0)))))))))

/-! ### Events of a core, its queues and engines (R72, R75, R117, R185, R234, R243 to R268) -/

/-- R75, R359, R360, R389 and R390: BLOCK_FETCH, once what it reads of the tables and of the block has come, puts the gang's
block first in the L1 instruction store, with its translation, and TRANSLATION_WALK installs a translation; while a read is
held back they wait, and a sector that fails its check is taken up and nothing delivered; a block that is there, and a page
that has none, change nothing. That tables and code are read so is the model's reading (log 99). R117, R247, R248, R260 and
R261: a crew's gangs become ready; a bin's running fill is cut short when its timer expires; the oldest complete fill of a bin
starts as a fused gang in the lowest free slot of its crew; a retiring gang that is idle leaves its slot, and its crew ends
with the last one; a cleared scratchpad range is free. That the privileged slot is never left is the model's choice (log 82);
that a gang with a trap to take stays (log 79), and when what is left for a chain successor is kept and dropped (log 20), are
its reading. R243, R255, R257, R389 and R390: a held gang goes on when its condition holds, with its effect, and until then at
most asks for what its wait needs; a signal word that fails its check contains the crew's partition, and in the privileged
slot ends the wait, the model's choice (log 100); one that has starved waiting lanes for 4,096 clocks is left for them. The
clocks are the model's steps (log 4). R88, R89, R171, R201, R208, R277 and R286: a load whose elements have been served, an
atomic whose value has come, and a tile operation complete: results are written, counters and claims fall, tiles are let go;
one of which something is on its way to the core waits. R48, R156, R161, R166, R168, R171, R192 and R276: the value that each
load, atomic, STC and block load takes: the bytes of its element in the L1, in the line that a fill brings, or at its home as
its operation is applied, filled to a register as its type says; and its words are what the destination then holds. -/
def Obligations.CoreEvents : Prop :=
  (∀ (s : State) (g : Gang) (u : State),
     let c := s.arg.a
     let k := s.arg.b
     let w := s.crew c g.crew
     let va := BitVec.ofNat 64 s.arg.c
     s.gang? c k = some g →
     (s.fetched c k = true → exec .blockFetch s = .next s) ∧
     (s.fetched c k = false →
       let came := s.readAll w.part (s.headReads c k g.block)
       (came = (u, .wait) → exec .blockFetch s = .next u) ∧
       (∀ q, came = (u, .bad q) → exec .blockFetch s = .next (u.mismatch w.part c q)) ∧
       (∀ ws, came = (u, .ready) → s.block c k g.block = .ok ws →
         let t := if k = privSlot then u else u.install c w.part (w.codeBase + BitVec.ofNat 64 (64 * g.block))
         let key := s.blockKey c k g.block
         exec .blockFetch s = .next (t.modCore c (fun x => { x with l1i := (key :: x.l1i.filter (· ≠ key)).take 1024 })))) ∧
     (canonical va = true →
       let came := s.readAll k (s.tables c k va)
       (came = (u, .wait) → exec .translationWalk s = .next u) ∧
       (∀ q, came = (u, .bad q) → exec .translationWalk s = .next (u.mismatch k c q)) ∧
       (came = (u, .ready) → exec .translationWalk s = .next (u.install c k va))) ∧
     (∀ t, u.translate c k va = .ok t → t ∉ (u.core c).tlb →
       u.install c k va = { u.modCore c (fun x => { x with tlb := cacheTlb 2048 t x.tlb }) with
         dieTlbs := minsert u.dieTlbs (dieOf c) (cacheTlb 65536 t (mget [] u.dieTlbs (dieOf c))) }) ∧
     (∀ e, u.translate c k va = .error e → u.install c k va = u)) ∧
  (∀ (s : State),
     let c := s.arg.a
     let n := s.arg.b
     exec .gangReady s = .next (s.modCore c (fun x => x.modGangsOf n (fun g => { g with ready := true }))) ∧
     exec .scratchpadCleared s = .next (s.modCore c (fun x => { x with
       spads := x.spads.filter (fun p => ! (p.1 = n && ! p.2.2)) })) ∧
     (∀ g, s.gang? c n = some g →
       (n ≠ privSlot → g.retiring = true → g.idle = true → (s.core c).trapDue n = false →
         let t := ((s.keepChain c n g).forgetSlot c n).modCore c (fun x => { x with slots := merase x.slots n })
         exec .gangSlotRetire s = .next (if t.crewOver c g.crew then t.endCrew c g.crew else t)) ∧
       (n = privSlot ∨ g.retiring = false ∨ g.idle = false ∨ (s.core c).trapDue n = true →
         exec .gangSlotRetire s = .next s)) ∧
     (∀ b, mfind (s.crew c n).bins s.arg.c = some b →
       (s.fillDue c n b = true → exec .binTimerExpire s = .next (s.modCrew c n (fun w =>
         let cut : Bin := { b with fixed := b.fixed ++ [b.running] }
         { w with bins := minsert w.bins s.arg.c cut }))) ∧
       (s.fillDue c n b = false → exec .binTimerExpire s = .next s) ∧
       (∀ size more k, b.fixed = size :: more → (s.crew c n).isSaving = false →
         minNat ((s.crew c n).slots.filter (fun k => (s.gang? c k).isNone)) = some k →
         let left := { b with lanes := b.lanes.drop size, fixed := more }
         let bins := if left.lanes = [] then merase (s.crew c n).bins s.arg.c else minsert (s.crew c n).bins s.arg.c left
         exec .fillLaunch s = .next (((s.modCrew c n (fun w => { w with bins := bins })).dropChain c (s.crew c n)
           ((s.crew c n).slots.findIdx (· = k))).setGang c k (fusedGang (s.crew c n) b (b.lanes.take size)))))) ∧
  (∀ (s : State) (g : Gang) (h : Held),
     let c := s.arg.a
     let k := s.arg.b
     s.gang? c k = some g → g.held = some h → g.stopped = false → g.saving = false →
     (∀ q, s.waitBad c k h.cond = some q →
       let t := s.mismatch (s.partOf c k) c q
       (k ≠ privSlot → exec .waitConditionMet s = .next t) ∧
       (k = privSlot → exec .waitConditionMet s = .next ((t.setGang c k { g with held := none }).finish c k h.len h.stall none))) ∧
     (s.waitBad c k h.cond = none →
       (s.condHolds c k g h.cond = true → exec .waitConditionMet s =
         .next (((s.setGang c k { g with held := none, fc := g.fcNow s.clock }).condEffect c k h.met h.cond).finish c k h.len h.stall
           none)) ∧
       (s.condHolds c k g h.cond = false → ∃ d x, exec .waitConditionMet s = .next { s with dir := d, host := x })) ∧
     (h.cond.fair = true → h.met = false → 4096 ≤ g.fcNow s.clock → g.ec = 0 → g.resume = none → g.lanesIn .wait ≠ [] →
       let r : Resume := { block := g.block, slot := g.slot, lanes := maskOf g.exm }
       let g1 := { ((g.leaveWait s.clock).park (fun _ => g.block)) with resume := some r }
       let g2 := (g1.frontier g.block g.exm (g.lanesIn .wait) true).1
       exec .fairnessSwitch s = .next (s.setGang c k (match (g1.frontier g.block g.exm (g.lanesIn .wait) true).2 with
         | .to b at_ _ => g2.jump b at_
         | _ => g2))) ∧
     (g.fcNow s.clock < 4096 ∨ h.met = true ∨ g.ec ≠ 0 → exec .fairnessSwitch s = .next s)) ∧
  (∀ (s : State),
     let c := s.arg.a
     (∀ x, (s.core c).loads.find? (fun x => x.id = s.arg.b) = some x →
       let here := ∀ o ∈ s.ops, o.core = c → o.load = some x.id → o.gotV = true
       (x.done = true → here →
         (x.kind ≠ .atomic → x.kind ≠ .tile → exec .loadComplete s = .next (s.completeLoad c x)) ∧
         (x.kind = .atomic → exec .atomicReturn s = .next (s.completeLoad c x))) ∧
       (x.done = false ∨ ¬ here → exec .loadComplete s = .next s ∧ exec .atomicReturn s = .next s) ∧
       (x.failed = false → x.kind = .cached ∨ x.kind = .home → ∀ g, s.gang? c x.slot = some g →
         ∃ h, (s.completeLoad c x).gang? c x.slot = some h ∧ h.acquiring = g.acquiring.filter (· ≠ x.seq) ∧
           (s.completeLoad c x).mem = s.mem ∧ ∀ y ∈ ((s.completeLoad c x).core c).loads, y.id ≠ x.id)) ∧
     (∀ x w, (s.core c).accs.find? (fun x => x.id = s.arg.b) = some x → mfind (s.core c).crews x.crew = some w →
       let t := (s.modCore c (fun k => { k with accs := k.accs.filter (fun y => y.id ≠ x.id) })).modCrew c x.crew (fun w =>
         if x.release then
           let kept := x.tiles.foldl (fun h t => h &&& ~~~(1#24 <<< t)) w.held
           let data := w.tiles.filter (fun e => ! decide (e.1 / 16384 ∈ x.tiles))
           { w.letGo x.id with held := kept, tiles := data }
         else w.letGo x.id)
       exec .accumulatorManagementComplete s = .next (match (t.core c).loads.find? (fun y => y.id = x.id) with
         | some y => t.completeLoad c y
         | none => t))) ∧
  (∀ (s : State) (g : Gang) (p : LoadPart) (x : LoadOp),
     let value := fun (z : Nat) (signed : Bool) (bs : List (BitVec 8)) => BitVec.ofNat 512 (fillBits (8 * z) signed (leNat bs))
     (∀ r l id, s.ownHomeOp r.dpa p.z = false →
       (s.core s.cur.core).line? (r.tlb.unit r.dpa).1 (r.tlb.unit r.dpa).2 = some l →
         (s.loadPart g id false r p).2.val =
           some (value p.z p.signed (((l.bytes.drop (r.dpa - l.unit)).take p.z).map (·.1)))) ∧
     (∀ c m, p.awaits m.unit m.usize = true →
       (m.nocache = false ∨ x.id = m.op ∨ (x.id < m.upto ∧ ∀ f ∈ (s.core c).fills, f.2.2 ≠ x.id)) → s.youngStores c m.unit m.usize m.op x.id = [] →
       (s.servePart c m x p).val = some (value p.z p.signed (((m.bytes.drop (p.addr - m.unit)).take p.z).map (·.1)))) ∧
     (∀ key e m, m.kind = .fillReq → m.nocache = false → ∃ d ∈ (s.process key e m).net,
       d.kind = .fillData ∧ d.core = m.core ∧ d.op = m.op ∧ d.unit = m.unit ∧ d.bytes.map (·.1) = s.bytes m.unit m.usize) ∧
     (∀ o : MemOp, o.lost = false → (s.siblings o).findSome? (fun y => y.fails s) = none →
       x ∈ (s.core o.core).loads → o.load = some x.id → p ∈ x.parts → p.val = none →
       let back := fun (v : BitVec 512) => ∃ y ∈ ((s.applyOp o).core o.core).loads, y.id = x.id ∧
         ∃ q ∈ y.parts, q.lane = p.lane ∧ q.locs = p.locs ∧ q.val = some v
       (∀ op ty new, o.kind = .atomic op ty new → p.lane = o.lane → back (value p.z p.signed (s.bytes p.addr p.z))) ∧
       (∀ ls, o.kind = .read ls → p.lane ∈ ls → p.locs.length ≤ 2 → back (value p.z p.signed (s.bytes p.addr p.z))) ∧
       (∀ ls, o.kind = .read ls → p.lane ∈ ls → 2 < p.locs.length → back (BitVec.ofNat 512 (leNat (s.bytes p.addr p.z)))) ∧
       (∀ tr ls a b, o.kind = .block tr ls → o.spans = [a, b] → p.lane ∈ ls →
         back (blockLane tr (s.bytes a.addr 1024) (s.bytes b.addr 32) p.lane)) ∧
       (o.kind = .stc → p.lane = o.lane → back (if o.writes s = [] then 0#512 else 1#512))) ∧
     (∀ (c : Nat) (before after : List (Loc × BitVec 128)) (dest : Loc) (v : BitVec 128),
       s.gang? c x.slot = some g → g.Ordered → x.failed = false → x.parts.flatMap LoadPart.writes = before ++ (dest, v) :: after →
       (∀ w ∈ (dest, v) :: after, ∀ n l, w.1 = .v n l → l < 32) → dest ∈ g.owned x.seq → (∀ w ∈ after, w.1 ≠ dest) → ∃ h, (s.completeLoad c x).gang? c x.slot = some h ∧
         (∀ n l, dest = .v n l → h.v n l = v.setWidth 32) ∧ (∀ n, dest = .g n → h.u n = v.setWidth 32) ∧
         (∀ n l, dest = .p n l → n ≠ 0 → l < 32 → h.pred n l = v.getLsbD 0)) ∧
     (∀ i, i < p.locs.length →
       p.writes[i]? = p.locs[i]?.map (fun dest => (dest, (((p.val.getD 0) >>> (32 * i)).setWidth 32).setWidth 128))))

/-- R175 to R185, R233 and R234: a queue's head command starts when its conditions hold, goes on through its engine, completes
once its writes are performed, and is resumed after a serviced fault; a command's error becomes a trap of its gang, in order;
the oldest trap record is written to the ring when the next entry is free, with the pulse of the trap line. When a command's
words stand at a stage of its engine (logs 26, 69), and that an entry's address is translated as its record is written (log
74), are the model's reading; that a bad entry is logged and replaced whole is its choice (log 100). R178, R179 and R181: the
ranges that a copy, a gather, a scatter and the payload of a WSIG move, in order; a piece of a range leaves at its destination
the bytes of its source, and where the destination lies less than the piece ahead of the source, those of one byte after
another; it changes no other byte; what is moved into the scratchpad or a tile stands there once the command completes. How
far a piece goes is the model's choice (log 26), and when the scratchpad takes its bytes is its reading (log 69). R181: the
signal of a WSIG whose payload has gone well, and that of a SIGADD, add to the 64-bit word at their address, in one step, and
change no other byte; a command that has met an error adds nothing. R204 to R206: each block of a drain to memory is written
as one step: the rows that the lanes own of an unscaled destination, every element from the captured tile, with what the
destination holds added where ADD is set, rounded to the format of the destination; it leaves its bytes where the descriptor's
rows lie, and no other byte changes. -/
def Obligations.CommandEvents : Prop :=
  (∀ (s : State),
     let c := s.arg.a
     let q := s.arg.b
     (∀ a, s.headCmd c q = some a → a.suspended = false → a.await = false →
       (a.stage = 0 → s.mayStart c q a = true →
         let u := s.modCrew c a.crew (fun w => match w.gateLine q with
           | some e =>
             let l : EvLine := mget {} w.events e
             let line := { l with cnt := l.cnt - 1 }
             { w with events := minsert w.events e line }
           | none => w)
         let r := if a.kind = .fence then (u, { a with stage := 4 }) else u.engineGo c q { a with stage := 1, todo := a.segs }
         exec .asyncCommandStart s = .next (r.1.setHead c q r.2)) ∧
       (a.stage = 0 → s.mayStart c q a = false → exec .asyncCommandStart s = .next s) ∧
       (a.stage = 1 ∨ a.stage = 5 → exec .asyncCommandStart s = .next ((s.engineGo c q a).1.setHead c q (s.engineGo c q a).2)) ∧
       (s.settled (enginePort c) a.id = true → a.stage = 2 ∨ a.stage = 3 →
         exec .asyncCommandComplete s = .next ((s.engineGo c q a).1.setHead c q (s.engineGo c q a).2)) ∧
       (s.settled (enginePort c) a.id = true → a.stage = 4 → a.todo = [] →
         exec .asyncCommandComplete s = .next (s.endCommand c q a)) ∧
       (s.settled (enginePort c) a.id = false → exec .asyncCommandComplete s = .next s)) ∧
     (∀ a, s.headCmd c q = some a → q < 8 →
       (a.suspended = false → exec .engineFaultResume s = .next s) ∧
       (a.suspended = true →
         let r := s.engineGo c q { a with suspended := false }
         exec .engineFaultResume s = .next (if r.2.suspended then s else r.1.setHead c q r.2))) ∧
     (∀ x g, (s.core c).asyncQ[q]? = some x → (∀ y ∈ (s.core c).asyncQ.take q, y.gang ≠ x.gang) →
       let u := s.modCore c (fun k => { k with asyncQ := (s.core c).asyncQ.take q ++ (s.core c).asyncQ.drop (q + 1) })
       u.gang? c x.gang = some g →
       let r := { u.trapRecord c x.gang g { cause := x.cause, lane := x.lane, addr := x.addr, info := x.info } true 0#32 with
         desc := x.desc }
       let v := u.modCore c (fun k => { k with trapQ := k.trapQ ++ [r] })
       (x.gang ≠ privSlot → exec .asyncTrap s = .next (v.modGang c x.gang (fun g => { g with stopped := true }))) ∧
       (x.gang = privSlot → exec .asyncTrap s = .next (v.enterHandler c))) ∧
     (∀ r rest t, (s.core c).trapQ = r :: rest →
       let va := (s.core c).ringBase + BitVec.ofNat 64 (32 * (s.core c).ringIdx)
       let came := s.walked c privSlot [va]
       (came = (t, .wait) → exec .trapRecordWrite s = .next t) ∧
       (∀ q, came = (t, .bad q) → exec .trapRecordWrite s = .next (t.mismatch 64 c q)) ∧
       (came = (t, .ready) →
         let x := t.ringSpot c
         let g := t.accessBoth x
         (∀ e, t.translate c privSlot va = .ok e → x = e.spot (e.dpaOf (vaLow va)) 32) ∧
         (g.2 = false → exec .trapRecordWrite s = .next g.1) ∧
         (g.2 = true → g.1.rangeOk x.a 32 = true → (g.1.byte (x.a + 28)).getLsbD 0 = true →
           exec .trapRecordWrite s = .next g.1) ∧
         (g.2 = true → g.1.rangeOk x.a 32 = false ∨ (g.1.byte (x.a + 28)).getLsbD 0 = false →
           let u := match g.1.spotBad [x] with
             | some q => g.1.mismatch 64 c q
             | none => g.1
           let u := (u.homeWrite (enginePort c) 0 x.a (r.bytes c)).1
           let u := (u.modCore c (fun k =>
             let next := (k.ringIdx + 1) % 256
             { k with trapQ := rest, ringIdx := next })).trapPulse c
           exec .trapRecordWrite s = .next (if r.cause = 0x10 then u.postChore 1 [c, r.slotno] else u))))) ∧
  ((∀ (a : ACmd),
     let ws := a.words
     let side := fun (bit i : Nat) (d : Int) =>
       if a.flags / 2 ^ bit % 2 = 1 then Place.spad ((((ws.getD i 0#32).toNat : Int) + d) % 2 ^ 32).toNat
       else Place.mem (pairAt ws i + BitVec.ofInt 64 d)
     let n := (ws.getD 4 0#32).toNat
     let row := fun (l : Nat) => Place.mem (pairAt ws 0 +
       BitVec.ofInt 64 (((mget 0#32 a.idx l).toNat : Int) * (ws.getD 3 0#32).toInt))
     let r := (ws.getD 2 0#32).toNat
     (a.kind = .copy → a.segs = [{ src := side 0 0 0, dst := side 1 2 0, n := n }]) ∧
     (a.kind = .copyRows → a.segs.length = (ws.getD 5 0#32).toNat ∧ ∀ i < (ws.getD 5 0#32).toNat,
       a.segs[i]? = some { src := side 0 0 (i * (ws.getD 6 0#32).toInt), dst := side 1 2 (i * (ws.getD 7 0#32).toInt), n := n }) ∧
     (a.kind = .gather → a.segs = (mkeys a.idx).map (fun l => { src := row l, dst := .spad (n + l * r), n := r })) ∧
     (a.kind = .scatter → a.segs = (mkeys a.idx).map (fun l => { src := .spad (n + l * r), dst := row l, n := r })) ∧
     (a.kind = .wsig → a.flags / 2 % 2 = 0 → a.segs = [{ src := side 0 0 0, dst := .mem (pairAt ws 2), n := n }])) ∧
   (∀ (s t : State) (c k : Nat) (a b : ACmd) (g : Seg), s.Inv → 0 < g.n → s.moveSome c a g = (t, b, .done, k) →
     0 < k ∧ k ≤ g.n ∧ ∃ u src dst ps,
       s.engineWalk c a (g.src.pages g.n ++ (g.dst.pages g.n).take 1) = (u, .done) ∧
       u.spotOf c a false g.src = .ok src ∧ u.spotOf c a true g.dst = .ok dst ∧
       (let gap := if src.kind = dst.kind ∧ src.at_ < dst.at_ then min k (dst.at_ - src.at_) else k
        let data := ps.flatMap (fun (p : Stand × Nat) => s.readSpot c a p.1 p.2)
        let byte := fun (i : Nat) => data.getD (i % max data.length 1) 0#8
        u.spotsOf c a g.src gap = .ok ps ∧
        (dst.kind = 0 → b = a ∧ ∀ x, t.byte x = if dst.at_ ≤ x ∧ x < dst.at_ + k then byte (x - dst.at_) else s.byte x) ∧
        (dst.kind ≠ 0 → ∀ x, t.byte x = s.byte x) ∧
        (dst.kind = 1 → ∀ x, mfind b.out x = if dst.at_ ≤ x ∧ x < dst.at_ + k then some (byte (x - dst.at_)) else mfind a.out x)) ∧
       (∀ rest m, a.todo = g :: rest → s.moveAll c a (m + 1) =
         t.moveAll c { b with todo := { src := g.src.plus k, dst := g.dst.plus k, n := g.n - k } :: rest } m)) ∧
   (∀ (s : State) (c q off m n : Nat) (a : ACmd) (w : Crew), mfind (s.core c).crews a.crew = some w → w.killed = false → a.err = none →
     msorted a.out = true → msorted w.spad = true → msorted a.tile = true → msorted w.tiles = true → (∀ p ∈ a.tile, p.1 < 16384) →
     let t := s.endCommand c q a
     (a.kind ≠ .drain → a.kind ≠ .ast → (t.crew c a.crew).spadByte off = (mfind a.out off).getD (w.spadByte off)) ∧
     (a.kind = .ald → m < 128 → n < 128 →
       (t.crew c a.crew).acc a.tileNo m n = (mfind a.tile (128 * m + n)).getD (w.acc a.tileNo m n)))) ∧
  (∀ (s u v : State) (c q dpa : Nat) (a : ACmd) (x : Tlb),
     let addr := pairAt a.words (if a.kind = .wsig then 6 else 0)
     let inc : BitVec 64 := if a.kind = .wsig then (a.words.getD 5 0#32).setWidth 64 else pairAt a.words 2
     (a.status ≠ 0 ∨ a.err ≠ none ∨ (a.kind ≠ .wsig ∧ a.kind ≠ .sigadd) → s.signalAdd c q a = (s, { a with stage := 3 })) ∧
     (s.Inv → a.kind = .wsig ∨ a.kind = .sigadd → a.status = 0 → a.err = none → a.flags / 2 % 2 = 0 →
       s.engineWalk c a [addr] = (u, .done) → u.checkAddr c a.part .asyncWrite addr 8 = .ok (dpa, x) →
       u.accessBoth (x.spot dpa 8) a.part = (v, true) → s.rangeOk dpa 8 = true →
         (s.signalAdd c q a).2 = { a with stage := 3 } ∧
         (s.signalAdd c q a).1.word64 dpa = s.word64 dpa + inc ∧
         ∀ y, y < dpa ∨ dpa + 8 ≤ y → (s.signalAdd c q a).1.byte y = s.byte y)) ∧
  ((∀ (s : State) (a : ACmd) (v : TView) (b : Nat × Nat), v.d.sc = false →
     let w := min 32 (v.d.cols - b.2)
     let add := a.kind = .drain ∧ a.flags / 8 % 2 = 1
     let rnd := a.mode.toNat / 4096 % 8
     let fp32 := fun (i j : Nat) =>
       let x := (mget 0#32 a.tile (128 * i + b.2 + j)).toNat
       if add then (roundToFP32 (sumV 0 [fmtFP32.value x, (s.telem v a.nbv i (b.2 + j)).1]).1 0).1
       else if a.kind = .drain ∧ (fmtFP32.value x).isNan = true then 0x7FC00000 else x
     let bits := fun (i j : Nat) =>
       if v.d.fmt = 12 then fp32 i j
       else (convertTo v.d.fmt (fmtFP32.value (fp32 i j)) (.mode (if rnd = 5 then 0 else rnd)) (a.mode.getLsbD 15)).1
     (s.drainBlock a v b).1 = ((v.d.rowsOf a.lanes).filter (fun i => b.1 ≤ i && i < b.1 + 32)).map (fun i =>
       (v.d.rowAt i + BitVec.ofNat 64 (b.2 * v.d.z), (List.range w).flatMap (fun j => leBytes v.d.z (bits i j))))) ∧
   (∀ (s t : State) (c : Nat) (a b : ACmd) (blk : Nat × Nat), s.Inv → s.drainStep c a blk = (t, b, .done) →
     b.done = a.done + 1 ∧ ∃ u, s.engineWalk c a ((tdescOf a.desc).pages (a.blockPart blk)) = (u, .done) ∧
       (let v := u.cmdView c a (a.blockPart blk)
        let cells := blockCells v (u.drainBlock a v blk).1
        (∀ x, (∀ p ∈ cells, x < p.1.a ∨ p.1.a + p.2.length ≤ x) → t.byte x = s.byte x) ∧
        (cells.Pairwise (fun p q => p.1.a + p.2.length ≤ q.1.a ∨ q.1.a + q.2.length ≤ p.1.a) →
          ∀ p ∈ cells, ∀ i < p.2.length, t.byte (p.1.a + i) = p.2.getD i 0#8))))

/-- R199, R201, R265 to R268 and R390: a free quarter takes the ready entry of the highest effective priority, the earliest of
equals; a pass whose reads are served writes its tiles, and the last pass of an entry releases them, gives the flags to its
gang and sends the pulse; one whose entry has a sector still to be read that does not match its check value ends the entry
with no further effect, logged and contained. When a pass reads its operands is the model's choice (log 53 for the accesses
that it counts). R66, R67, R69, R196 and R200: what a pass leaves in the tiles. Each output element of an owned row takes,
block by block of 32 elements of the depth (16 under NBV = 0), the exact sum of the block's products added to it and rounded
to FP32, a product with a zero constant being no term; but in a first pass that overwrites, it starts from the element as it
stood. Nothing else of the crew changes. X is a stored operand, the converted source tile, or the constant matrix of a
structure operation. R215: what SXMATCH delivers. Of the largest length class for which the index holds an occurrence of the
last tokens that the history confirms, the latest occurrence p is taken; MLEN is how far the match goes back, at most 64, and
0 below the record's minimum; the tokens that followed it, at most d_req and at most 32, go to the lanes in order, every other
lane taking 0xFFFFFFFF, and the second destination takes MLEN and their number. With no class, nothing is delivered. The
record stays as it was. R211, R214, R217 to R219: a Trellis operation takes effect when it arrives, in order, the appends of
an instruction a lane at a time; one that finds a sequence closed that it still needs traps with cause 0x30; it completes with
its results, bindings, counter and pulse, a save once its image has been written; and a suspended image transfer goes on. That
each append is a step of its own is the model's reading (log 70). -/
def Obligations.MatrixAndTrellisEvents : Prop :=
  (∀ (s : State),
     let k := s.arg.a
     let m := s.cme k
     (∀ e q, m.table.find? (fun x => s.mxReady x && ((m.table.filter s.mxReady).all (fun y => y.rank s.clock ≤ x.rank s.clock))) = some e →
       (∀ p < q, mfind m.quarters p ≠ none) → q < 4 → mfind m.quarters q = none →
         let t : Cme :=
           { table := m.table.map (fun (x : MxEntry) => if x.id = e.id then { x with running := true } else x)
             quarters := minsert m.quarters q e.id }
         exec .passGrant s = .next { s with cmes := minsert s.cmes k t }) ∧
     ((∀ e ∈ m.table, s.mxReady e = false) → exec .passGrant s = .next s) ∧
     (∀ id e w, mfind m.quarters s.arg.b = some id → m.table.find? (fun e => e.id = id) = some e →
       mfind (s.core e.core).crews e.crew = some w →
       let u : State := { s with cmes := minsert s.cmes k { m with quarters := merase m.quarters s.arg.b } }
       let came := u.readAll e.part (s.passSpots e)
       let lost := fun (t : State) (q : Nat) =>
         (((t.dropEntry k id).modCrew e.core e.crew (fun w => w.letGo id)).mismatch e.part e.core q).settleKill e.core e.crew
       (∀ t, came = (t, .wait) → exec .passComplete s = .next (s.asked t)) ∧
       (∀ t q, came = (t, .bad q) → exec .passComplete s = .next (lost t q)) ∧
       (∀ t, came = (t, .ready) →
         (∀ q, s.spotBad (s.depthSpots e e.kdone e.extent.k) = some q → exec .passComplete s = .next (lost u q)) ∧
         (s.spotBad (s.depthSpots e e.kdone e.extent.k) = none →
           let r := t.pass e
           let v := (t.modCrew e.core e.crew (fun _ => r.1)).count (dieOf e.core) e.part 0 e.steps
           (e.extent.k ≤ e.kdone + e.extent.span →
             let x := ((v.dropEntry k id).modCrew e.core e.crew (fun w => w.letGo id)).pulse e.core e.crew 1
             let x := x.modGang e.core e.slot (fun g => if g.crew = e.crew then g.setFlags (e.flags ||| r.2) else g)
             exec .passComplete s = .next (x.settleKill e.core e.crew)) ∧
           (e.kdone + e.extent.span < e.extent.k →
             let n := v.cme k
             let w : Cme := { n with table := n.table.map (fun (y : MxEntry) => if y.id = id then
               { y with kdone := y.kdone + e.extent.span, flags := y.flags ||| r.2, running := false, since := v.clock } else y) }
             exec .passComplete s = .next { v with cmes := minsert v.cmes k w })))) ∧
     (mfind m.quarters s.arg.b = none → exec .passComplete s = .next s)) ∧
  (∀ (s : State) (e : MxEntry),
     let x := e.extent
     let w := s.crew e.core e.crew
     let k0 := e.kdone
     let k1 := min x.k (k0 + x.span)
     let depth := if w.nbv then 32 else 16
     let f := fmtWord e.fw
     let rows := ((allLanes.filter (fun l => e.active.getLsbD l)).flatMap (fun l => [4 * l, 4 * l + 1, 4 * l + 2, 4 * l + 3])).filter (· < x.m)
     let term := fun (xi yi m n k : Nat) => (s.xElem e xi m k).map (fun a => (a.1.mul (s.opnd e yi e.ytrans k n).1).1)
     let block := fun (xi yi m n b : Nat) =>
       (List.range (min k1 (b + depth) - b)).filterMap (fun i => term xi yi m n (b + i))
     let add := fun (acc : Option Nat) (ps : List FVal) =>
       if ps = [] then acc
       else
         let sum := (sumV 0 ps).1
         some (roundToFP32 (match acc with
           | none => sum
           | some a => (sumV 0 [fmtFP32.value a, sum]).1) (if w.nbv then 0 else 1)).1
     let value := fun (o : Nat × Nat × Nat) (m n : Nat) =>
       let start := if x.fresh ∧ k0 = 0 then none else some (w.acc o.1 m n).toNat
       let blocks := (List.range ((k1 - k0 + depth - 1) / depth)).map (fun b => k0 + depth * b)
       BitVec.ofNat 32 ((blocks.foldl (fun acc b => add acc (block o.2.1 o.2.2 m n b)) start).getD 0)
     let places := x.outs.flatMap (fun o => rows.flatMap (fun m => (List.range x.n).map (fun n => (o, m, n))))
     (s.pass e).1 = places.foldl (fun (u : Crew) p => u.setAcc p.1.1 p.2.1 p.2.2 (value p.1 p.2.1 p.2.2)) w ∧
     (∀ xi m k,
       (e.kind = .mma ∨ e.kind = .mma2 → s.xElem e xi m k = some (s.opnd e xi f.ta m k)) ∧
       (e.kind = .mmat → (s.xElem e xi m k).map (·.1) = some (elementValue f.afmt (roundTo ((fmtOf f.afmt).getD fmtFP32)
         (fmtFP32.value (w.acc f.src (if f.ta then k else m) (if f.ta then m else k)).toNat) (.mode 0) e.sat).1)) ∧
       (e.kind = .ttrans → (s.xElem e xi m k).map (·.1) = if m = k then some (.fin false 1 0 false) else none) ∧
       (e.kind = .tperm → (s.xElem e xi m k).map (·.1) =
         if ((mget 0#32 e.idx (m / 4)).toNat / 2 ^ (8 * (m % 4))) % 256 = k then some (.fin false 1 0 false) else none) ∧
       (e.kind = .trsum → (s.xElem e xi m k).map (·.1) = some (.fin false 1 0 false)))) ∧
  (∀ (s : State) (t : TOp) (l : Nat) (h dreq y : BitVec 32) (rest : List (Nat × BitVec 32 × BitVec 32 × BitVec 32)) (r : TRec),
     let gives := fun (m d : Nat) (f : Nat → BitVec 32) =>
       s.trellisEffect t = (s, { t with
         arrived := true
         writes := trellisWrites t.dest (allLanes.map (fun k => (k, if k < d then f k else 0xFFFFFFFF#32))) ++
           trellisWrites t.dest2 [(0, BitVec.ofNat 32 (m + 256 * d))] })
     t.kind = .matchOp → t.args = (l, h, dreq, y) :: rest → t.done = 0 → (∀ a ∈ t.args, s.record? a.2.1 ≠ none) →
     s.record? h = some r →
     ((∀ len ∈ trellisClasses, r.candidates len = []) → gives 0 0 (fun _ => 0#32)) ∧
     (∀ len p m, len ∈ trellisClasses → p ∈ r.candidates len → (∀ q ∈ r.candidates len, q ≤ p) →
       (∀ n ∈ trellisClasses, len < n → r.candidates n = []) →
       m ≤ 64 → (∀ i < m, r.lo + i ≤ p ∧ r.tok (p - i) = r.tok (r.n - 1 - i)) →
       (m = 64 ∨ p < r.lo + m ∨ r.tok (p - m) ≠ r.tok (r.n - 1 - m)) →
       let mlen := if m < r.minl then 0 else m
       let d := if mlen = 0 then 0 else min (min dreq.toNat 32) (r.n - p - 1)
       gives mlen d (fun k => r.tok (p + 1 + k))) ∧
     (∀ len p, p ∈ r.candidates len ↔ len ≤ min r.n r.cap ∧ p ∈ mget [] r.index (r.bucket len (r.n - 1)) ∧ p < r.n - 1 ∧
       r.lo + len ≤ p + 1 ∧ ∀ i < len, r.tok (p - i) = r.tok (r.n - 1 - i))) ∧
  (∀ (s : State) (t : TOp),
     (s.tops[s.arg.a]? = some t →
       (s.mayArrive s.arg.a t = true → exec .trellisArrival s = .next ((s.trellisEffect t).1.setTop (s.trellisEffect t).2)) ∧
       (s.mayArrive s.arg.a t = false → exec .trellisArrival s = .next s) ∧
       (t.arrived = true → t.suspended = false →
         (t.done < t.bytes.length → exec .trellisComplete s =
           .next ((s.saveOn t).1.setTop (s.saveOn t).2)) ∧
         (t.bytes.length ≤ t.done → s.settled (enginePort t.core) t.id = true →
           exec .trellisComplete s = .next (s.endTrellis t))) ∧
       (t.arrived = false → exec .trellisComplete s = .next s)) ∧
     (∀ a, (t.needs.drop t.done).find? (fun a => (s.record? a.2).isNone) = some a →
       s.trellisEffect t = (s, { t with arrived := true, trap := some (0x30, a.1) })) ∧
     (∀ l h tok pos r, t.kind = .append → t.args[t.done]? = some (l, h, tok, pos) → s.record? h = some r →
       (∀ a ∈ t.args.drop t.done, s.record? a.2.1 ≠ none) →
         let x := r.append tok pos
         s.trellisEffect t = (s.setRecord h x.2, { t with
           done := t.done + 1, writes := t.writes ++ [(.p t.pdst l, if x.1 then 1#32 else 0#32)]
           arrived := decide (t.args.length ≤ t.done + 1) })) ∧
     (8 ≤ s.arg.b → s.tops[s.arg.b - 8]? = some t → t.suspended = true →
       let u := { t with suspended := false }
       let r := if t.arrived then s.saveOn u else s.trellisEffect u
       exec .engineFaultResume s = .next (if r.2.suspended then s else r.1.setTop r.2)))

/-! ### Coherent memory and readers (R174, R220 to R225, R285 to R290, R329 to R336) -/

/-- R157, R276, R287, R288: a request that may arrive (none earlier of its core, slice and direction is under way) joins the
queue of its line at the home slice, and a store to a Glasshouse region is applied at its bank; an eviction notice ends a CCTL
of op 0, joins the queue of an entry not being evicted, and takes its core out of it in its turn; a CCTL of op 1 on a line
with no entry is acknowledged at once; an acknowledgement is taken off what still waits for it. R12, R174, R288, R364 and
R365: a request that finds its line absent makes an entry, whose line is fetched once the slice of 1.5 MiB has room: a line of
HBM unless its page is in host bias, one of host memory in PCIe mode for a request that reads it; in its turn, a fill request
makes its core a target, one of a PREF with k = 1 reaches no core, and a store or a home operation is applied. Which lines
wait for room is the model's choice (log 87). R288, R320, R364 and R365: a slice starts to evict an entry that is neither
leaving nor fetched nor waiting for room; a write-back frees its entry, and a fetched line lets what waits go on, with one
transfer of HBM for each half; a line of host memory comes with the host's bytes; a completed zero-length read takes the
posted writes before it. Victims and the counting are the model's choice (logs 25, 53), as is the reading of that read (91).
R193, R206 and R287 to R290: a fill serves the loads that wait for it, ends the core's requests for it (of an uncached line
the one that asked), and, but for such a line and one that is held, is put in the L1, whose oldest line leaves a full one,
with a notice; what an operation read at its home ends that operation; an update changes the words of a held line that no
younger store pends on, each word whole (log 22, a deduction), and is acknowledged, those of a block as one; an invalidate
drops the line, and is acknowledged; ACK_D performs the operation at die scope, ACK_P ends it and its pending marks, and
CCTL_ACK ends a write-back. -/
def Obligations.CoherenceEvents : Prop :=
  (∀ (s t : State) (m : Msg),
     let k := s.arg.a
     let key := dirKey m.unit m.usize
     (s.deliver k [.fillReq] = some (m, t) → exec .fillRequest s = .next (t.enqueue m)) ∧
     (∀ o, s.deliver k [.store] = some (m, t) → t.ops.find? (fun o => o.id = m.op) = some o →
       ((∀ x ∈ o.spans, targetOf x.addr = .glass) → exec .storeArrival s = .next (t.applyOp o)) ∧
       ((∃ x ∈ o.spans, targetOf x.addr ≠ .glass) → exec .storeArrival s = .next (t.enqueue m))) ∧
     (s.deliver k [.homeOp] = some (m, t) → exec .homeOperationArrival s = .next (t.enqueue m)) ∧
     (s.deliver k [.evict] = some (m, t) →
       let u : State := { t with ops := t.ops.filter (fun o => o.id ≠ m.op) }
       (∀ e, t.entry? key = some e → e.st ≠ .evicting → exec .evictionNotice s = .next (u.enqueue m)) ∧
       (∀ e, t.entry? key = some e → e.st = .evicting → exec .evictionNotice s = .next u) ∧
       (t.entry? key = none → exec .evictionNotice s = .next u)) ∧
     (∀ e, m.kind = .evict → s.process key e m = s.setEntry key (e.drop m.core)) ∧
     (s.deliver k [.cctl] = some (m, t) →
       (∀ e, t.entry? key = some e → exec .cctlRequestArrival s = .next (t.enqueue m)) ∧
       (t.entry? key = none → exec .cctlRequestArrival s = .next (t.ackCctls key m.slice [m.op]))) ∧
     (s.deliver k [.ackUpdate, .ackInval] = some (m, t) →
       (m.kind = .ackUpdate → exec .updateAckArrival s =
         let x := 256 * m.unit + m.core
         .next ((t.modOp m.op (fun o => { o with waitD := o.waitD.erase x, waitP := o.waitP.erase x })).acks m.op)) ∧
       (m.kind = .ackInval → ∀ e, t.entry? key = some e → exec .updateAckArrival s =
         let e := { e with waitInv := e.waitInv.erase m.core }
         .next ((t.setEntry key e).evictDone key e).pumped)) ∧
     (s.deliver k [.fillReq] = none → exec .fillRequest s = .next s) ∧
     (s.deliver k [.store] = none → exec .storeArrival s = .next s) ∧
     (s.deliver k [.homeOp] = none → exec .homeOperationArrival s = .next s)) ∧
  (∀ (s : State) (m : Msg) (key : Nat) (e : DirEntry),
     let a := keyUnit key
     let held := (s.dir.filter (fun (e : Nat × DirEntry) => e.2.slice = m.slice && ! e.2.waitRoom)).map (fun e => keySize e.1)
     let room := s.uncached a || decide (held.foldl (· + ·) 0 + keySize key ≤ 1572864)
     (s.msgHomes m = [(key, m.slice)] → s.entry? key = none →
       (s.allocate m).entry? key = some { usize := keySize key, slice := m.slice, part := m.part, waitRoom := ! room
                                          fetching := room && s.backed (s.reads m) a }) ∧
     (targetOf a = .hbm → s.backed (s.reads m) a = ! s.hostBiased a) ∧
     (targetOf a = .host → s.lodge.cxl = false → s.backed (s.reads m) a = s.reads m) ∧
     (m.kind = .fillReq → m.nocache = true →
       (s.process key e m).net = s.net ∧ (s.process key e m).cores = s.cores ∧ (s.process key e m).mem = s.mem ∧
         ∀ x, x.2.want = false → (x ∈ (s.process key e m).dir ↔ x ∈ s.dir)) ∧
     (m.kind = .fillReq → m.nocache = false → s.uncached m.unit = false →
       (s.process key e m).entry? key = some (e.add m.core) ∧ (s.process key e m).cores = s.cores) ∧
     (m.kind = .store ∨ m.kind = .homeOp → ∀ o, s.ops.find? (fun o => o.id = m.op) = some o →
       ∃ t : State, t.mem = s.mem ∧ t.cores = s.cores ∧ t.net = s.net ∧ (∀ x, x.2.want = false → (x ∈ t.dir ↔ x ∈ s.dir)) ∧
         s.process key e m = t.applyOp o)) ∧
  (∀ (s : State) (e : DirEntry),
     let key := s.arg.a
     (s.arg.flag = true → exec .lineFetchReturn s =
       let left := s.host.posted.drop s.arg.b
       .next { s with host := { s.host with posted := left } }) ∧
     (s.entry? key = some e →
       (e.st ≠ .evicting → e.fetching = false → e.waitRoom = false → ∀ x, (s.evict key e false).entry? key = some x →
         exec .l2VictimSelection s = .next ((s.evict key e false).evictDone key x).pumped) ∧
       (e.st = .evicting ∨ e.fetching = true ∨ e.waitRoom = true → exec .l2VictimSelection s = .next s) ∧
       (e.writeBack = true → exec .writeBackComplete s =
         .next ((s.count (homeOf (keyUnit key)).1 e.soiler 1 e.dirty.length).freeEntry key e).pumped) ∧
       (e.writeBack = false → exec .writeBackComplete s = .next s) ∧
       (s.arg.flag = false → e.fetching = true →
         (targetOf (keyUnit key) = .host → s.arg.bytes.length = keySize key → exec .lineFetchReturn s =
           .next ((s.ingress (keyUnit key) s.arg.bytes).setEntry key { e with fetching := false }).pumped) ∧
         (targetOf (keyUnit key) = .hbm → exec .lineFetchReturn s =
           .next ((s.count (homeOf (keyUnit key)).1 e.part 1 (if keySize key = 32 then 1 else 2)).setEntry key { e with fetching := false }).pumped)) ∧
       (s.arg.flag = false → e.fetching = false → exec .lineFetchReturn s = .next s))) ∧
  (∀ (s t : State) (m : Msg),
     let k := s.arg.a
     let c := m.core
     (s.deliver k [.fillData] = some (m, t) → m.usize = 0 →
       exec .fillData s = .next { t with ops := t.ops.filter (fun o => o.id ≠ m.op) }) ∧
     (s.deliver k [.fillData] = some (m, t) → m.usize ≠ 0 → m.nocache = true →
       exec .fillData s = .next ((t.serveFill c m).modCore c (fun x =>
         { x with fills := x.fills.filter (fun f => ! (f.1 = m.unit && f.2.1 = m.usize && f.2.2 = m.op)) }))) ∧
     (s.deliver k [.fillData] = some (m, t) → m.usize ≠ 0 → m.nocache = false →
       let u := (t.serveFill c m).modCore c (fun x =>
         { x with fills := x.fills.filter (fun f => ! (f.1 = m.unit && f.2.1 = m.usize)) })
       (∀ l, (u.core c).line? m.unit m.usize = some l → exec .fillData s = .next u) ∧
       ((u.core c).line? m.unit m.usize = none →
       let os := u.youngStores c m.unit m.usize m.op u.nextId
       let l : L1Line :=
         { unit := m.unit, usize := m.usize, home := m.slice, bytes := overlay m.unit m.bytes os
           pend := os.flatMap (fun o => o.spans.map (fun x => (o.id, x.addr, x.data.length))), bad := m.bad }
       ((u.core c).l1.length < 1024 →
         exec .fillData s = .next (u.modCore c (fun x => { x with l1 := x.l1 ++ [l] }))) ∧
       (∀ old rest, (u.core c).l1 = old :: rest → 1024 ≤ (u.core c).l1.length →
         exec .fillData s = .next ((u.sendM { kind := .evict, core := c, slice := old.home, unit := old.unit, usize := old.usize }).modCore c
           (fun x => { x with l1 := x.l1.drop 1 ++ [l] }))))) ∧
     (s.deliver k [.update] = some (m, t) → m.usize ≠ 0 →
       let take := fun (t : State) (m : Msg) =>
         let u := match (t.core m.core).line? m.unit m.usize with
           | some l => t.modCore m.core (fun x => x.setLine (l.update m))
           | none => t
         if u.ops.any (fun o => o.id = m.op && o.core = m.core) then u
         else u.sendM { kind := .ackUpdate, core := m.core, slice := m.slice, unit := m.unit, usize := m.usize, op := m.op }
       (t.ops.any (fun o => o.id = m.op && o.whole) = false → exec .update s = .next (take t m)) ∧
       (t.ops.any (fun o => o.id = m.op && o.whole) = true → exec .update s =
         .next ((t.net.filter m.together).foldl take (take { t with net := t.net.filter (fun n => ! m.together n) } m)))) ∧
     (∀ (l : L1Line) (i : Nat), i < l.bytes.length → i < m.bytes.length →
       (l.update m).bytes[i]? = if ∀ p ∈ l.pend, p.1 ∈ m.behind ∨ ¬ (p.2.1 < (l.unit + i) / 4 * 4 + 4 ∧ (l.unit + i) / 4 * 4 < p.2.1 + p.2.2)
         then m.bytes[i]? else l.bytes[i]?) ∧
     (s.deliver k [.update] = some (m, t) → m.usize = 0 → exec .update s = .next (t.modOp m.op (fun o => { o with gotV := true }))) ∧
     (s.deliver k [.inval] = some (m, t) →
       exec .invalidate s = .next ((t.modCore c (fun x => x.dropLine m.unit m.usize)).sendM
         { kind := .ackInval, core := c, slice := m.slice, unit := m.unit, usize := m.usize })) ∧
     (s.deliver k [.ackD] = some (m, t) → exec .ackD s = .next (t.modOp m.op (fun o => { o with gotD := true }))) ∧
     (s.deliver k [.ackP] = some (m, t) →
       let u := t.modCore c (fun x =>
         { x with l1 := x.l1.map (fun (l : L1Line) => { l with pend := l.pend.filter (fun p => p.1 ≠ m.op) }) })
       exec .ackP s = .next { u with ops := u.ops.filter (fun o => o.id ≠ m.op) }) ∧
     (s.deliver k [.cctlAck] = some (m, t) →
       exec .cctlAck s = .next { t with ops := t.ops.filter (fun o => o.id ≠ m.op) }))

/-- R222, R223, R335: a retired entry gets the next ticket and queues behind its domain's, which begins a grace period when
none runs; a version notice raises the domain's version and tells every die; a flip or a version reaches all leaves of a die.
R331, R335 and R336: a die is quiet when its forty leaves are, and the domain when its four dies are and no hold of the old
colour is parked; the period then ends, its entries are freed in order, each with its record in the free list, the completion
word when there is one, and word of its ticket to every core. What each step of freeing waits for is the model's reading (log
72). R225, R242, R332 to R334: the root parks the holds of a crew that is being saved, when it has an entry free; the leaf
gives them up, and their lanes record the entry; holds are released where they stand; stale reads are counted; GPSTAT is
answered; a chore's pulse raises the trap line. -/
def Obligations.ReaderEvents : Prop :=
  (∀ (s t : State) (c id d die : Nat) (e : Retired) (colour : Bool) (v : BitVec 32),
     let k := s.arg.a
     (s.takeL k = some (.retire c id d e, t) →
       exec .retireArrival s = .next ((t.queueRetire d e).1.giveStatus c id (t.queueRetire d e).2)) ∧
     (s.takeL k = some (.version d, t) →
       let n := (t.dom d).version + 1
       exec .versionNoticeArrival s = .next ((List.range 4).foldl (fun s die => s.sendL (.newVersion die d n))
         (t.setDom d { t.dom d with version := n }))) ∧
     (s.takeL k = some (.flip die d colour, t) →
       exec .flipArrival s = .next ((t.modLodge (fun l => { l with aggs := minsert l.aggs (4 * d + die) [] })).modLeafs die d
         (fun x => { x with colour := colour, quiet := false }))) ∧
     (s.takeL k = some (.newVersion die d v, t) →
       exec .flipArrival s = .next (t.modLeafs die d (fun x => { x with version := v }))) ∧
     (s.takeL k = none → exec .retireArrival s = .next s ∧ exec .versionNoticeArrival s = .next s ∧ exec .flipArrival s = .next s)) ∧
  (∀ (s t : State) (c d die : Nat) (f : BitVec 32),
     let k := s.arg.a
     (s.takeL k = some (.leafQuiet c d, t) →
       let cs := mget [] t.lodge.aggs (4 * d + dieOf c)
       let cs := if c ∈ cs then cs else cs ++ [c]
       let u := t.modLodge (fun l => { l with aggs := minsert l.aggs (4 * d + dieOf c) cs })
       exec .leafQuietReport s = .next (if 40 ≤ cs.length then u.sendL (.aggQuiet (dieOf c) d) else u)) ∧
     (s.takeL k = some (.aggQuiet die d, t) →
       exec .aggregatorQuietArrival s = .next (t.setDom d { t.dom d with
         quiet := if die ∈ (t.dom d).quiet then (t.dom d).quiet else (t.dom d).quiet ++ [die] })) ∧
     (let x := s.dom k
      (s.periodOver k = true →
        let u := s.setDom k { x with freeing := x.freeing ++ x.covered, covered := [], run := false }
        exec .gracePeriodEnd s = .next (if x.waiting = [] then u else u.flipDom k)) ∧
      (s.periodOver k = false → exec .gracePeriodEnd s = .next s)) ∧
     (∀ e rest, (s.dom k).freeing = e :: rest → s.settled lodgePort (domSeq k) = true →
       let x := s.dom k
       let slot := x.flist.toNat * 64 + 32 * (x.count % 4096)
       let took := s.access true { a := slot, n := 32 }
       let word := s.access true { a := x.cword.toNat, n := 8 }
       (x.step = 0 → e.region = none →
         (took.2 = false → exec .entryFree s = .next took.1) ∧
         (took.2 = true →
           exec .entryFree s = .next ((took.1.lodgeWrite (domSeq k) slot e.entry).setDom k { x with step := 1 }))) ∧
       (x.step = 0 → ∀ r g, e.region = some r → mfind s.lodge.regions r = some g →
         (g.bcnt ≠ 0 → exec .entryFree s = .next s) ∧
         (g.bcnt = 0 → took.2 = false → exec .entryFree s = .next took.1) ∧
         (g.bcnt = 0 → took.2 = true →
           let u := took.1.modLodge (fun l =>
             let freed := { g with state := 1 }
             { l with regions := minsert l.regions r freed })
           exec .entryFree s = .next ((u.lodgeWrite (domSeq k) slot e.entry).setDom k { x with step := 1 }))) ∧
       (x.step = 1 → x.cword = 0#64 → exec .entryFree s = .next (s.entryFreed k { x with freed := e.ticket } e rest)) ∧
       (x.step = 1 → x.cword ≠ 0#64 → word.2 = false → exec .entryFree s = .next word.1) ∧
       (x.step = 1 → x.cword ≠ 0#64 → word.2 = true →
         exec .entryFree s = .next ((word.1.lodgeWrite (domSeq k) x.cword.toNat (leBytes 8 e.ticket.toNat)).setDom k
           { x with freed := e.ticket, step := 2 })) ∧
       (x.step = 2 → exec .entryFree s = .next (s.entryFreed k x e rest))) ∧
     (s.takeL k = some (.freed c d f, t) →
       exec .freedArrival s = .next (t.modCore c (fun x => { x with freed := mput 0#32 x.freed d f })))) ∧
  (∀ (s t : State) (c n d part n0 n1 i id q : Nat) (colour : Bool) (entry : Option Nat),
     let k := s.arg.a
     (s.takeL k = some (.park c n d part n0 n1, t) →
       ((∀ j < i, mfind t.lodge.parked j ≠ none) → i < 4096 → mfind t.lodge.parked i = none →
         let e : Parked := { dom := d, part := part, cnt1 := n1, cnt0 := n0 }
         exec .parkRequestArrival s = .next ((t.modLodge (fun l => { l with parked := minsert l.parked i e })).sendL
           (.parkAck c n d n0 n1 (some i)))) ∧
       ((∀ j < 4096, mfind t.lodge.parked j ≠ none) →
         exec .parkRequestArrival s = .next (t.sendL (.parkAck c n d n0 n1 none)))) ∧
     (s.takeL k = some (.parkAck c n d n0 n1 entry, t) →
       ((t.crew c n).parking = 1 →
         let moved := fun (y : Lane) (j : Nat) => if y.nest ≠ 0 && y.holdAt = HoldAt.leaf c then { y with holdAt := .parked j } else y
         let u := match entry with
           | some j => ((t.leafLower c d false n0).leafLower c d true n1).modCrewLanes c n (fun y => moved y j)
           | none => t
         exec .parkAckArrival s = .next (u.modCrew c n (fun w => { w with parking := 2, parkRef := entry }))) ∧
       ((t.crew c n).parking ≠ 1 →
         (entry = none → exec .parkAckArrival s = .next t) ∧
         (∀ j, entry = some j → exec .parkAckArrival s = .next (t.modLodge (fun l =>
           let left := merase l.parked j
           { l with parked := left }))))) ∧
     (s.takeL k = some (.holdDec (.leaf c) d colour, t) →
       exec .holdDecrementArrival s = .next (t.leafLower c d colour 1)) ∧
     (s.takeL k = some (.holdDec (.parked i) d colour, t) → ∀ e, mfind t.lodge.parked i = some e →
       let e := if colour then { e with cnt1 := e.cnt1 - 1 } else { e with cnt0 := e.cnt0 - 1 }
       exec .holdDecrementArrival s = .next (t.modLodge (fun l =>
         let left := if e.cnt0 = 0 ∧ e.cnt1 = 0 then merase l.parked i else minsert l.parked i e
         { l with parked := left }))) ∧
     (s.takeL k = some (.stale part, t) →
       exec .staleReadIncrement s = .next (t.modLodge (fun l =>
         { l with stale := minsert l.stale part (mget 0#64 l.stale part + 1) }))) ∧
     (s.takeL k = some (.gpstat c id d part q, t) → exec .gpstatServe s = .next (t.giveStatus c id (s.gpstatOf d part q))) ∧
     (s.takeL k = some (.chorePulse c, t) → exec .chorePulseArrival s = .next (t.trapPulse c)))

/-! ### Pergola, budgets, containment, host, fabric, start and management (R302 to R328, R362 to R398) -/

/-- R302 to R304: what a doorbell does with a queue's descriptor, from stage 3 on: a queue that holds or awaits its slot reads
WRX again; one whose STATUS is not 0 is left alone; a malformed descriptor stops with STATUS 4 and REASON 0x100; and any other
asks for a slot of its HOME. The doorbell waits while the slices or the host hold the descriptor back, and a descriptor that
fails its check is read as nothing, which is the model's reading (log 44); that QTBASE is a physical address is its reading
too (log 19). R303: a queue that stops has its RDX written, then its STATUS, REASON and SPKT, and only then a notice with its
VEC to the host; it holds no slot and no buffer any more; and of the packets before it those that still run stay, but for an
INDIRECT whose buffer has packets left (log 48, the model's choice). R304: a die maps its pending queue of the highest
priority, the earliest among equals, in its lowest free slot; a queue that has stood empty for 65,536 clocks is unmapped, once
the slices and the host let its descriptor be written. A WRX that fails its check leaves the queue unmapped (log 44), and
QTBASE is taken as a physical address (log 19), as the model reads them; that the waiting time of a queue counts from its
mapping is its choice (log 45). R308, R311 to R315 and R180: a registered word is read again, and at its threshold lets its
queue ask for a slot; of the slots of a die with a crew or a packet ready one of the highest effective priority wins, the next
after the last winner among equals; the winner's next crew is admitted by the first core that takes it; a grid that is over
leaves, or starts its tail's child; a response of another module reaches the command or the add that awaits it. Which grid of
a queue is offered first (log 107) and where the search of the slots begins (log 45) are the model's choice. -/
def Obligations.QueueEvents : Prop :=
  (∀ (s t : State),
     let q := s.arg.a % 65536
     let a := s.lodge.qtbase.toNat + 64 * q
     let x := s.queue q
     let mapped : Bool := (mfind s.pergola.queues q).isSome && (x.state = 1 || x.state = 2)
     let came := s.readAll 64 [if mapped then { a := a + 24, n := 8 } else { a := a, n := 64 }]
     let heard := fun (u : State) => u.modPerg (fun p => { p with bells := p.bells.filter (· ≠ q) })
     let v := heard t
     let f := fieldAt (v.bytes a 64)
     let y : Queue := { die := f 10 1 % 4, part := f 11 1, prio := f 9 1, ring := f 0 8, logn := f 8 1, vec := BitVec.ofNat 32 (f 12 4)
                        rdx := f 16 8, wrx := f 24 8, runs := x.runs }
     let u := v.setQueue q y
     let malformed := f 8 1 < 4 ∨ 16 < f 8 1 ∨ f 0 8 % 64 ≠ 0 ∨ 3 < f 10 1 ∨ f 48 16 ≠ 0
     (s.worksFrom 3 = false → exec .doorbell s = .next s) ∧
     (s.worksFrom 3 = true →
       (came = (t, .wait) → exec .doorbell s = .next (t.modPerg (fun p => { p with bells := joinNew p.bells [q] }))) ∧
       (∀ n, came = (t, .bad n) → exec .doorbell s = .next (heard (t.mismatch 64 0xFFFFFFFF n))) ∧
       (came = (t, .ready) →
         (mapped = true → exec .doorbell s = .next (v.setQueue q { x with wrx := (v.word64 (a + 24)).toNat })) ∧
         (mapped = false →
           (v.word32 (a + 32) ≠ 0#32 → exec .doorbell s = .next v) ∧
           (q ∈ mget [] v.pergola.pendq x.die → exec .doorbell s = .next v) ∧
           (v.word32 (a + 32) = 0#32 → q ∉ mget [] v.pergola.pendq x.die →
             (malformed → exec .doorbell s = .next (u.stopQueue q 4 0x100 0#64 y.rdx (fun _ => false))) ∧
             (¬ malformed → exec .doorbell s = .next (u.modPerg (fun p => { p with
               pendq := minsert p.pendq (u.queue q).die (if q ∈ mget [] p.pendq (u.queue q).die then mget [] p.pendq (u.queue q).die
                 else mget [] p.pendq (u.queue q).die ++ [q]) })))))))) ∧
  (∀ (s : State) (q st reason rdx : Nat) (spkt : BitVec 64) (drop : PRun → Bool),
     let x := s.queue q
     let u := s.stopQueue q st reason spkt rdx drop
     let w := (s.bump.descWrite q s.nextId 16 (leBytes 8 rdx)).descWrite q s.nextId 32
       (leBytes 4 st ++ leBytes 4 reason ++ leBytes 8 spkt.toNat)
     u.mem = w.mem ∧ u.ops = w.ops ∧ u.net = w.net ∧
     u.host.notices = w.host.notices ++ [(s.nextId, x.vec)] ∧
     (u.queue q).state = st ∧ (u.queue q).slot = none ∧ (u.queue q).rdx = rdx ∧ (u.queue q).frames = [] ∧ (u.queue q).park = none ∧
     (∀ r, r ∈ (u.queue q).runs → r ∈ x.runs ∧ drop r = false) ∧
     (∀ r, r ∈ x.runs → (∀ y ∈ x.runs, y.id = r.id → drop y = false ∧ ∀ f ∈ x.open_, f.owner ≠ y.id) → r ∈ (u.queue q).runs) ∧
     (∀ k, k ≠ q → u.queue k = w.queue k)) ∧
  (∀ (s t : State),
     let n := s.arg.a
     let pend := mget [] s.pergola.pendq n
     let taken := fun i => s.pergola.queues.any (fun e => e.2.die = n && e.2.slot = some i)
     (∀ front q back i, pend = front ++ q :: back → (∀ r ∈ front, (s.queue r).prio < (s.queue q).prio) →
       (∀ r ∈ back, (s.queue r).prio ≤ (s.queue q).prio) → i < 128 → taken i = false → (∀ j < i, taken j = true) →
       (s.accessBoth { a := s.descAt q, n := 64 } = (t, false) → exec .queueMap s = .next (s.asked t)) ∧
       (s.accessBoth { a := s.descAt q, n := 64 } = (t, true) →
         let u := t.modPerg (fun p => { p with pendq := minsert p.pendq n ((mget [] p.pendq n).filter (· ≠ q)) })
         let a := u.descAt q
         let v := u.modQueue q (fun x => { x with
           state := 1, slot := some i, wrx := (u.word64 (a + 24)).toNat, idleSince := u.clock, lastWin := u.clock })
         (∀ b, u.firstBad [(a + 24, 8)] = some b → exec .queueMap s = .next (u.mismatch 64 0xFFFFFFFF b)) ∧
         (u.firstBad [(a + 24, 8)] = none → exec .queueMap s = .next (v.descWrite q 0 32 (leBytes 4 1))))) ∧
     (pend = [] → exec .queueMap s = .next s) ∧
     ((∀ i < 128, taken i = true) → exec .queueMap s = .next s) ∧
     ((s.queue n).state = 1 → (s.queue n).wrx ≤ (s.queue n).rdx → (s.queue n).runs = [] → (∀ f ∈ (s.queue n).frames, f.count ≤ f.pos) →
       (∀ g ∈ s.pergola.grids, g.2.queue ≠ n) → (s.queue n).idleSince + 65536 ≤ s.clock →
       (s.access true { a := s.descAt n, n := 64 } = (t, false) → exec .queueUnmap s = .next t) ∧
       (s.access true { a := s.descAt n, n := 64 } = (t, true) →
         exec .queueUnmap s = .next ((t.descWrite n 0 32 (leBytes 4 0)).modPerg (fun p =>
           { p with queues := merase p.queues n })))) ∧
     (s.queueEmpty n = false → exec .queueUnmap s = .next s) ∧
     (s.clock < (s.queue n).idleSince + 65536 → exec .queueUnmap s = .next s)) ∧
  (∀ (s t : State),
     let q := s.arg.a
     (∀ k rest word thr, takeAt s.pergola.signals q = some (k, rest) → (s.queue k).park = some (word, thr) →
       (s.waitMet 64 word thr = (t, false) → exec .signalUnitRead s = .next t) ∧
       (s.waitMet 64 word thr = (t, true) → exec .signalUnitRead s = .next
         (((t.modPerg (fun p => { p with signals := rest })).modQueue k (fun x => { x with
           park := none, runs := x.runs.map (fun r => if r.ty = 3 then { r with finished := true } else r) })).askSlot k))) ∧
     (let ready := fun r => (s.offering r).isSome || s.packetReady r
      let rank := fun r => min 7 ((s.queue r).prio + (s.clock - (s.queue r).lastWin) / 65536)
      let after := fun r => ((s.queue r).slot.getD 0 + 127 - mget 127 s.pergola.lastSlot q) % 128
      (∀ k x, (k, x) ∈ s.pergola.queues → x.state = 1 → x.die = q → ready k = true →
        (∀ r y, (r, y) ∈ s.pergola.queues → y.state = 1 → y.die = q → ready r = true → r ≠ k →
          rank r < rank k ∨ (rank r = rank k ∧ after k < after r)) → s.offerWinner q = some k) ∧
      ((∀ r y, (r, y) ∈ s.pergola.queues → y.state = 1 → y.die = q → ready r = false) → s.offerWinner q = none)) ∧
     (s.offerWinner q = none → exec .crewOffer s = .next s) ∧
     (∀ k, s.offerWinner q = some k → s.offering k = none → exec .crewOffer s = .next s) ∧
     (∀ k g, s.offerWinner q = some k → s.offering k = some g →
       let u := (s.modQueue k (fun x => { x with lastWin := s.clock })).modPerg (fun p =>
         { p with lastSlot := minsert p.lastSlot (s.queue k).die ((s.queue k).slot.getD 0) })
       let part := fieldAt g.hdr 58 1
       let turns := fun e => u.budgetOk part e = false ∨ (u.core e).fits (hdrDemand g.hdr) = none
       ((u.part part).en = false ∨ u.worksFrom 3 = false ∨ (∀ e ∈ u.offerOrder g, turns e) → exec .crewOffer s = .next u) ∧
       (∀ front c back p, (u.part part).en = true → u.worksFrom 3 = true → u.offerOrder g = front ++ c :: back → (∀ e ∈ front, turns e) →
         u.budgetOk part c = true → (u.core c).fits (hdrDemand g.hdr) = some p → exec .crewOffer s = .next (u.takeIn g c p))) ∧
     (∀ g, mfind s.pergola.grids q = some g →
       (s.gridOver g = false → exec .gridRetire s = .next s) ∧
       (s.gridOver g = true → g.tailbuf = 0#64 →
         exec .gridRetire s = .next (((s.dropGrid g).forgetChain g.id).chainEnds g)) ∧
       (∀ bs u, s.gridOver g = true → g.tailbuf ≠ 0#64 → (s.queue g.queue).runs.any (fun r => r.id = g.run) = true →
         s.pergRead (s.queue g.queue).part g.tailbuf 16 = (t, .got bs) →
         (addrAt bs 0 = 0#64 → exec .gridRetire s = .next (((t.dropGrid g).forgetChain g.id).chainEnds g)) ∧
         (addrAt bs 0 ≠ 0#64 →
           ((t.dropGrid g).launch g.queue g.run g.node (addrAt bs 0) (addrAt bs 8) g.tailbuf (some g.id) = (u, .ok) →
             exec .gridRetire s = .next u) ∧
           ((t.dropGrid g).launch g.queue g.run g.node (addrAt bs 0) (addrAt bs 8) g.tailbuf (some g.id) = (u, .wait) →
             exec .gridRetire s = .next (s.asked u))))) ∧
     (let p := s.arg.nats.getD 0 0
      let v := s.setPort p ((s.port p).take (if s.arg.flag then 6 else 3) (s.arg.nats.getD 1 0))
      (s.arg.a < 160 → exec .remoteResponseArrival s = .next (v.answerCommand s.arg.a s.arg.b s.arg.c s.arg.bytes)) ∧
      (160 ≤ s.arg.a → exec .remoteResponseArrival s = .next (v.modPerg (fun p =>
        { p with remote := p.remote.filter (fun r => r.id ≠ s.arg.b) })))))

/-- R305 to R317: what each type of packet does as it starts: a LAUNCH brings its grid in flight or stops the queue with a
status; a GRAPH comes to be in progress; a SIGNAL makes its add, an INDIRECT opens its frame, a FENCE only starts; a COPY
starts and goes on, or stops the queue on a permission error; and a WAIT either finds its word there, or parks its queue. One
that finds a slice or the host in its way waits, and one that meets a sector that does not match its check value does not
start. What a GRAPH's fields may hold where R316 does not say is the model's choice (log 106). R185 and R307: a SIGNAL or a
COPY that has started and has its effect still to make goes on: it makes its add or its copy; it stays as it is while a read,
a bias or a lane holds it back; on a page that is not mapped it is suspended, with one fault chore; and a COPY that may not
use its addresses stops its queue with STATUS 4 and REASON 0x200. R180, R181 and R307: the add of a SIGNAL, of a DONE word or
of a SIGNAL node: at the word's home when the address is a local one, through the window of this module when it names this
node, and else as a remote command on lane 2 of the node's port, which waits while that lane is held off. A word that may not
be written, and a node with no port, are left as they are (log 46, the model's reading); so is a word that does not match its
check value, which is taken up as a mismatch. R306 and R307: packets complete, with DINC added at DONE: a SIGNAL and a COPY
once performed, an INDIRECT once its packets are dispatched and have completed, a FENCE once the adds at DONE of the packets
before it are performed, and at SYSTEM once no add of its queue awaits another module, at HOST once no posted write does (log
91, the model's reading). -/
def Obligations.PacketsStart : Prop :=
  (∀ (s t z w u : State) (ty : Nat) (p : List (BitVec 8)) (va : BitVec 64) (r : PRun),
     let q := s.arg.a
     let x := s.queue q
     PacketStarts s q ty p va t z w r →
     (ty = 1 →
       (w.launch q r.id none (addrAt p 24) (addrAt p 32) (addrAt p 40) none = (u, .ok) →
         exec .launchPacket s = .next (u.beginPacket q r)) ∧
       (w.launch q r.id none (addrAt p 24) (addrAt p 32) (addrAt p 40) none = (u, .wait) → exec .launchPacket s = .next (s.asked u)) ∧
       (w.launch q r.id none (addrAt p 24) (addrAt p 32) (addrAt p 40) none = (u, .lost) → exec .launchPacket s = .next u) ∧
       (∀ n, w.launch q r.id none (addrAt p 24) (addrAt p 32) (addrAt p 40) none = (u, .refused n) →
         exec .launchPacket s = .next (u.stopQueue q 5 n va x.ringPos (fun _ => false)))) ∧
     (ty = 2 →
       (∀ nodes, w.readGraph x.part (addrAt p 24) false = (u, .got nodes) →
         exec .graphPacket s = .next ((u.bump.beginPacket q r).addGraph
           { id := u.nextId, queue := q, run := r.id, pkg := fieldAt p 1 1 / 2 = 1, karg := addrAt p 32, nodes := nodes
             st := List.replicate nodes.length .waiting })) ∧
       (w.readGraph x.part (addrAt p 24) false = (u, .wait) → exec .graphPacket s = .next (s.asked u)) ∧
       (w.readGraph x.part (addrAt p 24) false = (u, .lost) → exec .graphPacket s = .next u) ∧
       (w.readGraph x.part (addrAt p 24) false = (u, .fail) →
         exec .graphPacket s = .next (u.stopQueue q 4 24 va x.ringPos (fun _ => false))) ∧
       (∀ n, w.readGraph x.part (addrAt p 24) false = (u, .bad n) →
         exec .graphPacket s = .next (u.stopQueue q 7 n va x.ringPos (fun _ => false)))) ∧
     (ty = 3 → ∀ word more, w.pergSpots x.part .load (addrAt p 24) 8 = .ok (word :: more) →
       (w.readSpots x.part (word :: more) = (u, .wait) → exec .waitPacket s = .next (s.asked u)) ∧
       (w.readSpots x.part (word :: more) = (u, .lost) → exec .waitPacket s = .next u) ∧
       (∀ bs, w.readSpots x.part (word :: more) = (u, .got bs) →
         ((addrAt p 32).toNat ≤ leNat bs → exec .waitPacket s = .next (u.beginPacket q { r with finished := true })) ∧
         (leNat bs < (addrAt p 32).toNat →
           let v := (u.beginPacket q r).modQueue q (fun x => { x with park := some (word, addrAt p 32) })
           exec .waitPacket s = .next (if 16384 ≤ v.pergola.signals.length then v
             else ((v.modQueue q (fun x => { x with state := 2, slot := none })).modPerg (fun p =>
               { p with signals := p.signals ++ [q] })).descWrite q 0 32 (leBytes 4 2))))) ∧
     (ty = 4 → s.arg.b = 0 →
       (∀ id, (w.beginPacket q r).pergAdd q (addrAt p 24) (addrAt p 32) = (u, .made id) →
         exec .signalPacket s = .next (u.modRun q r.id (fun y => { y with stage := 2, seq := id }))) ∧
       ((w.beginPacket q r).pergAdd q (addrAt p 24) (addrAt p 32) = (u, .wait) → exec .signalPacket s = .next u) ∧
       ((w.beginPacket q r).pergAdd q (addrAt p 24) (addrAt p 32) = (u, .fault) →
         exec .signalPacket s = .next ((u.modRun q r.id (fun y => { y with stage := 1 })).postChore 2 [256, q, r.id]))) ∧
     (ty = 5 → s.arg.b = 0 →
       let a := w.pergSpots x.part .asyncRead (addrAt p 24) (fieldAt p 40 8)
       let b := w.pergSpots x.part .asyncWrite (addrAt p 32) (fieldAt p 40 8)
       (a = .error .access ∨ b = .error .access →
         exec .copyPacket s = .next (w.stopQueue q 4 0x200 va x.ringPos (fun _ => false))) ∧
       (a ≠ .error .access → b ≠ .error .access →
         exec .copyPacket s = .next ((w.beginPacket q { r with seq := r.id, dispatched := true }).copyOn q
           { r with seq := r.id, dispatched := true }))) ∧
     (ty = 6 →
       (4 ≤ x.open_.length → exec .indirectPacket s = .next (w.stopQueue q 3 0 va x.ringPos (fun _ => false))) ∧
       (x.open_.length < 4 →
         let f : Frame := { base := addrAt p 24, pos := 0, count := fieldAt p 32 8, owner := r.id }
         exec .indirectPacket s = .next ((w.beginPacket q r).modQueue q (fun y => { y with frames := f :: y.frames })))) ∧
     (ty = 7 → exec .fencePacket s = .next (w.beginPacket q r))) ∧
  (∀ (s u : State) (r : PRun),
     let q := s.arg.a
     let suspended := if r.stage = 1 then u else (u.modRun q r.id (fun y => { y with stage := 1 })).postChore 2 [256, q, r.id]
     s.arg.b ≠ 0 →
     ((s.queue q).runs.find? (fun r => r.id = s.arg.b && r.ty = 4 && r.stage < 2) = some r →
       (∀ id, s.pergAdd q (addrAt r.bytes 24) (addrAt r.bytes 32) = (u, .made id) →
         exec .signalPacket s = .next (u.modRun q r.id (fun y => { y with stage := 2, seq := id }))) ∧
       (s.pergAdd q (addrAt r.bytes 24) (addrAt r.bytes 32) = (u, .wait) → exec .signalPacket s = .next u) ∧
       (s.pergAdd q (addrAt r.bytes 24) (addrAt r.bytes 32) = (u, .fault) → exec .signalPacket s = .next suspended)) ∧
     ((s.queue q).runs.find? (fun r => r.id = s.arg.b && r.ty = 5 && r.stage < 2) = some r →
       let c := s.pergCopy q r.seq (addrAt r.bytes 24) (addrAt r.bytes 32) (fieldAt r.bytes 40 8)
       (c = (u, .made) → exec .copyPacket s = .next (u.modRun q r.id (fun y => { y with stage := 2 }))) ∧
       (c = (u, .wait) → exec .copyPacket s = .next u) ∧
       (c = (u, .fault) → exec .copyPacket s = .next suspended) ∧
       (c = (u, .denied) → exec .copyPacket s = .next (u.stopQueue q 4 0x200 r.addr r.index (fun y => y.id = r.id))))) ∧
  (∀ (s t u : State) (q : Nat) (va inc : BitVec 64),
     let x := s.queue q
     let id := s.nextId
     (canonical va = true →
       (s.pergTables x.part [(va, 8)] = (u, .wait) → s.pergAdd q va inc = (u, .wait)) ∧
       (∀ n, s.pergTables x.part [(va, 8)] = (u, .bad n) →
         s.pergAdd q va inc = ((u.mismatch x.part 0xFFFFFFFF n).bump, .made id)) ∧
       (s.pergTables x.part [(va, 8)] = (u, .ready) →
         (u.pergSpots x.part .asyncWrite va 8 = .error .page → s.pergAdd q va inc = (u, .fault)) ∧
         (u.pergSpots x.part .asyncWrite va 8 = .error .access → s.pergAdd q va inc = (u.bump, .made id)) ∧
         (∀ word more, u.pergSpots x.part .asyncWrite va 8 = .ok (word :: more) →
           (u.accessBoth word = (t, false) → s.pergAdd q va inc = (s.asked t, .wait)) ∧
           (u.accessBoth word = (t, true) →
             (∀ n, t.spotBad [word] = some n → s.pergAdd q va inc = ((t.mismatch x.part 0xFFFFFFFF n).bump, .made id)) ∧
             (t.spotBad [word] = none → s.pergAdd q va inc =
               ((t.bump.homeWrite (pergolaPort x.die) id word.a (leBytes 8 (t.word64 word.a + inc).toNat)).1, .made id)))))) ∧
     (canonical va = false → s.worksFrom 3 = true →
       (s.ownNode va = true →
         (s.bump.windowAtomic (pergolaPort x.die) id .asyncWrite (globalOff va) 0 6 inc 0#64 = (t, none) →
           s.pergAdd q va inc = (s.asked t, .wait)) ∧
         (∀ r, s.bump.windowAtomic (pergolaPort x.die) id .asyncWrite (globalOff va) 0 6 inc 0#64 = (t, some r) →
           s.pergAdd q va inc = (t, .made id))) ∧
       (s.ownNode va = false →
         (s.route (globalNode va) (160 + x.die) q = none → s.pergAdd q va inc = (s.bump, .made id)) ∧
         (∀ p, s.route (globalNode va) (160 + x.die) q = some p →
           ((s.port p).peerXoff.getLsbD 2 = true → s.pergAdd q va inc = (s, .wait)) ∧
           ((s.port p).peerXoff.getLsbD 2 = false →
             let u := (s.pergAdd q va inc).1
             (s.pergAdd q va inc).2 = .made id ∧
             u.fabric.out = s.fabric.out ++ [{ port := p, node := globalNode va, vl := 2, core := 160 + x.die, queue := id
                                               off := globalOff va, bytes := leBytes 8 inc.toNat }] ∧
             u.pergola.remote = s.pergola.remote ++ [{ id := id, queue := q, node := globalNode va }] ∧ u.mem = s.mem))))) ∧
  (∀ (s t : State),
     let q := s.arg.a
     let x := s.queue q
     (∀ r, x.runs.find? (fun r => r.id = s.arg.b) = some r →
       let finish := fun (t : State) => (t.modQueue q (fun x => { x with
         runs := x.runs.filter (fun y => y.id ≠ r.id), idleSince := t.clock })).modPerg (fun p =>
           { p with graphs := p.graphs.filter (fun g => ! (g.2.queue = q && g.2.run = r.id)) })
       (s.packetOver q r = false → exec .packetComplete s = .next s) ∧
       (s.packetOver q r = true → addrAt r.bytes 8 = 0#64 → exec .packetComplete s = .next (finish s)) ∧
       (∀ id, s.packetOver q r = true → addrAt r.bytes 8 ≠ 0#64 → s.pergAdd q (addrAt r.bytes 8) (addrAt r.bytes 16) = (t, .made id) →
         exec .packetComplete s = .next ((finish t).modQueue q (fun y =>
           { y with adds := y.adds.filter (fun n => ! t.settled (pergolaPort x.die) n) ++ [id] }))) ∧
       (s.packetOver q r = true → addrAt r.bytes 8 ≠ 0#64 → s.pergAdd q (addrAt r.bytes 8) (addrAt r.bytes 16) = (t, .wait) →
         exec .packetComplete s = .next t)) ∧
     (∀ r,
       (r.ty = 1 ∨ r.ty = 3 → s.packetOver q r = r.finished) ∧
       (r.ty = 4 → (s.packetOver q r = true ↔ r.stage = 2 ∧ s.settled (pergolaPort x.die) r.seq = true ∧
         ∀ y ∈ s.pergola.remote, y.id ≠ r.seq)) ∧
       (r.ty = 5 → (s.packetOver q r = true ↔ r.stage = 2 ∧ s.settled (pergolaPort x.die) r.seq = true)) ∧
       (r.ty = 6 → (s.packetOver q r = true ↔ (∀ f ∈ x.open_, f.owner ≠ r.id) ∧ ∀ y ∈ x.runs, y.parent ≠ r.id)) ∧
       (r.ty = 7 →
         let added := ∀ n ∈ x.adds, s.settled (pergolaPort x.die) n = true
         (fieldAt r.bytes 24 1 = 5 → (s.packetOver q r = true ↔ added)) ∧
         (fieldAt r.bytes 24 1 = 6 → (s.packetOver q r = true ↔ added ∧ ∀ y ∈ s.pergola.remote, y.queue ≠ q)) ∧
         (fieldAt r.bytes 24 1 = 7 → (s.packetOver q r = true ↔ added ∧ s.host.posted = [])))))

/-- R317 and R318: a node starts once its predecessors have completed, the lowest first: a KERNEL node launches its grid, a
COPY and a SIGNAL complete once performed and are tried again while held back, a WAIT completes as its word stands at the
threshold, a TAIL launches what its pair names, a LOOP starts its body, and goes on or ends by its condition word as an
iteration is complete. That a COPY or SIGNAL node on a page that is not mapped is suspended with one chore, and that a COPY
node which may not use its addresses stops the queue, are the model's choice (log 47); what it does where a WAIT word, a TAIL
pair, a condition word or a body's graph cannot be read is its reading (log 51). -/
def Obligations.GraphNodes : Prop :=
  ∀ (s t : State) (g : GraphRun),
    let n := s.arg.b
    let b := g.nodes.getD n []
    let part := (s.queue g.queue).part
    let karg := if addrAt b 32 = 0#64 then g.karg else addrAt b 32
    s.graph? s.arg.a = some g → (s.queue g.queue).state = 1 → s.worksFrom 3 = true →
    (g.st[n]? = some .waiting → g.mayStart n = true →
      (fieldAt b 0 1 = 1 →
        (s.launch g.queue g.run (some (g.id, n)) (addrAt b 24) karg (addrAt b 40) none = (t, .ok) →
          exec .kernelNode s = .next (t.setNode g.id n (.running 0))) ∧
        (∀ x, s.launch g.queue g.run (some (g.id, n)) (addrAt b 24) karg (addrAt b 40) none = (t, .refused x) →
          exec .kernelNode s = .next (t.stopGraph g 5 x)) ∧
        (s.launch g.queue g.run (some (g.id, n)) (addrAt b 24) karg (addrAt b 40) none = (t, .wait) ∨
            s.launch g.queue g.run (some (g.id, n)) (addrAt b 24) karg (addrAt b 40) none = (t, .lost) →
          exec .kernelNode s = .next t)) ∧
      (fieldAt b 0 1 = 6 →
        (∀ bs, s.pergRead part (addrAt b 24) 16 = (t, .got bs) →
          (addrAt bs 0 = 0#64 → exec .tailNode s = .next (t.setNode g.id n .complete)) ∧
          (addrAt bs 0 ≠ 0#64 →
            let u := t.launchNode g n (addrAt bs 0) (addrAt bs 8) 0#64
            let begun := (u.graph? g.id).bind (fun x => x.st[n]?) = some (.running 0)
            exec .tailNode s = .next (if begun then u else { u with host := { u.host with answered := s.host.answered } }))) ∧
        (∀ x, s.pergRead part (addrAt b 24) 16 = (t, .fail x) → exec .tailNode s = .next (t.setNode g.id n .complete)) ∧
        (s.pergRead part (addrAt b 24) 16 = (t, .wait) ∨ s.pergRead part (addrAt b 24) 16 = (t, .lost) →
          exec .tailNode s = .next t)) ∧
      (fieldAt b 0 1 = 5 →
        (∀ nodes, s.readGraph part (addrAt b 24) true = (t, .got nodes) →
          exec .loopNode s = .next ((t.bump.addGraph
            { id := t.nextId, queue := g.queue, run := g.run, karg := g.karg, nodes := nodes, iter := 1
              st := List.replicate nodes.length .waiting, parent := some (g.id, n) }).setNode g.id n (.running 0))) ∧
        (s.readGraph part (addrAt b 24) true = (t, .fail) → exec .loopNode s = .next (t.stopGraph g 7 n)) ∧
        (∀ x, s.readGraph part (addrAt b 24) true = (t, .bad x) → exec .loopNode s = .next (t.stopGraph g 7 x)) ∧
        (s.readGraph part (addrAt b 24) true = (t, .wait) ∨ s.readGraph part (addrAt b 24) true = (t, .lost) →
          exec .loopNode s = .next t))) ∧
    ((g.st[n]? = some .waiting ∧ g.mayStart n = true) ∨ g.st[n]? = some (.running 0) →
      (fieldAt b 0 1 = 2 →
        let c := s.pergCopy g.queue s.nextId (addrAt b 24) (addrAt b 32) (fieldAt b 40 8)
        (c = (t, .made) → exec .copyNode s = .next (t.bump.setNode g.id n (.running s.nextId))) ∧
        (c = (t, .wait) → exec .copyNode s = .next t) ∧
        (c = (t, .denied) → exec .copyNode s = .next (t.stopGraph g 4 0x200)) ∧
        (c = (t, .fault) → exec .copyNode s = .next (if g.st[n]? = some .waiting then
          (t.setNode g.id n (.running 0)).postChore 2 [256, g.queue, g.id, n] else t))) ∧
      (fieldAt b 0 1 = 3 →
        (∀ id, s.pergAdd g.queue (addrAt b 24) (addrAt b 32) = (t, .made id) →
          exec .signalNode s = .next (t.setNode g.id n (.running id))) ∧
        (s.pergAdd g.queue (addrAt b 24) (addrAt b 32) = (t, .wait) → exec .signalNode s = .next t) ∧
        (s.pergAdd g.queue (addrAt b 24) (addrAt b 32) = (t, .fault) → exec .signalNode s = .next (if g.st[n]? = some .waiting then
          (t.setNode g.id n (.running 0)).postChore 2 [256, g.queue, g.id, n] else t))) ∧
      (fieldAt b 0 1 = 4 →
        (∀ bs, s.pergRead part (addrAt b 24) 8 = (t, .got bs) →
          exec .waitNode s = .next (t.setNode g.id n (if fieldAt b 32 8 ≤ leNat bs then .complete else .running 0))) ∧
        ((∃ x, s.pergRead part (addrAt b 24) 8 = (t, .fail x)) ∨ s.pergRead part (addrAt b 24) 8 = (t, .wait) ∨
            s.pergRead part (addrAt b 24) 8 = (t, .lost) →
          exec .waitNode s = .next (t.setNode g.id n (.running 0))))) ∧
    (∀ id, g.st[n]? = some (.running id) → id ≠ 0 →
      (fieldAt b 0 1 = 2 →
        (s.settled (pergolaPort (s.queue g.queue).die) id = true → exec .copyNode s = .next (s.setNode g.id n .complete)) ∧
        (s.settled (pergolaPort (s.queue g.queue).die) id = false → exec .copyNode s = .next s)) ∧
      (fieldAt b 0 1 = 3 →
        (s.addDone g.queue id = true → exec .signalNode s = .next (s.setNode g.id n .complete)) ∧
        (s.addDone g.queue id = false → exec .signalNode s = .next s)) ∧
      (fieldAt b 0 1 = 5 → s.settled (pergolaPort (s.queue g.queue).die) id = true →
        exec .loopIterationEnd s = .next (s.setNode g.id n .complete))) ∧
    (g.st[n]? = some (.running 0) → fieldAt b 0 1 = 5 →
      (∀ body, s.bodyOf g.id n = some body →
        (body.st.all (fun x => decide (x = .complete)) = true →
          (∀ bs, s.pergRead part (addrAt b 32) 4 = (t, .got bs) →
            let u := t.modPerg (fun p =>
              let left := merase p.graphs body.id
              { p with graphs := left })
            let v := if leNat bs ≠ 0 ∧ body.iter < fieldAt b 40 4 then u.startBody g n b (body.iter + 1)
              else u.loopResult g n b body.iter (leNat bs)
            exec .loopIterationEnd s = .next (if v.2 then v.1 else s.asked v.1)) ∧
          ((∃ x, s.pergRead part (addrAt b 32) 4 = (t, .fail x)) ∨ s.pergRead part (addrAt b 32) 4 = (t, .wait) ∨
              s.pergRead part (addrAt b 32) 4 = (t, .lost) →
            exec .loopIterationEnd s = .next t)) ∧
        (body.st.all (fun x => decide (x = .complete)) = false → exec .loopIterationEnd s = .next s)))

/-- R320 and R396 to R398: a window's totals, the counts of its seven events and one charge for each core of a partition, go
to the Lodge, and its counts start again; a sample sets the temperatures and the package limit, which is logged when it
changes, and 115 °C trips the module once. That an event brings the temperatures, that the limit looks at the Lodge's sensor
beside the four dies' of R397, and the unit and class of the thermal entry, are the model's choice (logs 53 and 33). R393: a
containment is recorded, disables its partition, stops its queues, those that a Pergola knows and those that only their
descriptor names, tells every core and posts a chore; a core discards the partition's crews and reports; once every core has
reported, parked holds and grids are given up, the record says so and the host is told of each stopped queue. Which memory the
machine searches for descriptors, and that a containment raised twice joins the first, are the model's reading (log 54), as it
is that both wait until the slices and the host give what they read (log 67). R303 and R393: which queues a containment stops,
and how each stops: with STATUS 6 and REASON 0, its RDX at its oldest packet that has not completed, SPKT that packet's
address, no slot, and nothing of it running, parked or pending any more. R391: a soft error is found before anything else
happens (the model's choice, log 77): a corrected one raises its count in the integrity record and changes nothing else;
another is logged and acts on the word's owner: it contains the crew's partition, closes a record and contains its partition,
contains every partition, is logged only, or is core-fatal. -/
def Obligations.BudgetAndContainmentEvents : Prop :=
  (∀ (s t : State) (die : Nat) (fast : Bool) (counts : SMap Nat),
     let ts := (List.range 5).map (hottest s.arg.nats)
     let dies := fun (f : Nat → Bool) => (List.range 4).filter (fun d => f (ts.getD d 0))
     (let d := s.arg.a
      let u := s.sendL (.totals d (! decide (d ∈ s.power.slow)) (s.windowTotals d))
      let p := { s.power with counts := s.power.counts.filter (fun e => e.1 / 1024 ≠ d) }
      exec .budgetWindowEnd s = .next { u with power := p.turn d }) ∧
     (∀ x < 64, (∀ e < 7, mget 0 (s.windowTotals die) (16 * x + e) = mget 0 s.power.counts (16 * (64 * die + x) + e)) ∧
       mget 0 (s.windowTotals die) (16 * x + 7) =
         ((List.range 40).filter (fun i => (s.part x).cmask.getLsbD (40 * die + i))).length) ∧
     (s.takeL s.arg.a = some (.totals die fast counts, t) →
       let ran := (if fast then [] else [die]) ++ t.power.slowRan.filter (· ≠ die)
       exec .totalsArrival s = .next { t with power := { t.power with latest := minsert t.power.latest die counts, slowRan := ran } }) ∧
     (let hot := joinNew s.power.hot (dies (105 ≤ ·))
      let cool := joinNew (s.power.cool.filter (fun d => ! decide (d ∈ dies (105 ≤ ·)))) (dies (· < 100))
      let temps := mputs 0 [] ((List.range 5).zip ts)
      let u : State := { s with power := { s.power with temps := temps, limit := limitFor ts, hot := hot, cool := cool } }
      let hottestUnit := ((List.range 5).find? (fun i => ts.getD i 0 = maxNat ts)).getD 0
      let v := if s.power.limit = limitFor ts then u else u.logEvent 4 0xFF hottestUnit 0 0xFFFFFFFF 0
      ((∀ x ∈ ts, x < 115) → exec .sensorSample s = .next v) ∧
      (∀ x ∈ ts, 115 ≤ x → exec .sensorSample s = .next (if s.power.tripped then v else v.trip hottestUnit)))) ∧
  (∀ (s t : State) (c x : Nat),
     let r := s.containReads s.arg.a
     let w0 := s.accessBoth { a := containWord s.arg.a, n := 8 }
     (s.arg.a ∈ s.lodge.contain → s.contained s.arg.a = false → r.2 = false → exec .containment s = .next (s.asked r.1)) ∧
     (s.arg.a ∈ s.lodge.contain → s.contained s.arg.a = false → r.2 = true →
       let a := s.arg.a
       let n := (r.1.word64 (containWord a)).toNat / 2 ^ 32
       let u := r.1.modLodge (fun l => { l with contain := l.contain.filter (· ≠ a) })
       let u := u.ownWrite lodgePort 0 (containWord a) (leBytes 8 (1 + 2 ^ 32 * (n + 1)))
       let u := u.modLodge (fun l =>
         let off := { mget {} l.parts a with en := false }
         { l with reported := minsert l.reported a [], parts := minsert l.parts a off })
       let u := (u.queuesOf a).foldl (fun (u : State) q => u.stopForContain q) u
       exec .containment s = .next (((List.range 160).foldl (fun (u : State) c => u.sendL (.contain c a)) u).postChore 4 [a])) ∧
     (s.arg.a ∈ s.lodge.contain → s.contained s.arg.a = true →
       exec .containment s = .next (s.modLodge (fun l => { l with contain := l.contain.filter (· ≠ s.arg.a) }))) ∧
     (s.arg.a ∉ s.lodge.contain → exec .containment s = .next s) ∧
     (s.takeL s.arg.a = some (.contain c x, t) →
       let u := (((t.core c).crews.filter (fun e => e.1 ≠ 0 && e.2.part = x)).map (·.1)).foldl (fun (t : State) n => t.discard c n) t
       exec .containmentNotice s = .next (u.modLodge (fun l => match mfind l.reported x with
         | none => l
         | some cs =>
           let more := if c ∈ cs then cs else cs ++ [c]
           { l with reported := minsert l.reported x more }))) ∧
     (s.allReported s.arg.a = false → exec .containmentComplete s = .next s) ∧
     (s.allReported s.arg.a = true → w0.2 = false → exec .containmentComplete s = .next (s.asked w0.1)) ∧
     (s.allReported s.arg.a = true → w0.2 = true →
       let a := s.arg.a
       let n := (w0.1.word64 (containWord a)).toNat / 2 ^ 32
       let u := ((w0.1.pergola.grids.map (·.2)).filter (fun g => fieldAt g.hdr 58 1 = a)).foldl
         (fun (u : State) g => (u.dropGrid g).forgetChain g.id) w0.1
       let u := u.modLodge (fun l => { l with
         parked := l.parked.filter (fun e => e.2.part ≠ a), reported := merase l.reported a })
       let v := u.bump.ownWrite lodgePort u.nextId (containWord a) (leBytes 8 (2 + 2 ^ 32 * n))
       let told := (v.pergola.queues.filter (fun e => e.2.part = a && ! e.2.told)).map (fun e => (u.nextId, e.2.vec))
       let w : State := { v with host := { v.host with notices := v.host.notices ++ told } }
       exec .containmentComplete s = .next (w.modPerg (fun p =>
         let qs := p.queues.map (fun (e : Nat × Queue) => if e.2.part = a then (e.1, { e.2 with told := true }) else e)
         { p with queues := qs })))) ∧
  (∀ (s : State) (p q : Nat),
     (∀ x, (q, x) ∈ s.pergola.queues → x.part = p → q ∈ s.queuesOf p) ∧
     (q < 65536 → mfind s.pergola.queues q = none → s.rangeOk (s.descAt q) 64 = true → descBad (s.bytes (s.descAt q) 64) = false →
       fieldAt (s.bytes (s.descAt q) 64) 11 1 = p → q ∈ s.queuesOf p) ∧
     (let x := (mfind s.pergola.queues q).getD (queueOf (s.bytes (s.descAt q) 64))
      let rdx := (minNat (x.runs.map (·.index))).getD x.rdx
      let v := s.setQueue q { x with state := 6, slot := none, rdx := rdx, frames := [], runs := [], park := none, told := false }
      let w := (v.descWrite q 0 16 (leBytes 8 rdx)).descWrite q 0 32
        (leBytes 4 6 ++ leBytes 4 0 ++ leBytes 8 (x.ring + 64 * (rdx % 2 ^ x.logn)))
      let u := s.stopForContain q
      u.mem = w.mem ∧ u.ops = w.ops ∧ u.net = w.net ∧
      (u.queue q).state = 6 ∧ (u.queue q).slot = none ∧ (u.queue q).rdx = rdx ∧ (u.queue q).runs = [] ∧ (u.queue q).told = false ∧
      q ∉ u.pergola.signals ∧ (∀ e ∈ u.pergola.pendq, q ∉ e.2) ∧ (∀ g ∈ u.pergola.graphs, g.2.queue ≠ q) ∧
      u.host = w.host ∧ ∀ k, k ≠ q → u.queue k = w.queue k)) ∧
  (∀ (s : State) (u : Upset) (rest : List Upset) (h : BitVec 32) (r : TRec),
     let t : State := { s with clock := s.clock + 1, turnEv := ! s.turnEv, upsets := rest }
     let log := fun (part : Nat) => t.logEvent 2 part u.unit u.cls u.core u.addr
     let word := 0x7FFFFC0000 + 64 * u.unit + 8 * u.cls
     s.upsets = u :: rest →
     (u.corrected = true → step s = .next (t.ownAdd lodgePort 0 word 1)) ∧
     (u.corrected = false →
       (∀ p, u.owner = .crew p → step s = .next ((log p).raiseContain p)) ∧
       (u.owner = .record h → s.record? h = some r →
         step s = .next (((log r.part).closeRecord h).raiseContain r.part)) ∧
       (u.owner = .record h → s.record? h = none → step s = .next (log 0xFF)) ∧
       (u.owner = .nobody → step s = .next (log 0xFF)) ∧
       (u.owner = .everyone → step s = .next ((List.range 64).foldl State.raiseContain (log 0xFF))) ∧
       (∀ c, u.owner = .priv c →
         step s = .next ((t.modGang c privSlot (fun g => { g with stopped := true })).coreFatal c))))

/-- R362 and R364 to R366: the mode is settled before stage 2; a grant that was asked for is held in S or E with the host's
bytes; a snoop answers with a modified half's bytes and lowers the half, from the victim buffer while it stands there; a
write-pull sends the data, or a Bogus phase, and frees the entry. That a grant no one asked for is nothing, and that a half
whose check fails is answered with no data, are the model's choice and reading (logs 65 and 66). R389 and R390: bytes that
leave for the host are checked: those of a range whose sectors agree with their check values are sent, and where one does not
none is, and the failure is logged. R367 to R369: flips begin from stage 2 on, for a page of HBM in CXL mode that is not
already there or on its way; one to device bias snoops every half of the page; a host request to a page in device bias starts
the flip and waits for its half while it is dirty; a flip's line in turn is passed over once the slices hold nothing of it,
and the flip ends when no half of the page is dirty, or goes over its lines again; BISnp responses bring the host's data and
end a flip to device bias with the last; the host writes its own memory, and reaches device memory through BAR2 in PCIe mode,
one aligned word, or a sector that is written whole, at a time. Which halves the host may write, that a request of a flipping
page counts as served in the step in which its half is written, and that what the host writes stands in HBM and makes no half
dirty, are the model's choice and reading (logs 65 and 66). -/
def Obligations.HostEvents : Prop :=
  (∀ (s : State),
     let h := s.arg.a
     (s.lodge.stage < 2 → exec .hostLinkTraining s = .next (s.modLodge (fun l => { l with cxl := s.arg.flag }))) ∧
     (2 ≤ s.lodge.stage → exec .hostLinkTraining s = .next s) ∧
     ((h, false) ∈ s.host.asked ∨ ((h, true) ∈ s.host.asked ∧ s.arg.flag = true) →
       let t := if s.arg.bytes.length = 64 then s.ingress (64 * h) s.arg.bytes else s
       exec .hostGrant s = .next (t.modHost (fun x =>
         let left := x.asked.filter (fun q => ! (q.1 = h && (s.arg.flag || ! q.2)))
         let next := if s.arg.flag then HalfSt.excl else HalfSt.shared
         { x with asked := left, halves := minsert x.halves h next })).pumped) ∧
     ((h, false) ∉ s.host.asked → (h, true) ∉ s.host.asked → exec .hostGrant s = .next s) ∧
     (s.host.victims.find? (fun v => v.1 = h && ! v.2.2) = none →
       let lower := fun (st : HalfSt) =>
         let t := s.modHost (fun x => { x with halves := mput .inv x.halves h st })
         match mget .inv s.host.halves h with
         | .inv => s.reply h []
         | .modif => t.replyChecked h (64 * h) 64
         | _ => t.reply h []
       exec .snpData s = .next (lower .shared) ∧ exec .snpInv s = .next ((lower .inv).dropFromL1 h)) ∧
     (∀ v, s.host.victims.find? (fun v => v.1 = h && ! v.2.2) = some v →
       let t := (s.modHost (fun x =>
         let vs := x.victims.map (fun (w : Nat × List (BitVec 8) × Bool) => if w.1 = h then (w.1, w.2.1, true) else w)
         { x with victims := vs })).reply h v.2.1
       exec .snpData s = .next t ∧ exec .snpInv s = .next t) ∧
     (∀ v, s.host.victims.find? (fun v => v.1 = h) = some v →
       exec .goWritepull s = .next (((s.modHost (fun x => { x with victims := x.victims.filter (fun w => w.1 ≠ v.1) })).reply v.1
         (if v.2.2 then [] else v.2.1)).retryEvictions))) ∧
  (∀ (s : State) (tag a n : Nat),
     (s.firstBad [(a, n)] = none → s.replyChecked tag a n = s.reply tag (s.bytes a n)) ∧
     (∀ q, s.firstBad [(a, n)] = some q → s.replyChecked tag a n = (s.mismatch 64 0xFFFFFFFF q).reply tag [])) ∧
  (∀ (s : State),
     let a := s.arg.a
     let page := pageOf a
     let serve := fun (t : State) (w : Bool) (bs : List (BitVec 8)) =>
       if w then t.hostPut a bs else t.replyChecked a (64 * (a / 64)) 64
     (s.worksFrom 2 = true →
       (s.lodge.cxl = true → a < 2 ^ 27 →
         (a ∉ s.host.hostBias → (∀ f ∈ s.host.flips, f.page ≠ a) →
           exec .biasToHost s = .next (s.modHost (fun h => { h with flips := h.flips ++ [{ page := a, toHost := true }] }))) ∧
         (a ∈ s.host.hostBias → (∀ f ∈ s.host.flips, f.page ≠ a) →
           let hs := (List.range 64).map (fun i => 64 * a + i)
           exec .biasToDevice s = .next (s.modHost (fun h => { h with
             flips := h.flips ++ [{ page := a, toHost := false, snoops := hs }]
             snoops := joinNew h.snoops (hs.map (fun x => (x, true))) })))) ∧
       (s.lodge.cxl = false ∨ 2 ^ 27 ≤ a ∨ a ∈ s.host.hostBias ∨ (∃ f ∈ s.host.flips, f.page = a) → exec .biasToHost s = .next s) ∧
       (s.lodge.cxl = false ∨ a ∉ s.host.hostBias ∨ (∃ f ∈ s.host.flips, f.page = a) → exec .biasToDevice s = .next s)) ∧
     (s.worksFrom 2 = false → exec .biasToHost s = .next s ∧ exec .biasToDevice s = .next s) ∧
     (s.lodge.cxl = true → biasPage page = true → s.worksFrom 2 = true →
       (page ∈ s.host.hostBias → exec .hostCxlMemRequest s = .next (serve s s.arg.flag s.arg.bytes)) ∧
       (page ∉ s.host.hostBias →
         let t := s.flipToHost page
         exec .hostCxlMemRequest s = .next (if t.halfDirty (halfOf a) then
             t.modFlip page (fun f => { f with heldReqs := f.heldReqs ++ [(a, s.arg.flag, s.arg.bytes)] })
           else serve t s.arg.flag s.arg.bytes))) ∧
     (let t := s.releaseHeld a
      ∀ f, t.flipOf a = some f → f.toHost = true →
       (32 ≤ f.line → (∃ i < 64, t.halfDirty (64 * a + i) = true) →
         exec .biasFlipLine s = .next (t.modFlip a (fun f => { f with line := 0 }))) ∧
       (32 ≤ f.line → (∀ i < 64, t.halfDirty (64 * a + i) = false) → exec .biasFlipLine s = .next ((t.modHost (fun h =>
         let left := h.flips.filter (fun x => x.page ≠ a)
         { h with flips := left, hostBias := joinNew h.hostBias [a] })).forgetAnswers a).pumped) ∧
       (f.line < 32 → t.heldEntry (32 * a + f.line) = none →
         exec .biasFlipLine s = .next (t.modFlip a (fun f => { f with line := f.line + 1 }))) ∧
       (∀ key e d rest, f.line < 32 → t.heldEntry (32 * a + f.line) = some (key, e) → e.fetching = false → e.writeBack = false →
         e.st = .evicting → e.waitInv = [] → e.dirty = d :: rest →
           exec .biasFlipLine s = .next ((t.setEntry key { e with dirty := rest }).releaseHeld a))) ∧
     (let r := (a, s.arg.flag)
      (r ∈ s.host.snoops →
        let t := if s.arg.bytes.length = 64 then s.hostPut (64 * a) s.arg.bytes else s
        let t := t.modHost (fun x =>
          let flips := if s.arg.flag then x.flips.map (fun (f : Flip) => { f with snoops := f.snoops.filter (· ≠ a) }) else x.flips
          { x with snoops := x.snoops.filter (· ≠ r), answered := joinNew x.answered [r], flips := flips })
        let last := t.host.flips.any (fun f => f.page = a / 64 && ! f.toHost && decide (f.snoops = []))
        exec .bisnpResponse s = .next (if last then
            (t.modHost (fun x => { x with
              flips := x.flips.filter (fun f => f.page ≠ a / 64)
              hostBias := x.hostBias.filter (· ≠ a / 64) })).forgetAnswers (a / 64)
          else t).pumped) ∧
      (r ∉ s.host.snoops → exec .bisnpResponse s = .next s)) ∧
     (s.arg.bytes ≠ [] → s.hostOwns a s.arg.bytes.length = true → exec .hostWrite s = .next (s.ingress a s.arg.bytes)) ∧
     (s.arg.bytes ≠ [] → s.hostOwns a s.arg.bytes.length = false → s.lodge.cxl = false → s.worksFrom 2 = true →
       bar2Range a s.arg.bytes.length = true → ∀ t n, n = (if a % 32 = 0 ∧ 32 ≤ s.arg.bytes.length then 32 else 4 - a % 4) →
         (s.access true { a := a, n := n } = (t, false) → exec .hostWrite s = .next (t.later .hostWrite s.arg)) ∧
         (s.access true { a := a, n := n } = (t, true) →
           let u := t.ownWrite hostPort 0 a (s.arg.bytes.take n)
           exec .hostWrite s = .next (if s.arg.bytes.length ≤ n then u
             else u.later .hostWrite { s.arg with a := a + n, bytes := s.arg.bytes.drop n }))))

/-- R370 to R373 and R180: a flit is corrected, checked, and taken in sequence once, its payload into the buffer of its lane,
or asked for again; a command of another module is served at its window and answered, or tried again while the host has not
answered; a port that goes down ends the commands and the adds that wait for a node which no port reaches any more. What the
error correction and a flit's control bytes give is open (opaque in Config, log 11: the model's choice), and so is that lanes
4 and 7 are used up as they come and that a command tried again goes to the end of what waits (logs 67 and 94, the model's
readings). R370 and R371: a flit that leaves has the layout of R370: its lane and sequence in the header, its payload, and the
CRC-32C of what stands before it; it goes to the wire and stays in the replay buffer; an acknowledgement frees what it covers,
and the rest is sent again where the peer asks for it. That a port remembers what its last flit told, so that one of link
control may leave where no other does, is the model's reading (log 94). R175 and R371: the first packet whose earlier writes
are performed and whose lane is not held off leaves, as flits of its lane at its port, which its die counts; none leaves while
no packet may. A flit for another module goes on as it is, requests by lane 5 and responses by lane 6; a port with no flit to
tell its peer of an acknowledgement or of its buffers sends one on lane 7. Where a payload names the module that it is meant
for is open (opaque in Config), and that such a flit leaves whenever there is something to tell is the model's reading (logs
11 and 94). -/
def Obligations.FabricEvents : Prop :=
  (∀ (s t : State) (st : Nat) (bs : List (BitVec 8)),
     let p := s.arg.a
     let x := s.port p
     let served := fun (vl : Nat) =>
       let port := s.arg.nats.getD 1 0
       (t.setPort port ((t.port port).take (if s.arg.flag then 5 else vl) (s.arg.nats.getD 2 0))).respond s.nextId st bs
     let again := fun (i : Instr) => { t with agenda := t.agenda ++ [(i, s.arg)] }
     (x.up = true → s.arg.bytes.length = 256 → exec .flitReceive s = .next (match Config.fecCorrect s.arg.bytes with
       | none => s.setPort p { x with replay := true }
       | some f =>
         let u := if f = s.arg.bytes then s else s.countCorrected (p / 16) 7
         let h := leNat (f.take 2)
         let y := ({ x with nextSeq := x.nextSeq + 1, replay := false, peerXoff := Config.flitXoff f } : Port).heard
           (Config.flitAck f) (Config.flitNak f)
         if (crc32c (f.take 252)).toNat ≠ leNat (f.drop 252) then u.setPort p { x with replay := true }
         else if h / 256 ≠ x.nextSeq % 256 then u
         else u.setPort p (if h % 8 = 7 then y
           else if h % 8 = 4 then { y with owes := true }
           else ({ y with owes := true, buffered := mput [] y.buffered (h % 8) (mget [] y.buffered (h % 8) ++ [(f.drop 2).take 222]) }).watch
             (h % 8)))) ∧
     (x.up = false → exec .flitReceive s = .next s) ∧
     (s.fabricOn = true →
       (s.bump.windowPut linkPort s.nextId s.arg.b s.arg.bytes = (t, some (st, bs)) → exec .remotePutArrival s = .next (served 0)) ∧
       (s.bump.windowPut linkPort s.nextId s.arg.b s.arg.bytes = (t, none) →
         exec .remotePutArrival s = .next (again .remotePutArrival)) ∧
       (s.bump.windowGet s.arg.b s.arg.c = (t, some (st, bs)) → exec .remoteGetArrival s = .next (served 1)) ∧
       (s.bump.windowGet s.arg.b s.arg.c = (t, none) → exec .remoteGetArrival s = .next (again .remoteGetArrival)) ∧
       (s.bump.windowAtomic linkPort s.nextId .update s.arg.b s.arg.c (s.arg.nats.getD 3 0) s.arg.x s.arg.y = (t, some (st, bs)) →
         exec .remoteAtomicArrival s = .next (served 1)) ∧
       (s.bump.windowAtomic linkPort s.nextId .update s.arg.b s.arg.c (s.arg.nats.getD 3 0) s.arg.x s.arg.y = (t, none) →
         exec .remoteAtomicArrival s = .next (again .remoteAtomicArrival)) ∧
       (∀ old, bs = [] → s.bump.windowAtomic linkPort s.nextId .asyncWrite s.arg.b 0 6 s.arg.x 0#64 = (t, some (st, old)) →
         exec .remoteSignalAddArrival s = .next (served 2)) ∧
       (s.bump.windowAtomic linkPort s.nextId .asyncWrite s.arg.b 0 6 s.arg.x 0#64 = (t, none) →
         exec .remoteSignalAddArrival s = .next (again .remoteSignalAddArrival))) ∧
     (s.fabricOn = false → ∀ i ∈ [Instr.remotePutArrival, .remoteGetArrival, .remoteAtomicArrival, .remoteSignalAddArrival],
       exec i s = .next s) ∧
     (let u := (s.setPort p { x with up := false }).reroute
      exec .portDown s = .next { u with
        cores := u.cores.map (fun (c : Nat × Core) =>
          (c.1, { c.2 with queues := c.2.queues.map (fun (q : Nat × List ACmd) =>
            (q.1, q.2.map (fun (a : ACmd) =>
              if a.await && decide (u.upPorts a.node = []) then { a with await := false, status := 1 } else a))) }))
        pergola := { u.pergola with remote := u.pergola.remote.filter (fun r => decide (u.upPorts r.node ≠ [])) } })) ∧
  (∀ (x : Port) (vl : Nat) (payload : List (BitVec 8)),
     let f := x.flit vl payload
     (payload.length = 222 → f.length = 256 ∧ leNat (f.take 2) % 8 = vl % 8 ∧ leNat (f.take 2) / 256 = x.sendSeq % 256 ∧
       (f.drop 2).take 222 = payload ∧ leNat (f.drop 252) = (crc32c (f.take 252)).toNat) ∧
     (x.send vl payload).sendSeq = x.sendSeq + 1 ∧ (x.send vl payload).sent = x.sent ++ [(x.sendSeq, f)] ∧
     (x.send vl payload).wire = x.wire ++ [f] ∧ (x.send vl payload).told = (x.xoff, x.replay) ∧ (x.send vl payload).owes = false ∧
     (∀ n e, e ∈ x.sent → e.1 = n → ∀ again, (∀ m, m ≤ 127 → e ∉ (x.heard (n + m) again).sent)) ∧
     (∀ ack e, e ∈ x.sent → ack < e.1 → e.1 ≤ ack + 127 → ∀ again, e ∈ (x.heard ack again).sent) ∧
     (∀ ack, (x.heard ack true).wire = x.wire ++ (x.heard ack true).sent.map (·.2)) ∧
     (∀ ack, (x.heard ack false).wire = x.wire)) ∧
  (∀ (s : State),
     let may := fun (m : RemoteOut) =>
       (m.after = 0 ∨ s.settled linkPort m.after = true) ∧ (s.port m.port).peerXoff.getLsbD m.vl = false
     (∀ front m back, s.fabric.out = front ++ m :: back → (∀ r ∈ front, ¬ may r) → may m →
       s.transmit = some (({ s with fabric := { s.fabric with out := front ++ back } } : State).sendFlits m.port m.vl m.part
         m.payloads)) ∧
     ((∀ m ∈ s.fabric.out, ¬ may m) → s.transmit = none) ∧
     (∀ t, s.forward = some t → ∃ p vl b rest q, vl ∈ [0, 1, 2, 3, 5, 6] ∧ mget [] (s.port p).buffered vl = b :: rest ∧
       Config.forwardNode b ≠ s.node ∧
       t = (s.setPort p ((s.port p).take vl 1)).sendFlits q (if vl = 3 ∨ vl = 6 then 6 else 5) 64 [b]) ∧
     (∀ t, s.control = some t → ∃ p, (s.port p).up = true ∧ (s.port p).peerXoff.getLsbD 7 = false ∧
       ((s.port p).owes = true ∨ (s.port p).told ≠ ((s.port p).xoff, (s.port p).replay)) ∧
       t = s.sendFlits p 7 64 [List.replicate 222 0#8]) ∧
     (s.control = none → ∀ p ∈ mkeys s.fabric.ports, (s.port p).up = true → (s.port p).peerXoff.getLsbD 7 = false →
       (s.port p).owes = false ∧ (s.port p).told = ((s.port p).xoff, (s.port p).replay)))

/-- R363, R378 and R379: each stage of the start runs once, in order, and fails with its cause; MGMTVEC is 0 after stage 0.
Whether an image is accepted is open (opaque in Config: the model's choice); that an event tells the outcome of training, the
die that fails, the repair list as triples and the ports that train, and how the spares of a die are counted, are the model's
choice (logs 57 and 64). R363 and R380: a write of the register window: one that is not 4 or 8 naturally aligned bytes, one at
an offset that the map does not list and one before the register's stage have no effect; the words of a register wider than 64
bits are staged until its highest-addressed word comes; else the register takes the words written, the words staged for it,
and keeps the rest. That the words staged are forgotten then, and that half of a register of 64 bits may be written by itself,
is the model's reading (log 60). R302, R319, R329, R334, R337, R357, R363, R368, R372 and R373: what a whole register takes as
it is written: DOORBELL and FLACK act, BIASCTL begins a flip, the others hold their fields, and a record that its rule turns
away stays as it was. R329, R363, R367, R380, R383 and R386: the attestation engine takes the oldest request, and answers a
report, a hand-over, or that the request is malformed, in progress or refused; its answer then shows in MBSTAT or goes out as
a DOE object; a DOE object of another vendor or type brings no request; FLACK frees the oldest entries; a host read of BAR0
gives the register's bytes, all ones where it is not allowed, and one of BAR2 the bytes at their home, all ones before stage
2. Whether an image is accepted is open (opaque in Config: the model's choice); what makes a request malformed, and the chore
that a hand-over posts, are the model's reading (logs 62 and 63); the length word of a DOE object is PCIe's (log 98,
presumed). -/
def Obligations.StartAndRegisterEvents : Prop :=
  (∀ (s : State), s.lodge.fail = false →
     (s.lodge.stage = 0 →
       let t := s.modLodge (fun l => { l with flash1 := { bytes := s.arg.bytes } })
       exec .resetRelease s =
         .next (if Config.ed448Accepts s.arg.bytes then t.modLodge (fun l => { l with stage := 1, mgmtvec := 0#32 })
           else t.startFails 1)) ∧
     (s.lodge.stage ≠ 0 → exec .resetRelease s = .next s) ∧
     (s.lodge.stage = 1 →
       let t := s.modLodge (fun l => { l with repairs := triples s.arg.nats })
       exec .stage1 s = .next (if s.arg.a = 2 ∨ s.arg.a = 3 then t.startFails s.arg.a
         else if Config.ed448Accepts s.arg.bytes then t.modLodge (fun l => { l with
           stage := 2, roots := [], committed := some { bytes := s.arg.bytes } })
         else t.startFails 4)) ∧
     (s.lodge.stage ≠ 1 → exec .stage1 s = .next s) ∧
     (s.lodge.stage = 2 →
       (∀ d < 4, (∀ e < d, s.arg.a ≠ e ∧ s.lodge.lacksSpares e = false) → s.arg.a = d ∨ s.lodge.lacksSpares d = true →
         exec .stage2 s = .next (((List.range d).foldl (fun (t : State) d => t.dieOnline d) s).startFails 5)) ∧
       ((∀ d < 4, s.arg.a ≠ d ∧ s.lodge.lacksSpares d = false) →
         let t := (List.range 4).foldl (fun (t : State) d => t.dieOnline d) s
         let u := s.arg.nats.foldl (fun (t : State) p => if p < 64 then t.setPort p { (t.port p) with up := true } else t) t
         exec .stage2 s = .next ((u.modLodge Lodge.afterStage2).modHost (fun h => { h with hostBias := [] })))) ∧
     (s.lodge.stage ≠ 2 → exec .stage2 s = .next s)) ∧
  (∀ (s : State),
     let off := s.arg.a
     let len := s.arg.b
     let v := s.arg.x
     (regAccess off len = false → exec .registerWrite s = .next s) ∧
     (s.regAt off = none → exec .registerWrite s = .next s) ∧
     (∀ r, s.regAt off = some r →
       (s.worksFrom r.stage = false → exec .registerWrite s = .next s) ∧
       (s.worksFrom r.stage = true → regAccess off len = true →
         let old := if r.wo then 0 else r.val
         let word := fun (i : Nat) => if r.base + 4 * i = off then v.toNat % 2 ^ 32
           else if len = 8 ∧ r.base + 4 * i = off + 4 then v.toNat / 2 ^ 32
           else ((mfind s.lodge.staged (r.base + 4 * i)).map (·.toNat)).getD (old / 2 ^ (32 * i) % 2 ^ 32)
         let whole := ((List.range (r.bytes / 4)).map (fun i => word i * 2 ^ (32 * i))).foldl (· + ·) 0
         let cleared := s.modLodge (fun l => { l with
           staged := l.staged.filter (fun e => ! decide (r.base ≤ e.1 ∧ e.1 < r.base + max r.bytes 8)) })
         (r.bytes ≤ 8 ∨ off + len = r.base + r.bytes → exec .registerWrite s = .next (cleared.setReg r.base whole)) ∧
         (8 < r.bytes → off + len ≠ r.base + r.bytes → ∃ m, exec .registerWrite s = .next (s.modLodge (fun l => { l with staged := m })) ∧
           mfind m off = some (BitVec.ofNat 32 (v.toNat % 2 ^ 32)) ∧
           (len = 8 → mfind m (off + 4) = some (BitVec.ofNat 32 (v.toNat / 2 ^ 32))) ∧
           ∀ k, k ≠ off → (len = 8 → k ≠ off + 4) → mfind m k = mfind s.lodge.staged k)))) ∧
  (∀ (s : State) (v i : Nat),
     let l := s.lodge
     s.setReg 0x1000 v = s.doorbell (v % 65536) ∧
     s.setReg 0x1008 v = s.modLodge (fun l => { l with qtbase := BitVec.ofNat 64 v }) ∧
     s.setReg 0x2000 v = (if 200000 ≤ v % 2 ^ 18 then s
       else s.modLodge (fun l => { l with nodeid := BitVec.ofNat 32 (v % 2 ^ 18 + 2 ^ 31 * (v / 2 ^ 31 % 2)) })) ∧
     s.setReg 0x2008 v = s.modLodge (fun l => { l with mgmtvec := BitVec.ofNat 32 v }) ∧
     s.setReg 0x3000 v = (if v / 2 ^ 63 % 2 = 1 then s.flipToHost (v / 2 ^ 12 % 2 ^ 27) else s.flipToDevice (v / 2 ^ 12 % 2 ^ 27)) ∧
     (i < 64 →
       (let p : Part := { cmask := BitVec.ofNat 160 (v / 2 ^ 96), power := v / 2 ^ 80 % 2 ^ 16, hbmsh := v / 2 ^ 64 % 2 ^ 9
                          cores := v / 2 ^ 56 % 2 ^ 8, en := decide (v % 2 = 1) }
        let away := (∃ j < 64, j ≠ i ∧ (mget {} l.parts j).cmask &&& p.cmask ≠ 0#160) ∨ 256 < p.hbmsh ∨
          (p.en = true ∧ s.contained i = true)
        (away → s.setReg (0x10000 + 32 * i) v = s) ∧
        (¬ away → s.setReg (0x10000 + 32 * i) v = s.modLodge (fun l => { l with parts := minsert l.parts i p }))) ∧
       s.setReg (0x11000 + 8 * i) v = s.modLodge (fun l => { l with stale := minsert l.stale i (BitVec.ofNat 64 v) }) ∧
       (let w : Window := { base := BitVec.ofNat 64 (v / 2 ^ 192), size := BitVec.ofNat 64 (v / 2 ^ 128 % 2 ^ 64), part := v / 2 ^ 8 % 2 ^ 6
                            atomics := decide (v / 4 % 2 = 1), write := decide (v / 2 % 2 = 1), en := decide (v % 2 = 1) }
        s.setReg (0x18000 + 32 * i) v = s.modLodge (fun l => { l with windows := minsert l.windows i w }))) ∧
     (i < 65 → s.setReg (0x12000 + 8 * i) v = s.modLodge (fun l => { l with
       roots := minsert l.roots i (BitVec.ofNat 64 v &&& 0x000FFFFFFFFFF001#64) })) ∧
     (i < 16 →
       (let x := s.dom i
        let cword := v / 2 ^ 64 % 2 ^ 64
        let flist := v / 2 ^ 6 % 2 ^ 58
        let covered := fun (a : Nat) => targetOf a = .hbm ∨ targetOf a = .host
        let away := x.occ ≠ 0 ∨ cword % 8 ≠ 0 ∨ (cword ≠ 0 ∧ ¬ covered cword) ∨ ¬ covered (64 * flist)
        (away → s.setReg (0x13000 + 64 * i) v = s) ∧
        (¬ away → s.setReg (0x13000 + 64 * i) v = s.setDom i { x with
          cword := BitVec.ofNat 64 cword, flist := BitVec.ofNat 64 flist, en := decide (v % 2 = 1) })) ∧
       (let x := s.dom i
        let k := min (v % 2 ^ 13) x.unack
        s.setReg (0x13000 + 64 * i + 32) v = s.setDom i { x with unack := x.unack - k, occ := x.occ - k }) ∧
       s.setReg (0x13000 + 64 * i + 16) v = s) ∧
     (i < 1024 →
       let old := mget {} l.regions i
       let new : Region := { old with
         state := v / 2 ^ 50 % 4, die := v / 2 ^ 48 % 4, size := v / 2 ^ 32 % 2 ^ 13, base := v / 2 ^ 16 % 2 ^ 13 }
       let away := new.state = 3 ∨ 6144 < new.base + new.size ∨ old.bcnt ≠ 0 ∨ old.state = 2 ∨
         (new.state ≠ 0 ∧ ∃ e ∈ l.regions, e.1 ≠ i ∧ e.2.state ≠ 0 ∧ e.2.die = new.die ∧
           e.2.base < new.base + new.size ∧ new.base < e.2.base + e.2.size)
       (away → s.setReg (0x14000 + 8 * i) v = s) ∧
       (¬ away → s.setReg (0x14000 + 8 * i) v = s.modLodge (fun l => { l with regions := minsert l.regions i new }))) ∧
     (i < 4096 → s.setReg (0x20000 + 8 * i) v = s.modLodge (fun l => { l with routes := minsert l.routes i (BitVec.ofNat 64 v) }))) ∧
  (∀ (s : State) (doe : Bool) (bs : List (BitVec 8)) (rest : List (Bool × List (BitVec 8))),
     let a := leNat ((bs.drop 8).take 8)
     let n := leNat ((bs.drop 16).take 4)
     (s.arg.flag = false → s.lodge.requests = (doe, bs) :: rest → s.lodge.engine = none →
       (requestOp bs = 1 → 72 ≤ bs.length →
         exec .attestationReport s = .next (s.answerRequest doe rest 0 (s.lodge.report ((bs.drop 8).take 64)))) ∧
       (requestOp bs ≠ 1 → requestOp bs ≠ 2 → exec .attestationReport s = .next (s.answerRequest doe rest 2 [])) ∧
       (requestOp bs = 2 → exec .attestationReport s = .next s) ∧
       (requestOp bs = 2 → 20 ≤ bs.length → a + n ≤ 0x8000000000 →
         (s.lodge.hoip = true → exec .handoverRequest s = .next (s.answerRequest doe rest 3 [])) ∧
         (s.lodge.hoip = false → s.worksFrom 2 = false → exec .handoverRequest s = .next (s.answerRequest doe rest 4 [])) ∧
         (s.lodge.hoip = false → s.worksFrom 2 = true → 0 < n →
           (∀ t, s.readAll 64 [{ a := a, n := n }] = (t, .ready) →
             exec .handoverRequest s = .next (if Config.ed448Accepts (t.bytes a n) then
                 ((t.modLodge (fun l => { l with pending := some { bytes := t.bytes a n }, hoip := true, switched := [] })).postChore
                   6 [0]).answerRequest doe rest 0 []
               else t.answerRequest doe rest 4 [])) ∧
           (∀ t q, s.readAll 64 [{ a := a, n := n }] = (t, .bad q) →
             exec .handoverRequest s = .next ((t.mismatch 64 0xFFFFFFFF q).answerRequest doe rest 4 [])) ∧
           (∀ t, s.readAll 64 [{ a := a, n := n }] = (t, .wait) → exec .handoverRequest s = .next (s.asked t)))) ∧
       (requestOp bs = 2 → bs.length < 20 → exec .handoverRequest s = .next (s.answerRequest doe rest 2 []))) ∧
     (s.arg.flag = true → s.lodge.engine.isSome = true →
       let b := s.arg.bytes
       (leNat (b.take 2) = 0x1E57 → leNat ((b.drop 2).take 1) = 0x01 → exec .attestationReport s = .next (s.submit true (b.drop 8))) ∧
       (leNat (b.take 2) ≠ 0x1E57 ∨ leNat ((b.drop 2).take 1) ≠ 0x01 → exec .attestationReport s = .next s)) ∧
     (∀ code out, s.lodge.engine = some (true, code, out) → exec .mailboxRequestComplete s =
       .next (s.modLodge (fun l => { l with engine := none, doeOut := l.doeOut ++ [(code,
         leBytes 2 0x1E57 ++ leBytes 2 0x01 ++ leBytes 4 ((out.length + 11) / 4) ++ padTo ((out.length + 3) / 4 * 4) out)] }))) ∧
     (∀ code out, s.lodge.engine = some (false, code, out) → exec .mailboxRequestComplete s =
       .next (s.modLodge (fun l => { l with
         engine := none, mbResp := out, mbCode := code
         mbState := if l.requests.any (fun r => ! r.1) then 1 else if code = 0 then 2 else 3 }))) ∧
     (s.worksFrom 2 = true →
       let x := s.dom (s.arg.a % 16)
       let k := min (s.arg.b % 2 ^ 13) x.unack
       exec .flack s = .next (s.setDom (s.arg.a % 16) { x with unack := x.unack - k, occ := x.occ - k })) ∧
     (s.worksFrom 2 = false → exec .flack s = .next s) ∧
     (s.arg.flag = true →
       let give := fun (v : BitVec 64) => Host.Outcome.next (s.reply s.arg.a (leBytes s.arg.b v.toNat))
       (regAccess s.arg.a s.arg.b = false → exec .hostRead s = .next (s.reply s.arg.a (List.replicate s.arg.b 0xFF#8))) ∧
       (regAccess s.arg.a s.arg.b = true →
         (s.regAt s.arg.a = none → exec .hostRead s = give 0#64) ∧
         (∀ r, s.regAt s.arg.a = some r →
           (r.wo = true ∨ s.worksFrom r.stage = false → exec .hostRead s = give 0#64) ∧
           (r.wo = false → s.worksFrom r.stage = true →
             exec .hostRead s = give (BitVec.ofNat 64 (r.val / 2 ^ (8 * (s.arg.a - r.base)) % 2 ^ (8 * s.arg.b))))))) ∧
     (s.arg.flag = false → s.lodge.cxl = false → bar2Range s.arg.a s.arg.b = true →
       (s.worksFrom 2 = false → exec .hostRead s = .next (s.reply s.arg.a (List.replicate s.arg.b 0xFF#8))) ∧
       (∀ t, s.worksFrom 2 = true → s.access false { a := s.arg.a, n := s.arg.b } = (t, true) →
         exec .hostRead s = .next (t.replyChecked s.arg.a s.arg.a s.arg.b)) ∧
       (∀ t, s.worksFrom 2 = true → s.access false { a := s.arg.a, n := s.arg.b } = (t, false) →
         exec .hostRead s = .next (t.later .hostRead s.arg))))

/-- R381, R382 and R384: the oldest request is served in two steps, its response written and then its response word raised;
each op has its effect. Two steps are the model's reading (log 61); that a core's next claim ends the chore it held is the
model's choice (log 58). R381: a request of no valid op stops its ring with status 0xFFFFFFFF, and the host is told through
MGMTVEC unless it is 0; an entry that does not match its check value is logged and stops the ring, which is the model's
reading (log 61). R381: requests of the rings stand in the order in which they come; those that come together stand behind
them in the order of their cores, which is the model's reading, as it is that the Lodge waits for the slices with the request
words (logs 61 and 67); a ring that has stopped, and one whose request word stands at what has been served, has none. -/
def Obligations.ManagementRings : Prop :=
  (∀ (s : State) (op : Nat) (i : Instr) (f : State → List (BitVec 8) → State × List (BitVec 8)),
     let n := s.arg.a
     let r := mget {} s.lodge.rings n
     let at_ := ringEntry n r.served
     let l := s.lodge
     let kept := l.claimed.filter (fun p => p.1 ≠ n)
     (i = .mgmtReadRegister ∧ op = 1 ∧ f = (fun t e => (t, leBytes 8 (t.readReg (leNat ((e.drop 8).take 4)) 8).toNat)) ∨
       i = .mgmtWriteRegister ∧ op = 2 ∧ f = (fun t e =>
         (t.writeReg (leNat ((e.drop 8).take 4)) 8 (BitVec.ofNat 64 (leNat ((e.drop 16).take 8))), [])) ∨
       i = .claimChore ∧ op = 3 ∧ f = (fun t _ =>
         if l.hoip ∧ n ∉ l.switched then (t, leBytes 8 (2 ^ 63))
         else match l.chores with
           | [] => (t.modLodge (fun l => { l with claimed := kept }), leBytes 8 0)
           | x :: rest => (t.modLodge (fun l => { l with chores := rest, claimed := kept ++ [(n, x)] }),
               leBytes 8 x.ticket ++ x.bytes)) ∨
       i = .postChore ∧ op = 4 ∧ f = (fun t e => (t.postEntry ((e.drop 8).take 24), leBytes 8 t.lodge.nextTicket)) ∨
       i = .switch ∧ op = 5 ∧ f = (fun t _ => (t.switch n, []))) →
     l.asks.head? = some n →
     (∀ t, r.after = none → s.readAll 64 [{ a := at_, n := 32 }] = (t, .ready) →
       let e := t.bytes at_ 32
       (leNat (e.take 4) = op →
         exec i s = .next (((f t.bump e).1.lodgeWrite t.nextId (at_ + 32) (f t.bump e).2).modRing n
           (fun r => { r with op := op, after := some t.nextId }))) ∧
       (leNat (e.take 4) ≠ op → exec i s = .next s)) ∧
     (∀ t, r.after = none → s.readAll 64 [{ a := at_, n := 32 }] = (t, .wait) → exec i s = .next t) ∧
     (∀ id, r.after = some id → r.op = op →
       (s.settled lodgePort id = true →
         exec i s = .next (((s.ownAdd lodgePort 0 (responseWord n) 1).modRing n
           (fun r => { r with served := r.served + 1, after := none })).modLodge (fun l => { l with asks := l.asks.drop 1 }))) ∧
       (s.settled lodgePort id = false → exec i s = .next s))) ∧
  (∀ (s : State),
     let n := s.arg.a
     let r := mget {} s.lodge.rings n
     let at_ := ringEntry n r.served
     s.lodge.asks.head? = some n → r.after = none →
     (∀ u, s.readAll 64 [{ a := at_, n := 32 }] = (u, .ready) →
       let op := leNat (u.bytes at_ 4)
       (op = 0 ∨ 5 < op →
         let t := (u.bump.lodgeWrite u.nextId (at_ + 32) (leBytes 4 0xFFFFFFFF)).stopRing n
         exec .mgmtInvalidOp s = .next (if t.lodge.mgmtvec = 0#32 then t
           else t.modHost (fun h => { h with notices := h.notices ++ [(u.nextId, t.lodge.mgmtvec)] }))) ∧
       (1 ≤ op → op ≤ 5 → exec .mgmtInvalidOp s = .next s)) ∧
     (∀ u q, s.readAll 64 [{ a := at_, n := 32 }] = (u, .bad q) →
       exec .mgmtInvalidOp s = .next ((u.mismatch 64 n q).stopRing n)) ∧
     (∀ u, s.readAll 64 [{ a := at_, n := 32 }] = (u, .wait) → exec .mgmtInvalidOp s = .next u)) ∧
  (∀ (s : State), msorted s.cores = true →
     let due := fun (n : Nat) => s.ringDue (mfrom s.mem (requestWord 0)) n
     let has := fun (n : Nat) => decide (n ∈ mkeys s.cores ∧ n < 160 ∧ due n ≠ 0)
     (∃ news, s.asksNow = s.lodge.asks.filter has ++ news ∧ news.Pairwise (· ≤ ·) ∧ ∀ n ∈ news, has n = true) ∧
     (∀ n, (mget {} s.lodge.rings n).stopped = true → due n = 0) ∧
     (∀ n, s.rangeOk (requestWord n) 8 = true → leNat (mrange 0#8 (mfrom s.mem (requestWord 0)) (requestWord n) 8) =
       (mget {} s.lodge.rings n).served % 2 ^ 64 → due n = 0) ∧
     (s.asksNow = s.lodge.asks → s.hearAsks = none) ∧
     (s.asksNow ≠ s.lodge.asks →
       let words := (onceEach (s.asksNow.filter (fun n => ¬ n ∈ s.lodge.asks))).map (fun n => ({ a := requestWord n, n := 8 } : Spot))
       (∀ t, s.readAll 64 words = (t, .ready) → s.hearAsks = some (t.modLodge (fun l => { l with asks := s.asksNow }))) ∧
       (∀ t, s.readAll 64 words = (t, .wait) → t.dir ≠ s.dir → s.hearAsks = some (s.asked t))))

end Statements
end

