-- ==== Sys2Proof/Laws/Encoding.lean ====
section
/-! SUPPORT. Fields and operand codes: what the encoder lays out is what the decoder reads. -/

namespace Sys2Proof

/-- The word that assemble lays out. -/
def wordOf (op d a b : BitVec 8) : BitVec 32 := BitVec.append op (BitVec.append d (BitVec.append a b))

theorem wordOf_toNat (op d a b : BitVec 8) :
    (wordOf op d a b).toNat = 2 ^ 24 * op.toNat + 2 ^ 16 * d.toNat + 2 ^ 8 * a.toNat + b.toNat := by
  have h1 : ∀ {m n : Nat} (x : BitVec m) (y : BitVec n), (BitVec.append x y).toNat = 2 ^ n * x.toNat + y.toNat := by
    intro m n x y
    have := BitVec.toNat_append x y
    rw [show x ++ y = BitVec.append x y from rfl] at this
    rw [this, Nat.shiftLeft_eq, Nat.mul_comm, ← Nat.two_pow_add_eq_or_of_lt y.isLt]
  unfold wordOf
  rw [h1, h1, h1]
  have := op.isLt; have := d.isLt; have := a.isLt; have := b.isLt
  omega

theorem fieldOp_wordOf (op d a b : BitVec 8) : fieldOp (wordOf op d a b) = op := by
  apply BitVec.eq_of_toNat_eq
  have := wordOf_toNat op d a b
  have := op.isLt; have := d.isLt; have := a.isLt; have := b.isLt
  simp only [fieldOp, BitVec.extractLsb'_toNat, Nat.shiftRight_eq_div_pow]
  omega

theorem fieldD_wordOf (op d a b : BitVec 8) : fieldD (wordOf op d a b) = d := by
  apply BitVec.eq_of_toNat_eq
  have := wordOf_toNat op d a b
  have := op.isLt; have := d.isLt; have := a.isLt; have := b.isLt
  simp only [fieldD, BitVec.extractLsb'_toNat, Nat.shiftRight_eq_div_pow]
  omega

theorem fieldA_wordOf (op d a b : BitVec 8) : fieldA (wordOf op d a b) = a := by
  apply BitVec.eq_of_toNat_eq
  have := wordOf_toNat op d a b
  have := op.isLt; have := d.isLt; have := a.isLt; have := b.isLt
  simp only [fieldA, BitVec.extractLsb'_toNat, Nat.shiftRight_eq_div_pow]
  omega

theorem fieldB_wordOf (op d a b : BitVec 8) : fieldB (wordOf op d a b) = b := by
  apply BitVec.eq_of_toNat_eq
  have := wordOf_toNat op d a b
  have := op.isLt; have := d.isLt; have := a.isLt; have := b.isLt
  simp only [fieldB, BitVec.extractLsb'_toNat, Nat.shiftRight_eq_div_pow]
  omega

/-- A word is the four fields that are read from it. -/
theorem wordOf_fields (w : BitVec 32) : wordOf (fieldOp w) (fieldD w) (fieldA w) (fieldB w) = w := by
  apply BitVec.eq_of_toNat_eq
  rw [wordOf_toNat]
  have := w.isLt
  simp only [fieldOp, fieldD, fieldA, fieldB, BitVec.extractLsb'_toNat, Nat.shiftRight_eq_div_pow]
  omega

/-- A source other than a literal is read from its code. -/
theorem srcOf_code {a : Src} (h : a.wf = true) (hl : ∀ w, a ≠ .lit w) : srcOf a.code = a ∧ a.code ≠ 0xFF#8 := by
  cases a with
  | vec n =>
    have hn : n < 192 := by simpa [Src.wf] using h
    have h256 : n % 256 = n := Nat.mod_eq_of_lt (by omega)
    refine ⟨by simp [Src.code, srcOf, h256, hn], fun e => ?_⟩
    have := congrArg BitVec.toNat e
    simp [Src.code] at this
    omega
  | uni n =>
    have hn : n < 60 := by simpa [Src.wf] using h
    have h256 : (192 + n) % 256 = 192 + n := Nat.mod_eq_of_lt (by omega)
    refine ⟨?_, fun e => ?_⟩
    · simp only [Src.code, srcOf, BitVec.toNat_ofNat, show (2 : Nat) ^ 8 = 256 from rfl, h256]
      rw [if_neg (by omega), if_pos (by omega), Nat.add_sub_cancel_left]
    have := congrArg BitVec.toNat e
    simp [Src.code] at this
    omega
  | zero => exact ⟨by decide, by decide⟩
  | lane => exact ⟨by decide, by decide⟩
  | resv => exact ⟨by decide, by decide⟩
  | lit w => exact absurd rfl (hl w)

/-- A destination is read from its code. -/
theorem dstOf_code {d : Dst} (h : d.wf = true) : dstOf d.code = d := by
  cases d with
  | vec n =>
    have hn : n < 192 := by simpa [Dst.wf] using h
    have h256 : n % 256 = n := Nat.mod_eq_of_lt (by omega)
    simp [Dst.code, dstOf, h256, hn]
  | uni n =>
    have hn : n < 60 := by simpa [Dst.wf] using h
    have h256 : (192 + n) % 256 = 192 + n := Nat.mod_eq_of_lt (by omega)
    simp only [Dst.code, dstOf, BitVec.toNat_ofNat, show (2 : Nat) ^ 8 = 256 from rfl, h256]
    rw [if_neg (by omega), if_pos (by omega), Nat.add_sub_cancel_left]
  | none => decide
  | bad c =>
    have hn : 0xFD ≤ c ∧ c < 0x100 := by simpa [Dst.wf] using h
    have h256 : c % 256 = c := Nat.mod_eq_of_lt (by omega)
    simp only [Dst.code, dstOf, BitVec.toNat_ofNat, show (2 : Nat) ^ 8 = 256 from rfl, h256]
    rw [if_neg (by omega), if_neg (by omega), if_neg (by omega)]

/-- A source field takes the source that was laid out, with its literal. -/
theorem takeSrc_code {a : Src} (h : a.wf = true) (ls : List (BitVec 32))
    (k : Src → List (BitVec 32) → Except DecodeError (Instr × List (BitVec 32))) :
    takeSrc a.code (a.lits ++ ls) k = k a ls := by
  by_cases hl : ∃ w, a = .lit w
  · obtain ⟨w, rfl⟩ := hl
    simp [takeSrc, Src.code, Src.lits]
  · have hc := srcOf_code h (fun w e => hl ⟨w, e⟩)
    unfold takeSrc
    rw [if_neg hc.2, hc.1]
    cases a <;> first | rfl | exact absurd ⟨_, rfl⟩ hl

/-- Decoding a word that was laid out. -/
theorem decode_assemble (op d a b : BitVec 8) (ls ws : List (BitVec 32)) {i : Instr} {rest : List (BitVec 32)}
    (h : parserOf op.toNat (wordOf op d a b) (ls ++ ws) = .ok (i, rest)) :
    decode (assemble op d a b ls ++ ws) = .ok (i, 1 + (ls ++ ws).length - rest.length) := by
  simp only [assemble, List.cons_append, decode]
  rw [show BitVec.append op (BitVec.append d (BitVec.append a b)) = wordOf op d a b from rfl, fieldOp_wordOf, h]
  simp [Nat.add_comm]

/-! The parser of each assigned opcode (R80). -/

theorem parserOf_01 : parserOf 0x01 = formZSZ .setm := rfl
theorem parserOf_02 : parserOf 0x02 = formDZZ .getm := rfl
theorem parserOf_04 : parserOf 0x04 = formZSZ .brx := rfl
theorem parserOf_05 : parserOf 0x05 = formNQ .brp := rfl
theorem parserOf_06 : parserOf 0x06 = formZZZ .meet := rfl
theorem parserOf_07 : parserOf 0x07 = formDQ .call := rfl
theorem parserOf_08 : parserOf 0x08 = formDSZ .callx := rfl
theorem parserOf_09 : parserOf 0x09 = formZSZ .ret := rfl
theorem parserOf_0A : parserOf 0x0A = formZZZ .exit := rfl
theorem parserOf_0B : parserOf 0x0B = formZZZ .done := rfl
theorem parserOf_0C : parserOf 0x0C = formZZZ .yield := rfl
theorem parserOf_0E : parserOf 0x0E = formDZZ .getexm := rfl
theorem parserOf_0F : parserOf 0x0F = formZSZ .setexm := rfl
theorem parserOf_10 : parserOf 0x10 = formZZN .trap := rfl
theorem parserOf_11 : parserOf 0x11 = formZZN .bkpt := rfl
theorem parserOf_12 : parserOf 0x12 = formDNZ .rdsr := rfl
theorem parserOf_13 : parserOf 0x13 = formNSZ .wrsr := rfl
theorem parserOf_14 : parserOf 0x14 = formDSS .iadd := rfl
theorem parserOf_15 : parserOf 0x15 = formDSS .isub := rfl
theorem parserOf_16 : parserOf 0x16 = formDSS .iaddc := rfl
theorem parserOf_17 : parserOf 0x17 = formDSS .isubb := rfl
theorem parserOf_18 : parserOf 0x18 = formDSS .imul := rfl
theorem parserOf_19 : parserOf 0x19 = formDSS .imulh := rfl
theorem parserOf_1A : parserOf 0x1A = formDSS .imad := rfl
theorem parserOf_1B : parserOf 0x1B = formDSS .imin := rfl
theorem parserOf_1C : parserOf 0x1C = formDSS .imax := rfl
theorem parserOf_1D : parserOf 0x1D = formDSZ .iabs := rfl
theorem parserOf_1E : parserOf 0x1E = formDSZ .ineg := rfl
theorem parserOf_20 : parserOf 0x20 = formDSS .and := rfl
theorem parserOf_21 : parserOf 0x21 = formDSS .or := rfl
theorem parserOf_22 : parserOf 0x22 = formDSS .xor := rfl
theorem parserOf_23 : parserOf 0x23 = formDSZ .not := rfl
theorem parserOf_24 : parserOf 0x24 = formDSS .andn := rfl
theorem parserOf_25 : parserOf 0x25 = formDSS .shl := rfl
theorem parserOf_26 : parserOf 0x26 = formDSS .shr := rfl
theorem parserOf_27 : parserOf 0x27 = formDSS .sar := rfl
theorem parserOf_28 : parserOf 0x28 = formDSS .rotl := rfl
theorem parserOf_29 : parserOf 0x29 = formDSZ .popc := rfl
theorem parserOf_2A : parserOf 0x2A = formDSZ .clz := rfl
theorem parserOf_2B : parserOf 0x2B = formDSZ .brev := rfl
theorem parserOf_2C : parserOf 0x2C = formDSS .bfx := rfl
theorem parserOf_2D : parserOf 0x2D = formDSS .bfi := rfl
theorem parserOf_2E : parserOf 0x2E = formDSS .lea := rfl
theorem parserOf_2F : parserOf 0x2F = formDSS .lea64 := rfl
theorem parserOf_30 : parserOf 0x30 = formDSZ .mov := rfl
theorem parserOf_31 : parserOf 0x31 = formDSZ .movl := rfl
theorem parserOf_32 : parserOf 0x32 = formDSS .sel := rfl
theorem parserOf_33 : parserOf 0x33 = formDSN .cvti := rfl
theorem parserOf_34 : parserOf 0x34 = formNSS .icmpeq := rfl
theorem parserOf_35 : parserOf 0x35 = formNSS .icmpne := rfl
theorem parserOf_36 : parserOf 0x36 = formNSS .icmplt := rfl
theorem parserOf_37 : parserOf 0x37 = formNSS .icmple := rfl
theorem parserOf_38 : parserOf 0x38 = formNSS .icmpltn := rfl
theorem parserOf_39 : parserOf 0x39 = formNSS .icmplen := rfl
theorem parserOf_3A : parserOf 0x3A = formNSS .fcmpeq := rfl
theorem parserOf_3B : parserOf 0x3B = formNSS .fcmpne := rfl
theorem parserOf_3C : parserOf 0x3C = formNSS .fcmplt := rfl
theorem parserOf_3D : parserOf 0x3D = formNSS .fcmple := rfl
theorem parserOf_3E : parserOf 0x3E = formNSS .fcmpun := rfl
theorem parserOf_3F : parserOf 0x3F = formNSS .fcmpord := rfl
theorem parserOf_40 : parserOf 0x40 = formNNN .pand := rfl
theorem parserOf_41 : parserOf 0x41 = formNNN .por := rfl
theorem parserOf_42 : parserOf 0x42 = formNNN .pxor := rfl
theorem parserOf_43 : parserOf 0x43 = formNNZ .pnot := rfl
theorem parserOf_44 : parserOf 0x44 = formNNZ .pmov := rfl
theorem parserOf_45 : parserOf 0x45 = formDNZ .ptov := rfl
theorem parserOf_46 : parserOf 0x46 = formNSZ .vtop := rfl
theorem parserOf_48 : parserOf 0x48 = formNNZ .voteall := rfl
theorem parserOf_49 : parserOf 0x49 = formNNZ .voteany := rfl
theorem parserOf_4A : parserOf 0x4A = formDNZ .votebal := rfl
theorem parserOf_4C : parserOf 0x4C = formDSS .shfl := rfl
theorem parserOf_4D : parserOf 0x4D = formDSS .shflup := rfl
theorem parserOf_4E : parserOf 0x4E = formDSS .shfldn := rfl
theorem parserOf_4F : parserOf 0x4F = formDSS .shflx := rfl
theorem parserOf_50 : parserOf 0x50 = formDSS .bcast := rfl
theorem parserOf_51 : parserOf 0x51 = formDSS .movvg := rfl
theorem parserOf_52 : parserOf 0x52 = formDSS .movgv := rfl
theorem parserOf_54 : parserOf 0x54 = formDSZ .gredadd := rfl
theorem parserOf_55 : parserOf 0x55 = formDSZ .gredmin := rfl
theorem parserOf_56 : parserOf 0x56 = formDSZ .gredmax := rfl
theorem parserOf_57 : parserOf 0x57 = formDSN .gscanadd := rfl
theorem parserOf_58 : parserOf 0x58 = formDSS .gcntgt := rfl
theorem parserOf_59 : parserOf 0x59 = formDSS .gsumgt := rfl
theorem parserOf_5A : parserOf 0x5A = formDSZ .gmaxred := rfl
theorem parserOf_5C : parserOf 0x5C = formDZZ .rng := rfl
theorem parserOf_5D : parserOf 0x5D = formDZZ .rngf := rfl
theorem parserOf_5E : parserOf 0x5E = formDSN .gmask := rfl
theorem parserOf_60 : parserOf 0x60 = formDSS .fadd := rfl
theorem parserOf_61 : parserOf 0x61 = formDSS .fsub := rfl
theorem parserOf_62 : parserOf 0x62 = formDSS .fmul := rfl
theorem parserOf_63 : parserOf 0x63 = formDSS .ffma := rfl
theorem parserOf_64 : parserOf 0x64 = formDSS .ffms := rfl
theorem parserOf_65 : parserOf 0x65 = formDSS .fmin := rfl
theorem parserOf_66 : parserOf 0x66 = formDSS .fmax := rfl
theorem parserOf_67 : parserOf 0x67 = formDSZ .fabs := rfl
theorem parserOf_68 : parserOf 0x68 = formDSZ .fneg := rfl
theorem parserOf_69 : parserOf 0x69 = formDSZ .fclass := rfl
theorem parserOf_6A : parserOf 0x6A = formDSS .fscale := rfl
theorem parserOf_6B : parserOf 0x6B = formDSZ .ffract := rfl
theorem parserOf_6C : parserOf 0x6C = formDSZ .ffloor := rfl
theorem parserOf_6D : parserOf 0x6D = formDSZ .fround := rfl
theorem parserOf_70 : parserOf 0x70 = formDSZ .frcp := rfl
theorem parserOf_71 : parserOf 0x71 = formDSZ .frsq := rfl
theorem parserOf_72 : parserOf 0x72 = formDSZ .fsqrt := rfl
theorem parserOf_73 : parserOf 0x73 = formDSZ .fexp2 := rfl
theorem parserOf_74 : parserOf 0x74 = formDSZ .flog2 := rfl
theorem parserOf_75 : parserOf 0x75 = formDSZ .fsin := rfl
theorem parserOf_76 : parserOf 0x76 = formDSZ .fcos := rfl
theorem parserOf_77 : parserOf 0x77 = formDSZ .ftanh := rfl
theorem parserOf_78 : parserOf 0x78 = formDSN .cvtf := rfl
theorem parserOf_79 : parserOf 0x79 = formDSN .cvtfi := rfl
theorem parserOf_7A : parserOf 0x7A = formDSN .cvtif := rfl
theorem parserOf_7B : parserOf 0x7B = formDSS .pack := rfl
theorem parserOf_7C : parserOf 0x7C = formDSN .unpack := rfl
theorem parserOf_80 : parserOf 0x80 = formDSS .hadd2 := rfl
theorem parserOf_81 : parserOf 0x81 = formDSS .hmul2 := rfl
theorem parserOf_82 : parserOf 0x82 = formDSS .hfma2 := rfl
theorem parserOf_83 : parserOf 0x83 = formDSS .fdot2 := rfl
theorem parserOf_84 : parserOf 0x84 = formDSS .fdot4 := rfl
theorem parserOf_90 : parserOf 0x90 = formDSS .ld := rfl
theorem parserOf_91 : parserOf 0x91 = formSSS .st := rfl
theorem parserOf_92 : parserOf 0x92 = formDNS .lda := rfl
theorem parserOf_93 : parserOf 0x93 = formSNS .stl := rfl
theorem parserOf_94 : parserOf 0x94 = formDSS .ldr := rfl
theorem parserOf_95 : parserOf 0x95 = formNSS .stc := rfl
theorem parserOf_96 : parserOf 0x96 = formDSS .ldg := rfl
theorem parserOf_98 : parserOf 0x98 = formDSS .lds := rfl
theorem parserOf_99 : parserOf 0x99 = formSSS .sts := rfl
theorem parserOf_9A : parserOf 0x9A = formDSN .ldw := rfl
theorem parserOf_9B : parserOf 0x9B = formDSZ .ldrow := rfl
theorem parserOf_9C : parserOf 0x9C = formZSN .pref := rfl
theorem parserOf_9D : parserOf 0x9D = formZSK [.cctlEvictL1, .cctlWriteBack] := rfl
theorem parserOf_9E : parserOf 0x9E = formZNZ .fence := rfl
theorem parserOf_A0 : parserOf 0xA0 = formDSS .atadd := rfl
theorem parserOf_A1 : parserOf 0xA1 = formDSS .atmin := rfl
theorem parserOf_A2 : parserOf 0xA2 = formDSS .atmax := rfl
theorem parserOf_A3 : parserOf 0xA3 = formDSS .atand := rfl
theorem parserOf_A4 : parserOf 0xA4 = formDSS .ator := rfl
theorem parserOf_A5 : parserOf 0xA5 = formDSS .atxor := rfl
theorem parserOf_A6 : parserOf 0xA6 = formDSS .atxch := rfl
theorem parserOf_A7 : parserOf 0xA7 = formDSS .atcas := rfl
theorem parserOf_A8 : parserOf 0xA8 = formZSS .redadd := rfl
theorem parserOf_A9 : parserOf 0xA9 = formZSS .redmin := rfl
theorem parserOf_AA : parserOf 0xAA = formZSS .redmax := rfl
theorem parserOf_AB : parserOf 0xAB = formZSS .redand := rfl
theorem parserOf_AC : parserOf 0xAC = formZSS .redor := rfl
theorem parserOf_AD : parserOf 0xAD = formZSS .redxor := rfl
theorem parserOf_AE : parserOf 0xAE = formDSN .vradd := rfl
theorem parserOf_AF : parserOf 0xAF = formDSN .vrmax := rfl
theorem parserOf_B0 : parserOf 0xB0 = formNNN .acpy := rfl
theorem parserOf_B1 : parserOf 0xB1 = formNNN .acpys := rfl
theorem parserOf_B2 : parserOf 0xB2 = formNNS .agath := rfl
theorem parserOf_B3 : parserOf 0xB3 = formNNS .ascat := rfl
theorem parserOf_B4 : parserOf 0xB4 = formNNN .rput := rfl
theorem parserOf_B5 : parserOf 0xB5 = formNNN .rget := rfl
theorem parserOf_B6 : parserOf 0xB6 = formNNN .ratom := rfl
theorem parserOf_B7 : parserOf 0xB7 = formNNZ .aqfence := rfl
theorem parserOf_B8 : parserOf 0xB8 = formNSZ .waitc := rfl
theorem parserOf_B9 : parserOf 0xB9 = formNNN .wsig := rfl
theorem parserOf_BA : parserOf 0xBA = formNNN .sigadd := rfl
theorem parserOf_BB : parserOf 0xBB = formNSS .sigwait := rfl
theorem parserOf_C0 : parserOf 0xC0 = formNSZ .tset := rfl
theorem parserOf_C1 : parserOf 0xC1 = formDNZ .tget := rfl
theorem parserOf_C2 : parserOf 0xC2 = formDNS .tldsc := rfl
theorem parserOf_C3 : parserOf 0xC3 = formSNS .tstsc := rfl
theorem parserOf_C4 : parserOf 0xC4 = formNNS .mma := rfl
theorem parserOf_C5 : parserOf 0xC5 = formNNS .mma2 := rfl
theorem parserOf_C6 : parserOf 0xC6 = formNNS .mmat := rfl
theorem parserOf_C7 : parserOf 0xC7 = formNNZ .ttrans := rfl
theorem parserOf_C8 : parserOf 0xC8 = formNNS .tperm := rfl
theorem parserOf_C9 : parserOf 0xC9 = formNNN .trsum := rfl
theorem parserOf_CA : parserOf 0xCA = formNZN .aclr := rfl
theorem parserOf_CB : parserOf 0xCB = formNNN .ald := rfl
theorem parserOf_CC : parserOf 0xCC = formNNN .ast := rfl
theorem parserOf_CD : parserOf 0xCD = formDNS .ard := rfl
theorem parserOf_CE : parserOf 0xCE = formNSS .awr := rfl
theorem parserOf_CF : parserOf 0xCF = formNNN .adrain := rfl
theorem parserOf_D0 : parserOf 0xD0 = formNDN .acqa := rfl
theorem parserOf_D1 : parserOf 0xD1 = formNZN .rela := rfl
theorem parserOf_D8 : parserOf 0xD8 = formDSN .sxopen := rfl
theorem parserOf_D9 : parserOf 0xD9 = formNSS .sxappend := rfl
theorem parserOf_DA : parserOf 0xDA = formDSD .sxmatch := rfl
theorem parserOf_DB : parserOf 0xDB = formDZN .sxstat := rfl
theorem parserOf_DC : parserOf 0xDC = formZSZ .sxsave := rfl
theorem parserOf_DD : parserOf 0xDD = formDSZ .sxload := rfl
theorem parserOf_DE : parserOf 0xDE = formZZN .sxclose := rfl
theorem parserOf_DF : parserOf 0xDF = formDSZ .sxdepth := rfl
theorem parserOf_E0 : parserOf 0xE0 = formZZZ .rsenter := rfl
theorem parserOf_E1 : parserOf 0xE1 = formZZZ .rsleave := rfl
theorem parserOf_E2 : parserOf 0xE2 = formSSZ .publish := rfl
theorem parserOf_E3 : parserOf 0xE3 = formDNZ .retire := rfl
theorem parserOf_E4 : parserOf 0xE4 = formZSZ .gpwait := rfl
theorem parserOf_E5 : parserOf 0xE5 = formDZN .gpstat := rfl
theorem parserOf_E8 : parserOf 0xE8 = formZZN .bararr := rfl
theorem parserOf_E9 : parserOf 0xE9 = formZZN .barwait := rfl
theorem parserOf_EA : parserOf 0xEA = formZZN .barsync := rfl
theorem parserOf_EB : parserOf 0xEB = formZSN .pbarr := rfl
theorem parserOf_EC : parserOf 0xEC = formZSS .pbwait := rfl
theorem parserOf_ED : parserOf 0xED = formNNN .evroute := rfl
theorem parserOf_EE : parserOf 0xEE = formZZN .evpost := rfl
theorem parserOf_EF : parserOf 0xEF = formZZN .evwait := rfl
theorem parserOf_F0 : parserOf 0xF0 = formZSZ .eret := rfl
theorem parserOf_F1 : parserOf 0xF1 = formZSN .tlbinv := rfl
theorem parserOf_F2 : parserOf 0xF2 = formDSS .ctxst := rfl
theorem parserOf_F3 : parserOf 0xF3 = formDSZ .ctxld := rfl
theorem parserOf_F4 : parserOf 0xF4 = formZZK [.haltcWaitTrapLine, .haltcHaltCrews, .haltcResumeCrews] := rfl
theorem parserOf_F5 : parserOf 0xF5 = formZSK [.slotcfgResume, .slotcfgSkipResume, .slotcfgKill, .slotcfgRingBase, .slotcfgTrapVector, .slotcfgStopCrew] := rfl

end Sys2Proof
end

