-- ==== Sys2Proof/Laws/Exec.lean ====
section
/-! SUPPORT. The dispatch, constructor by constructor: each instruction is its meaning. -/

namespace Sys2Proof.Machine

@[simp] theorem exec_nop (x : BitVec 24) (s : State) : exec (.nop x) s = execNop x s := rfl
@[simp] theorem exec_setm (a : Src) (s : State) : exec (.setm a) s = execSetm a s := rfl
@[simp] theorem exec_getm (d : Dst) (s : State) : exec (.getm d) s = execGetm d s := rfl
@[simp] theorem exec_bra (t : BitVec 24) (s : State) : exec (.bra t) s = execBra t s := rfl
@[simp] theorem exec_brx (a : Src) (s : State) : exec (.brx a) s = execBrx a s := rfl
@[simp] theorem exec_brp (d : BitVec 8) (disp : BitVec 16) (s : State) : exec (.brp d disp) s = execBrp d disp s := rfl
@[simp] theorem exec_meet (s : State) : exec .meet s = execMeet s := rfl
@[simp] theorem exec_call (d : Dst) (disp : BitVec 16) (s : State) : exec (.call d disp) s = execCall d disp s := rfl
@[simp] theorem exec_callx (d : Dst) (a : Src) (s : State) : exec (.callx d a) s = execCallx d a s := rfl
@[simp] theorem exec_ret (a : Src) (s : State) : exec (.ret a) s = execRet a s := rfl
@[simp] theorem exec_exit (s : State) : exec .exit s = execExit s := rfl
@[simp] theorem exec_done (s : State) : exec .done s = execDone s := rfl
@[simp] theorem exec_yield (s : State) : exec .yield s = execYield s := rfl
@[simp] theorem exec_regroup (t : BitVec 24) (s : State) : exec (.regroup t) s = execRegroup t s := rfl
@[simp] theorem exec_getexm (d : Dst) (s : State) : exec (.getexm d) s = execGetexm d s := rfl
@[simp] theorem exec_setexm (a : Src) (s : State) : exec (.setexm a) s = execSetexm a s := rfl
@[simp] theorem exec_trap (b : BitVec 8) (s : State) : exec (.trap b) s = execTrap b s := rfl
@[simp] theorem exec_bkpt (b : BitVec 8) (s : State) : exec (.bkpt b) s = execBkpt b s := rfl
@[simp] theorem exec_rdsr (d : Dst) (a : BitVec 8) (s : State) : exec (.rdsr d a) s = execRdsr d a s := rfl
@[simp] theorem exec_wrsr (d : BitVec 8) (a : Src) (s : State) : exec (.wrsr d a) s = execWrsr d a s := rfl
@[simp] theorem exec_iadd (d : Dst) (a : Src) (b : Src) (s : State) : exec (.iadd d a b) s = execIadd d a b s := rfl
@[simp] theorem exec_isub (d : Dst) (a : Src) (b : Src) (s : State) : exec (.isub d a b) s = execIsub d a b s := rfl
@[simp] theorem exec_iaddc (d : Dst) (a : Src) (b : Src) (s : State) : exec (.iaddc d a b) s = execIaddc d a b s := rfl
@[simp] theorem exec_isubb (d : Dst) (a : Src) (b : Src) (s : State) : exec (.isubb d a b) s = execIsubb d a b s := rfl
@[simp] theorem exec_imul (d : Dst) (a : Src) (b : Src) (s : State) : exec (.imul d a b) s = execImul d a b s := rfl
@[simp] theorem exec_imulh (d : Dst) (a : Src) (b : Src) (s : State) : exec (.imulh d a b) s = execImulh d a b s := rfl
@[simp] theorem exec_imad (d : Dst) (a : Src) (b : Src) (s : State) : exec (.imad d a b) s = execImad d a b s := rfl
@[simp] theorem exec_imin (d : Dst) (a : Src) (b : Src) (s : State) : exec (.imin d a b) s = execImin d a b s := rfl
@[simp] theorem exec_imax (d : Dst) (a : Src) (b : Src) (s : State) : exec (.imax d a b) s = execImax d a b s := rfl
@[simp] theorem exec_iabs (d : Dst) (a : Src) (s : State) : exec (.iabs d a) s = execIabs d a s := rfl
@[simp] theorem exec_ineg (d : Dst) (a : Src) (s : State) : exec (.ineg d a) s = execIneg d a s := rfl
@[simp] theorem exec_and (d : Dst) (a : Src) (b : Src) (s : State) : exec (.and d a b) s = execAnd d a b s := rfl
@[simp] theorem exec_or (d : Dst) (a : Src) (b : Src) (s : State) : exec (.or d a b) s = execOr d a b s := rfl
@[simp] theorem exec_xor (d : Dst) (a : Src) (b : Src) (s : State) : exec (.xor d a b) s = execXor d a b s := rfl
@[simp] theorem exec_not (d : Dst) (a : Src) (s : State) : exec (.not d a) s = execNot d a s := rfl
@[simp] theorem exec_andn (d : Dst) (a : Src) (b : Src) (s : State) : exec (.andn d a b) s = execAndn d a b s := rfl
@[simp] theorem exec_shl (d : Dst) (a : Src) (b : Src) (s : State) : exec (.shl d a b) s = execShl d a b s := rfl
@[simp] theorem exec_shr (d : Dst) (a : Src) (b : Src) (s : State) : exec (.shr d a b) s = execShr d a b s := rfl
@[simp] theorem exec_sar (d : Dst) (a : Src) (b : Src) (s : State) : exec (.sar d a b) s = execSar d a b s := rfl
@[simp] theorem exec_rotl (d : Dst) (a : Src) (b : Src) (s : State) : exec (.rotl d a b) s = execRotl d a b s := rfl
@[simp] theorem exec_popc (d : Dst) (a : Src) (s : State) : exec (.popc d a) s = execPopc d a s := rfl
@[simp] theorem exec_clz (d : Dst) (a : Src) (s : State) : exec (.clz d a) s = execClz d a s := rfl
@[simp] theorem exec_brev (d : Dst) (a : Src) (s : State) : exec (.brev d a) s = execBrev d a s := rfl
@[simp] theorem exec_bfx (d : Dst) (a : Src) (b : Src) (s : State) : exec (.bfx d a b) s = execBfx d a b s := rfl
@[simp] theorem exec_bfi (d : Dst) (a : Src) (b : Src) (s : State) : exec (.bfi d a b) s = execBfi d a b s := rfl
@[simp] theorem exec_lea (d : Dst) (a : Src) (b : Src) (s : State) : exec (.lea d a b) s = execLea d a b s := rfl
@[simp] theorem exec_lea64 (d : Dst) (a : Src) (b : Src) (s : State) : exec (.lea64 d a b) s = execLea64 d a b s := rfl
@[simp] theorem exec_mov (d : Dst) (a : Src) (s : State) : exec (.mov d a) s = execMov d a s := rfl
@[simp] theorem exec_movl (d : Dst) (a : Src) (s : State) : exec (.movl d a) s = execMovl d a s := rfl
@[simp] theorem exec_sel (d : Dst) (a : Src) (b : Src) (s : State) : exec (.sel d a b) s = execSel d a b s := rfl
@[simp] theorem exec_cvti (d : Dst) (a : Src) (b : BitVec 8) (s : State) : exec (.cvti d a b) s = execCvti d a b s := rfl
@[simp] theorem exec_icmpeq (d : BitVec 8) (a : Src) (b : Src) (s : State) : exec (.icmpeq d a b) s = execIcmpeq d a b s := rfl
@[simp] theorem exec_icmpne (d : BitVec 8) (a : Src) (b : Src) (s : State) : exec (.icmpne d a b) s = execIcmpne d a b s := rfl
@[simp] theorem exec_icmplt (d : BitVec 8) (a : Src) (b : Src) (s : State) : exec (.icmplt d a b) s = execIcmplt d a b s := rfl
@[simp] theorem exec_icmple (d : BitVec 8) (a : Src) (b : Src) (s : State) : exec (.icmple d a b) s = execIcmple d a b s := rfl
@[simp] theorem exec_icmpltn (d : BitVec 8) (a : Src) (b : Src) (s : State) : exec (.icmpltn d a b) s = execIcmpltn d a b s := rfl
@[simp] theorem exec_icmplen (d : BitVec 8) (a : Src) (b : Src) (s : State) : exec (.icmplen d a b) s = execIcmplen d a b s := rfl
@[simp] theorem exec_fcmpeq (d : BitVec 8) (a : Src) (b : Src) (s : State) : exec (.fcmpeq d a b) s = execFcmpeq d a b s := rfl
@[simp] theorem exec_fcmpne (d : BitVec 8) (a : Src) (b : Src) (s : State) : exec (.fcmpne d a b) s = execFcmpne d a b s := rfl
@[simp] theorem exec_fcmplt (d : BitVec 8) (a : Src) (b : Src) (s : State) : exec (.fcmplt d a b) s = execFcmplt d a b s := rfl
@[simp] theorem exec_fcmple (d : BitVec 8) (a : Src) (b : Src) (s : State) : exec (.fcmple d a b) s = execFcmple d a b s := rfl
@[simp] theorem exec_fcmpun (d : BitVec 8) (a : Src) (b : Src) (s : State) : exec (.fcmpun d a b) s = execFcmpun d a b s := rfl
@[simp] theorem exec_fcmpord (d : BitVec 8) (a : Src) (b : Src) (s : State) : exec (.fcmpord d a b) s = execFcmpord d a b s := rfl
@[simp] theorem exec_pand (d : BitVec 8) (a : BitVec 8) (b : BitVec 8) (s : State) : exec (.pand d a b) s = execPand d a b s := rfl
@[simp] theorem exec_por (d : BitVec 8) (a : BitVec 8) (b : BitVec 8) (s : State) : exec (.por d a b) s = execPor d a b s := rfl
@[simp] theorem exec_pxor (d : BitVec 8) (a : BitVec 8) (b : BitVec 8) (s : State) : exec (.pxor d a b) s = execPxor d a b s := rfl
@[simp] theorem exec_pnot (d : BitVec 8) (a : BitVec 8) (s : State) : exec (.pnot d a) s = execPnot d a s := rfl
@[simp] theorem exec_pmov (d : BitVec 8) (a : BitVec 8) (s : State) : exec (.pmov d a) s = execPmov d a s := rfl
@[simp] theorem exec_ptov (d : Dst) (a : BitVec 8) (s : State) : exec (.ptov d a) s = execPtov d a s := rfl
@[simp] theorem exec_vtop (d : BitVec 8) (a : Src) (s : State) : exec (.vtop d a) s = execVtop d a s := rfl
@[simp] theorem exec_voteall (d : BitVec 8) (a : BitVec 8) (s : State) : exec (.voteall d a) s = execVoteall d a s := rfl
@[simp] theorem exec_voteany (d : BitVec 8) (a : BitVec 8) (s : State) : exec (.voteany d a) s = execVoteany d a s := rfl
@[simp] theorem exec_votebal (d : Dst) (a : BitVec 8) (s : State) : exec (.votebal d a) s = execVotebal d a s := rfl
@[simp] theorem exec_shfl (d : Dst) (a : Src) (b : Src) (s : State) : exec (.shfl d a b) s = execShfl d a b s := rfl
@[simp] theorem exec_shflup (d : Dst) (a : Src) (b : Src) (s : State) : exec (.shflup d a b) s = execShflup d a b s := rfl
@[simp] theorem exec_shfldn (d : Dst) (a : Src) (b : Src) (s : State) : exec (.shfldn d a b) s = execShfldn d a b s := rfl
@[simp] theorem exec_shflx (d : Dst) (a : Src) (b : Src) (s : State) : exec (.shflx d a b) s = execShflx d a b s := rfl
@[simp] theorem exec_bcast (d : Dst) (a : Src) (b : Src) (s : State) : exec (.bcast d a b) s = execBcast d a b s := rfl
@[simp] theorem exec_movvg (d : Dst) (a : Src) (b : Src) (s : State) : exec (.movvg d a b) s = execMovvg d a b s := rfl
@[simp] theorem exec_movgv (d : Dst) (a : Src) (b : Src) (s : State) : exec (.movgv d a b) s = execMovgv d a b s := rfl
@[simp] theorem exec_gredadd (d : Dst) (a : Src) (s : State) : exec (.gredadd d a) s = execGredadd d a s := rfl
@[simp] theorem exec_gredmin (d : Dst) (a : Src) (s : State) : exec (.gredmin d a) s = execGredmin d a s := rfl
@[simp] theorem exec_gredmax (d : Dst) (a : Src) (s : State) : exec (.gredmax d a) s = execGredmax d a s := rfl
@[simp] theorem exec_gscanadd (d : Dst) (a : Src) (b : BitVec 8) (s : State) : exec (.gscanadd d a b) s = execGscanadd d a b s := rfl
@[simp] theorem exec_gcntgt (d : Dst) (a : Src) (b : Src) (s : State) : exec (.gcntgt d a b) s = execGcntgt d a b s := rfl
@[simp] theorem exec_gsumgt (d : Dst) (a : Src) (b : Src) (s : State) : exec (.gsumgt d a b) s = execGsumgt d a b s := rfl
@[simp] theorem exec_gmaxred (d : Dst) (a : Src) (s : State) : exec (.gmaxred d a) s = execGmaxred d a s := rfl
@[simp] theorem exec_rng (d : Dst) (s : State) : exec (.rng d) s = execRng d s := rfl
@[simp] theorem exec_rngf (d : Dst) (s : State) : exec (.rngf d) s = execRngf d s := rfl
@[simp] theorem exec_gmask (d : Dst) (a : Src) (b : BitVec 8) (s : State) : exec (.gmask d a b) s = execGmask d a b s := rfl
@[simp] theorem exec_fadd (d : Dst) (a : Src) (b : Src) (s : State) : exec (.fadd d a b) s = execFadd d a b s := rfl
@[simp] theorem exec_fsub (d : Dst) (a : Src) (b : Src) (s : State) : exec (.fsub d a b) s = execFsub d a b s := rfl
@[simp] theorem exec_fmul (d : Dst) (a : Src) (b : Src) (s : State) : exec (.fmul d a b) s = execFmul d a b s := rfl
@[simp] theorem exec_ffma (d : Dst) (a : Src) (b : Src) (s : State) : exec (.ffma d a b) s = execFfma d a b s := rfl
@[simp] theorem exec_ffms (d : Dst) (a : Src) (b : Src) (s : State) : exec (.ffms d a b) s = execFfms d a b s := rfl
@[simp] theorem exec_fmin (d : Dst) (a : Src) (b : Src) (s : State) : exec (.fmin d a b) s = execFmin d a b s := rfl
@[simp] theorem exec_fmax (d : Dst) (a : Src) (b : Src) (s : State) : exec (.fmax d a b) s = execFmax d a b s := rfl
@[simp] theorem exec_fabs (d : Dst) (a : Src) (s : State) : exec (.fabs d a) s = execFabs d a s := rfl
@[simp] theorem exec_fneg (d : Dst) (a : Src) (s : State) : exec (.fneg d a) s = execFneg d a s := rfl
@[simp] theorem exec_fclass (d : Dst) (a : Src) (s : State) : exec (.fclass d a) s = execFclass d a s := rfl
@[simp] theorem exec_fscale (d : Dst) (a : Src) (b : Src) (s : State) : exec (.fscale d a b) s = execFscale d a b s := rfl
@[simp] theorem exec_ffract (d : Dst) (a : Src) (s : State) : exec (.ffract d a) s = execFfract d a s := rfl
@[simp] theorem exec_ffloor (d : Dst) (a : Src) (s : State) : exec (.ffloor d a) s = execFfloor d a s := rfl
@[simp] theorem exec_fround (d : Dst) (a : Src) (s : State) : exec (.fround d a) s = execFround d a s := rfl
@[simp] theorem exec_frcp (d : Dst) (a : Src) (s : State) : exec (.frcp d a) s = execFrcp d a s := rfl
@[simp] theorem exec_frsq (d : Dst) (a : Src) (s : State) : exec (.frsq d a) s = execFrsq d a s := rfl
@[simp] theorem exec_fsqrt (d : Dst) (a : Src) (s : State) : exec (.fsqrt d a) s = execFsqrt d a s := rfl
@[simp] theorem exec_fexp2 (d : Dst) (a : Src) (s : State) : exec (.fexp2 d a) s = execFexp2 d a s := rfl
@[simp] theorem exec_flog2 (d : Dst) (a : Src) (s : State) : exec (.flog2 d a) s = execFlog2 d a s := rfl
@[simp] theorem exec_fsin (d : Dst) (a : Src) (s : State) : exec (.fsin d a) s = execFsin d a s := rfl
@[simp] theorem exec_fcos (d : Dst) (a : Src) (s : State) : exec (.fcos d a) s = execFcos d a s := rfl
@[simp] theorem exec_ftanh (d : Dst) (a : Src) (s : State) : exec (.ftanh d a) s = execFtanh d a s := rfl
@[simp] theorem exec_cvtf (d : Dst) (a : Src) (b : BitVec 8) (s : State) : exec (.cvtf d a b) s = execCvtf d a b s := rfl
@[simp] theorem exec_cvtfi (d : Dst) (a : Src) (b : BitVec 8) (s : State) : exec (.cvtfi d a b) s = execCvtfi d a b s := rfl
@[simp] theorem exec_cvtif (d : Dst) (a : Src) (b : BitVec 8) (s : State) : exec (.cvtif d a b) s = execCvtif d a b s := rfl
@[simp] theorem exec_pack (d : Dst) (a : Src) (b : Src) (s : State) : exec (.pack d a b) s = execPack d a b s := rfl
@[simp] theorem exec_unpack (d : Dst) (a : Src) (b : BitVec 8) (s : State) : exec (.unpack d a b) s = execUnpack d a b s := rfl
@[simp] theorem exec_hadd2 (d : Dst) (a : Src) (b : Src) (s : State) : exec (.hadd2 d a b) s = execHadd2 d a b s := rfl
@[simp] theorem exec_hmul2 (d : Dst) (a : Src) (b : Src) (s : State) : exec (.hmul2 d a b) s = execHmul2 d a b s := rfl
@[simp] theorem exec_hfma2 (d : Dst) (a : Src) (b : Src) (s : State) : exec (.hfma2 d a b) s = execHfma2 d a b s := rfl
@[simp] theorem exec_fdot2 (d : Dst) (a : Src) (b : Src) (s : State) : exec (.fdot2 d a b) s = execFdot2 d a b s := rfl
@[simp] theorem exec_fdot4 (d : Dst) (a : Src) (b : Src) (s : State) : exec (.fdot4 d a b) s = execFdot4 d a b s := rfl
@[simp] theorem exec_ld (d : Dst) (a : Src) (b : Src) (s : State) : exec (.ld d a b) s = execLd d a b s := rfl
@[simp] theorem exec_st (d : Src) (a : Src) (b : Src) (s : State) : exec (.st d a b) s = execSt d a b s := rfl
@[simp] theorem exec_lda (d : Dst) (a : BitVec 8) (b : Src) (s : State) : exec (.lda d a b) s = execLda d a b s := rfl
@[simp] theorem exec_stl (d : Src) (a : BitVec 8) (b : Src) (s : State) : exec (.stl d a b) s = execStl d a b s := rfl
@[simp] theorem exec_ldr (d : Dst) (a : Src) (b : Src) (s : State) : exec (.ldr d a b) s = execLdr d a b s := rfl
@[simp] theorem exec_stc (d : BitVec 8) (a : Src) (b : Src) (s : State) : exec (.stc d a b) s = execStc d a b s := rfl
@[simp] theorem exec_ldg (d : Dst) (a : Src) (b : Src) (s : State) : exec (.ldg d a b) s = execLdg d a b s := rfl
@[simp] theorem exec_lds (d : Dst) (a : Src) (b : Src) (s : State) : exec (.lds d a b) s = execLds d a b s := rfl
@[simp] theorem exec_sts (d : Src) (a : Src) (b : Src) (s : State) : exec (.sts d a b) s = execSts d a b s := rfl
@[simp] theorem exec_ldw (d : Dst) (a : Src) (b : BitVec 8) (s : State) : exec (.ldw d a b) s = execLdw d a b s := rfl
@[simp] theorem exec_ldrow (d : Dst) (a : Src) (s : State) : exec (.ldrow d a) s = execLdrow d a s := rfl
@[simp] theorem exec_pref (a : Src) (b : BitVec 8) (s : State) : exec (.pref a b) s = execPref a b s := rfl
@[simp] theorem exec_cctlEvictL1 (a : Src) (s : State) : exec (.cctlEvictL1 a) s = execCctlEvictL1 a s := rfl
@[simp] theorem exec_cctlWriteBack (a : Src) (s : State) : exec (.cctlWriteBack a) s = execCctlWriteBack a s := rfl
@[simp] theorem exec_fence (a : BitVec 8) (s : State) : exec (.fence a) s = execFence a s := rfl
@[simp] theorem exec_atadd (d : Dst) (a : Src) (b : Src) (s : State) : exec (.atadd d a b) s = execAtadd d a b s := rfl
@[simp] theorem exec_atmin (d : Dst) (a : Src) (b : Src) (s : State) : exec (.atmin d a b) s = execAtmin d a b s := rfl
@[simp] theorem exec_atmax (d : Dst) (a : Src) (b : Src) (s : State) : exec (.atmax d a b) s = execAtmax d a b s := rfl
@[simp] theorem exec_atand (d : Dst) (a : Src) (b : Src) (s : State) : exec (.atand d a b) s = execAtand d a b s := rfl
@[simp] theorem exec_ator (d : Dst) (a : Src) (b : Src) (s : State) : exec (.ator d a b) s = execAtor d a b s := rfl
@[simp] theorem exec_atxor (d : Dst) (a : Src) (b : Src) (s : State) : exec (.atxor d a b) s = execAtxor d a b s := rfl
@[simp] theorem exec_atxch (d : Dst) (a : Src) (b : Src) (s : State) : exec (.atxch d a b) s = execAtxch d a b s := rfl
@[simp] theorem exec_atcas (d : Dst) (a : Src) (b : Src) (s : State) : exec (.atcas d a b) s = execAtcas d a b s := rfl
@[simp] theorem exec_redadd (a : Src) (b : Src) (s : State) : exec (.redadd a b) s = execRedadd a b s := rfl
@[simp] theorem exec_redmin (a : Src) (b : Src) (s : State) : exec (.redmin a b) s = execRedmin a b s := rfl
@[simp] theorem exec_redmax (a : Src) (b : Src) (s : State) : exec (.redmax a b) s = execRedmax a b s := rfl
@[simp] theorem exec_redand (a : Src) (b : Src) (s : State) : exec (.redand a b) s = execRedand a b s := rfl
@[simp] theorem exec_redor (a : Src) (b : Src) (s : State) : exec (.redor a b) s = execRedor a b s := rfl
@[simp] theorem exec_redxor (a : Src) (b : Src) (s : State) : exec (.redxor a b) s = execRedxor a b s := rfl
@[simp] theorem exec_vradd (d : Dst) (a : Src) (b : BitVec 8) (s : State) : exec (.vradd d a b) s = execVradd d a b s := rfl
@[simp] theorem exec_vrmax (d : Dst) (a : Src) (b : BitVec 8) (s : State) : exec (.vrmax d a b) s = execVrmax d a b s := rfl
@[simp] theorem exec_acpy (d : BitVec 8) (a : BitVec 8) (b : BitVec 8) (s : State) : exec (.acpy d a b) s = execAcpy d a b s := rfl
@[simp] theorem exec_acpys (d : BitVec 8) (a : BitVec 8) (b : BitVec 8) (s : State) : exec (.acpys d a b) s = execAcpys d a b s := rfl
@[simp] theorem exec_agath (d : BitVec 8) (a : BitVec 8) (b : Src) (s : State) : exec (.agath d a b) s = execAgath d a b s := rfl
@[simp] theorem exec_ascat (d : BitVec 8) (a : BitVec 8) (b : Src) (s : State) : exec (.ascat d a b) s = execAscat d a b s := rfl
@[simp] theorem exec_rput (d : BitVec 8) (a : BitVec 8) (b : BitVec 8) (s : State) : exec (.rput d a b) s = execRput d a b s := rfl
@[simp] theorem exec_rget (d : BitVec 8) (a : BitVec 8) (b : BitVec 8) (s : State) : exec (.rget d a b) s = execRget d a b s := rfl
@[simp] theorem exec_ratom (d : BitVec 8) (a : BitVec 8) (b : BitVec 8) (s : State) : exec (.ratom d a b) s = execRatom d a b s := rfl
@[simp] theorem exec_aqfence (d : BitVec 8) (a : BitVec 8) (s : State) : exec (.aqfence d a) s = execAqfence d a s := rfl
@[simp] theorem exec_waitc (d : BitVec 8) (a : Src) (s : State) : exec (.waitc d a) s = execWaitc d a s := rfl
@[simp] theorem exec_wsig (d : BitVec 8) (a : BitVec 8) (b : BitVec 8) (s : State) : exec (.wsig d a b) s = execWsig d a b s := rfl
@[simp] theorem exec_sigadd (d : BitVec 8) (a : BitVec 8) (b : BitVec 8) (s : State) : exec (.sigadd d a b) s = execSigadd d a b s := rfl
@[simp] theorem exec_sigwait (d : BitVec 8) (a : Src) (b : Src) (s : State) : exec (.sigwait d a b) s = execSigwait d a b s := rfl
@[simp] theorem exec_tset (d : BitVec 8) (a : Src) (s : State) : exec (.tset d a) s = execTset d a s := rfl
@[simp] theorem exec_tget (d : Dst) (a : BitVec 8) (s : State) : exec (.tget d a) s = execTget d a s := rfl
@[simp] theorem exec_tldsc (d : Dst) (a : BitVec 8) (b : Src) (s : State) : exec (.tldsc d a b) s = execTldsc d a b s := rfl
@[simp] theorem exec_tstsc (d : Src) (a : BitVec 8) (b : Src) (s : State) : exec (.tstsc d a b) s = execTstsc d a b s := rfl
@[simp] theorem exec_mma (d : BitVec 8) (a : BitVec 8) (b : Src) (s : State) : exec (.mma d a b) s = execMma d a b s := rfl
@[simp] theorem exec_mma2 (d : BitVec 8) (a : BitVec 8) (b : Src) (s : State) : exec (.mma2 d a b) s = execMma2 d a b s := rfl
@[simp] theorem exec_mmat (d : BitVec 8) (a : BitVec 8) (b : Src) (s : State) : exec (.mmat d a b) s = execMmat d a b s := rfl
@[simp] theorem exec_ttrans (d : BitVec 8) (a : BitVec 8) (s : State) : exec (.ttrans d a) s = execTtrans d a s := rfl
@[simp] theorem exec_tperm (d : BitVec 8) (a : BitVec 8) (b : Src) (s : State) : exec (.tperm d a b) s = execTperm d a b s := rfl
@[simp] theorem exec_trsum (d : BitVec 8) (a : BitVec 8) (b : BitVec 8) (s : State) : exec (.trsum d a b) s = execTrsum d a b s := rfl
@[simp] theorem exec_aclr (d : BitVec 8) (b : BitVec 8) (s : State) : exec (.aclr d b) s = execAclr d b s := rfl
@[simp] theorem exec_ald (d : BitVec 8) (a : BitVec 8) (b : BitVec 8) (s : State) : exec (.ald d a b) s = execAld d a b s := rfl
@[simp] theorem exec_ast (d : BitVec 8) (a : BitVec 8) (b : BitVec 8) (s : State) : exec (.ast d a b) s = execAst d a b s := rfl
@[simp] theorem exec_ard (d : Dst) (a : BitVec 8) (b : Src) (s : State) : exec (.ard d a b) s = execArd d a b s := rfl
@[simp] theorem exec_awr (d : BitVec 8) (a : Src) (b : Src) (s : State) : exec (.awr d a b) s = execAwr d a b s := rfl
@[simp] theorem exec_adrain (d : BitVec 8) (a : BitVec 8) (b : BitVec 8) (s : State) : exec (.adrain d a b) s = execAdrain d a b s := rfl
@[simp] theorem exec_acqa (d : BitVec 8) (a : Dst) (b : BitVec 8) (s : State) : exec (.acqa d a b) s = execAcqa d a b s := rfl
@[simp] theorem exec_rela (d : BitVec 8) (b : BitVec 8) (s : State) : exec (.rela d b) s = execRela d b s := rfl
@[simp] theorem exec_sxopen (d : Dst) (a : Src) (b : BitVec 8) (s : State) : exec (.sxopen d a b) s = execSxopen d a b s := rfl
@[simp] theorem exec_sxappend (d : BitVec 8) (a : Src) (b : Src) (s : State) : exec (.sxappend d a b) s = execSxappend d a b s := rfl
@[simp] theorem exec_sxmatch (d : Dst) (a : Src) (b : Dst) (s : State) : exec (.sxmatch d a b) s = execSxmatch d a b s := rfl
@[simp] theorem exec_sxstat (d : Dst) (b : BitVec 8) (s : State) : exec (.sxstat d b) s = execSxstat d b s := rfl
@[simp] theorem exec_sxsave (a : Src) (s : State) : exec (.sxsave a) s = execSxsave a s := rfl
@[simp] theorem exec_sxload (d : Dst) (a : Src) (s : State) : exec (.sxload d a) s = execSxload d a s := rfl
@[simp] theorem exec_sxclose (b : BitVec 8) (s : State) : exec (.sxclose b) s = execSxclose b s := rfl
@[simp] theorem exec_sxdepth (d : Dst) (a : Src) (s : State) : exec (.sxdepth d a) s = execSxdepth d a s := rfl
@[simp] theorem exec_rsenter (s : State) : exec .rsenter s = execRsenter s := rfl
@[simp] theorem exec_rsleave (s : State) : exec .rsleave s = execRsleave s := rfl
@[simp] theorem exec_publish (d : Src) (a : Src) (s : State) : exec (.publish d a) s = execPublish d a s := rfl
@[simp] theorem exec_retire (d : Dst) (a : BitVec 8) (s : State) : exec (.retire d a) s = execRetire d a s := rfl
@[simp] theorem exec_gpwait (a : Src) (s : State) : exec (.gpwait a) s = execGpwait a s := rfl
@[simp] theorem exec_gpstat (d : Dst) (b : BitVec 8) (s : State) : exec (.gpstat d b) s = execGpstat d b s := rfl
@[simp] theorem exec_bararr (b : BitVec 8) (s : State) : exec (.bararr b) s = execBararr b s := rfl
@[simp] theorem exec_barwait (b : BitVec 8) (s : State) : exec (.barwait b) s = execBarwait b s := rfl
@[simp] theorem exec_barsync (b : BitVec 8) (s : State) : exec (.barsync b) s = execBarsync b s := rfl
@[simp] theorem exec_pbarr (a : Src) (b : BitVec 8) (s : State) : exec (.pbarr a b) s = execPbarr a b s := rfl
@[simp] theorem exec_pbwait (a : Src) (b : Src) (s : State) : exec (.pbwait a b) s = execPbwait a b s := rfl
@[simp] theorem exec_evroute (d : BitVec 8) (a : BitVec 8) (b : BitVec 8) (s : State) : exec (.evroute d a b) s = execEvroute d a b s := rfl
@[simp] theorem exec_evpost (b : BitVec 8) (s : State) : exec (.evpost b) s = execEvpost b s := rfl
@[simp] theorem exec_evwait (b : BitVec 8) (s : State) : exec (.evwait b) s = execEvwait b s := rfl
@[simp] theorem exec_eret (a : Src) (s : State) : exec (.eret a) s = execEret a s := rfl
@[simp] theorem exec_tlbinv (a : Src) (b : BitVec 8) (s : State) : exec (.tlbinv a b) s = execTlbinv a b s := rfl
@[simp] theorem exec_ctxst (d : Dst) (a : Src) (b : Src) (s : State) : exec (.ctxst d a b) s = execCtxst d a b s := rfl
@[simp] theorem exec_ctxld (d : Dst) (a : Src) (s : State) : exec (.ctxld d a) s = execCtxld d a s := rfl
@[simp] theorem exec_haltcWaitTrapLine (s : State) : exec .haltcWaitTrapLine s = execHaltcWaitTrapLine s := rfl
@[simp] theorem exec_haltcHaltCrews (s : State) : exec .haltcHaltCrews s = execHaltcHaltCrews s := rfl
@[simp] theorem exec_haltcResumeCrews (s : State) : exec .haltcResumeCrews s = execHaltcResumeCrews s := rfl
@[simp] theorem exec_slotcfgResume (a : Src) (s : State) : exec (.slotcfgResume a) s = execSlotcfgResume a s := rfl
@[simp] theorem exec_slotcfgSkipResume (a : Src) (s : State) : exec (.slotcfgSkipResume a) s = execSlotcfgSkipResume a s := rfl
@[simp] theorem exec_slotcfgKill (a : Src) (s : State) : exec (.slotcfgKill a) s = execSlotcfgKill a s := rfl
@[simp] theorem exec_slotcfgRingBase (a : Src) (s : State) : exec (.slotcfgRingBase a) s = execSlotcfgRingBase a s := rfl
@[simp] theorem exec_slotcfgTrapVector (a : Src) (s : State) : exec (.slotcfgTrapVector a) s = execSlotcfgTrapVector a s := rfl
@[simp] theorem exec_slotcfgStopCrew (a : Src) (s : State) : exec (.slotcfgStopCrew a) s = execSlotcfgStopCrew a s := rfl
@[simp] theorem exec_illegalInstruction (w : BitVec 32) (s : State) : exec (.illegalInstruction w) s = execIllegalInstruction w s := rfl
@[simp] theorem exec_illegalOperand (w : BitVec 32) (lits : List (BitVec 32)) (s : State) : exec (.illegalOperand w lits) s = execIllegalOperand w lits s := rfl
@[simp] theorem exec_fairnessSwitch (s : State) : exec .fairnessSwitch s = execFairnessSwitch s := rfl
@[simp] theorem exec_gangSlotRetire (s : State) : exec .gangSlotRetire s = execGangSlotRetire s := rfl
@[simp] theorem exec_scratchpadCleared (s : State) : exec .scratchpadCleared s = execScratchpadCleared s := rfl
@[simp] theorem exec_binTimerExpire (s : State) : exec .binTimerExpire s = execBinTimerExpire s := rfl
@[simp] theorem exec_fillLaunch (s : State) : exec .fillLaunch s = execFillLaunch s := rfl
@[simp] theorem exec_gangReady (s : State) : exec .gangReady s = execGangReady s := rfl
@[simp] theorem exec_blockFetch (s : State) : exec .blockFetch s = execBlockFetch s := rfl
@[simp] theorem exec_translationWalk (s : State) : exec .translationWalk s = execTranslationWalk s := rfl
@[simp] theorem exec_loadComplete (s : State) : exec .loadComplete s = execLoadComplete s := rfl
@[simp] theorem exec_atomicReturn (s : State) : exec .atomicReturn s = execAtomicReturn s := rfl
@[simp] theorem exec_fillRequest (s : State) : exec .fillRequest s = execFillRequest s := rfl
@[simp] theorem exec_storeArrival (s : State) : exec .storeArrival s = execStoreArrival s := rfl
@[simp] theorem exec_homeOperationArrival (s : State) : exec .homeOperationArrival s = execHomeOperationArrival s := rfl
@[simp] theorem exec_evictionNotice (s : State) : exec .evictionNotice s = execEvictionNotice s := rfl
@[simp] theorem exec_cctlRequestArrival (s : State) : exec .cctlRequestArrival s = execCctlRequestArrival s := rfl
@[simp] theorem exec_updateAckArrival (s : State) : exec .updateAckArrival s = execUpdateAckArrival s := rfl
@[simp] theorem exec_l2VictimSelection (s : State) : exec .l2VictimSelection s = execL2VictimSelection s := rfl
@[simp] theorem exec_writeBackComplete (s : State) : exec .writeBackComplete s = execWriteBackComplete s := rfl
@[simp] theorem exec_lineFetchReturn (s : State) : exec .lineFetchReturn s = execLineFetchReturn s := rfl
@[simp] theorem exec_fillData (s : State) : exec .fillData s = execFillData s := rfl
@[simp] theorem exec_update (s : State) : exec .update s = execUpdate s := rfl
@[simp] theorem exec_invalidate (s : State) : exec .invalidate s = execInvalidate s := rfl
@[simp] theorem exec_ackD (s : State) : exec .ackD s = execAckD s := rfl
@[simp] theorem exec_ackP (s : State) : exec .ackP s = execAckP s := rfl
@[simp] theorem exec_cctlAck (s : State) : exec .cctlAck s = execCctlAck s := rfl
@[simp] theorem exec_versionNoticeArrival (s : State) : exec .versionNoticeArrival s = execVersionNoticeArrival s := rfl
@[simp] theorem exec_asyncCommandStart (s : State) : exec .asyncCommandStart s = execAsyncCommandStart s := rfl
@[simp] theorem exec_asyncCommandComplete (s : State) : exec .asyncCommandComplete s = execAsyncCommandComplete s := rfl
@[simp] theorem exec_engineFaultResume (s : State) : exec .engineFaultResume s = execEngineFaultResume s := rfl
@[simp] theorem exec_asyncTrap (s : State) : exec .asyncTrap s = execAsyncTrap s := rfl
@[simp] theorem exec_trapRecordWrite (s : State) : exec .trapRecordWrite s = execTrapRecordWrite s := rfl
@[simp] theorem exec_passGrant (s : State) : exec .passGrant s = execPassGrant s := rfl
@[simp] theorem exec_passComplete (s : State) : exec .passComplete s = execPassComplete s := rfl
@[simp] theorem exec_trellisArrival (s : State) : exec .trellisArrival s = execTrellisArrival s := rfl
@[simp] theorem exec_trellisComplete (s : State) : exec .trellisComplete s = execTrellisComplete s := rfl
@[simp] theorem exec_retireArrival (s : State) : exec .retireArrival s = execRetireArrival s := rfl
@[simp] theorem exec_flipArrival (s : State) : exec .flipArrival s = execFlipArrival s := rfl
@[simp] theorem exec_leafQuietReport (s : State) : exec .leafQuietReport s = execLeafQuietReport s := rfl
@[simp] theorem exec_aggregatorQuietArrival (s : State) : exec .aggregatorQuietArrival s = execAggregatorQuietArrival s := rfl
@[simp] theorem exec_gracePeriodEnd (s : State) : exec .gracePeriodEnd s = execGracePeriodEnd s := rfl
@[simp] theorem exec_entryFree (s : State) : exec .entryFree s = execEntryFree s := rfl
@[simp] theorem exec_freedArrival (s : State) : exec .freedArrival s = execFreedArrival s := rfl
@[simp] theorem exec_parkRequestArrival (s : State) : exec .parkRequestArrival s = execParkRequestArrival s := rfl
@[simp] theorem exec_parkAckArrival (s : State) : exec .parkAckArrival s = execParkAckArrival s := rfl
@[simp] theorem exec_holdDecrementArrival (s : State) : exec .holdDecrementArrival s = execHoldDecrementArrival s := rfl
@[simp] theorem exec_staleReadIncrement (s : State) : exec .staleReadIncrement s = execStaleReadIncrement s := rfl
@[simp] theorem exec_gpstatServe (s : State) : exec .gpstatServe s = execGpstatServe s := rfl
@[simp] theorem exec_chorePulseArrival (s : State) : exec .chorePulseArrival s = execChorePulseArrival s := rfl
@[simp] theorem exec_waitConditionMet (s : State) : exec .waitConditionMet s = execWaitConditionMet s := rfl
@[simp] theorem exec_doorbell (s : State) : exec .doorbell s = execDoorbell s := rfl
@[simp] theorem exec_queueMap (s : State) : exec .queueMap s = execQueueMap s := rfl
@[simp] theorem exec_queueUnmap (s : State) : exec .queueUnmap s = execQueueUnmap s := rfl
@[simp] theorem exec_launchPacket (s : State) : exec .launchPacket s = execLaunchPacket s := rfl
@[simp] theorem exec_graphPacket (s : State) : exec .graphPacket s = execGraphPacket s := rfl
@[simp] theorem exec_waitPacket (s : State) : exec .waitPacket s = execWaitPacket s := rfl
@[simp] theorem exec_signalPacket (s : State) : exec .signalPacket s = execSignalPacket s := rfl
@[simp] theorem exec_copyPacket (s : State) : exec .copyPacket s = execCopyPacket s := rfl
@[simp] theorem exec_indirectPacket (s : State) : exec .indirectPacket s = execIndirectPacket s := rfl
@[simp] theorem exec_fencePacket (s : State) : exec .fencePacket s = execFencePacket s := rfl
@[simp] theorem exec_signalUnitRead (s : State) : exec .signalUnitRead s = execSignalUnitRead s := rfl
@[simp] theorem exec_crewOffer (s : State) : exec .crewOffer s = execCrewOffer s := rfl
@[simp] theorem exec_gridRetire (s : State) : exec .gridRetire s = execGridRetire s := rfl
@[simp] theorem exec_packetComplete (s : State) : exec .packetComplete s = execPacketComplete s := rfl
@[simp] theorem exec_kernelNode (s : State) : exec .kernelNode s = execKernelNode s := rfl
@[simp] theorem exec_copyNode (s : State) : exec .copyNode s = execCopyNode s := rfl
@[simp] theorem exec_signalNode (s : State) : exec .signalNode s = execSignalNode s := rfl
@[simp] theorem exec_waitNode (s : State) : exec .waitNode s = execWaitNode s := rfl
@[simp] theorem exec_tailNode (s : State) : exec .tailNode s = execTailNode s := rfl
@[simp] theorem exec_loopNode (s : State) : exec .loopNode s = execLoopNode s := rfl
@[simp] theorem exec_loopIterationEnd (s : State) : exec .loopIterationEnd s = execLoopIterationEnd s := rfl
@[simp] theorem exec_budgetWindowEnd (s : State) : exec .budgetWindowEnd s = execBudgetWindowEnd s := rfl
@[simp] theorem exec_totalsArrival (s : State) : exec .totalsArrival s = execTotalsArrival s := rfl
@[simp] theorem exec_sensorSample (s : State) : exec .sensorSample s = execSensorSample s := rfl
@[simp] theorem exec_containment (s : State) : exec .containment s = execContainment s := rfl
@[simp] theorem exec_containmentNotice (s : State) : exec .containmentNotice s = execContainmentNotice s := rfl
@[simp] theorem exec_containmentComplete (s : State) : exec .containmentComplete s = execContainmentComplete s := rfl
@[simp] theorem exec_resetRelease (s : State) : exec .resetRelease s = execResetRelease s := rfl
@[simp] theorem exec_stage1 (s : State) : exec .stage1 s = execStage1 s := rfl
@[simp] theorem exec_stage2 (s : State) : exec .stage2 s = execStage2 s := rfl
@[simp] theorem exec_hostLinkTraining (s : State) : exec .hostLinkTraining s = execHostLinkTraining s := rfl
@[simp] theorem exec_registerWrite (s : State) : exec .registerWrite s = execRegisterWrite s := rfl
@[simp] theorem exec_flack (s : State) : exec .flack s = execFlack s := rfl
@[simp] theorem exec_biasToHost (s : State) : exec .biasToHost s = execBiasToHost s := rfl
@[simp] theorem exec_biasToDevice (s : State) : exec .biasToDevice s = execBiasToDevice s := rfl
@[simp] theorem exec_biasFlipLine (s : State) : exec .biasFlipLine s = execBiasFlipLine s := rfl
@[simp] theorem exec_attestationReport (s : State) : exec .attestationReport s = execAttestationReport s := rfl
@[simp] theorem exec_handoverRequest (s : State) : exec .handoverRequest s = execHandoverRequest s := rfl
@[simp] theorem exec_mgmtReadRegister (s : State) : exec .mgmtReadRegister s = execMgmtReadRegister s := rfl
@[simp] theorem exec_mgmtWriteRegister (s : State) : exec .mgmtWriteRegister s = execMgmtWriteRegister s := rfl
@[simp] theorem exec_claimChore (s : State) : exec .claimChore s = execClaimChore s := rfl
@[simp] theorem exec_postChore (s : State) : exec .postChore s = execPostChore s := rfl
@[simp] theorem exec_switch (s : State) : exec .switch s = execSwitch s := rfl
@[simp] theorem exec_mgmtInvalidOp (s : State) : exec .mgmtInvalidOp s = execMgmtInvalidOp s := rfl
@[simp] theorem exec_hostRead (s : State) : exec .hostRead s = execHostRead s := rfl
@[simp] theorem exec_hostWrite (s : State) : exec .hostWrite s = execHostWrite s := rfl
@[simp] theorem exec_hostCxlMemRequest (s : State) : exec .hostCxlMemRequest s = execHostCxlMemRequest s := rfl
@[simp] theorem exec_snpData (s : State) : exec .snpData s = execSnpData s := rfl
@[simp] theorem exec_snpInv (s : State) : exec .snpInv s = execSnpInv s := rfl
@[simp] theorem exec_hostGrant (s : State) : exec .hostGrant s = execHostGrant s := rfl
@[simp] theorem exec_goWritepull (s : State) : exec .goWritepull s = execGoWritepull s := rfl
@[simp] theorem exec_bisnpResponse (s : State) : exec .bisnpResponse s = execBisnpResponse s := rfl
@[simp] theorem exec_flitReceive (s : State) : exec .flitReceive s = execFlitReceive s := rfl
@[simp] theorem exec_remotePutArrival (s : State) : exec .remotePutArrival s = execRemotePutArrival s := rfl
@[simp] theorem exec_remoteGetArrival (s : State) : exec .remoteGetArrival s = execRemoteGetArrival s := rfl
@[simp] theorem exec_remoteAtomicArrival (s : State) : exec .remoteAtomicArrival s = execRemoteAtomicArrival s := rfl
@[simp] theorem exec_remoteSignalAddArrival (s : State) : exec .remoteSignalAddArrival s = execRemoteSignalAddArrival s := rfl
@[simp] theorem exec_remoteResponseArrival (s : State) : exec .remoteResponseArrival s = execRemoteResponseArrival s := rfl
@[simp] theorem exec_accumulatorManagementComplete (s : State) : exec .accumulatorManagementComplete s = execAccumulatorManagementComplete s := rfl
@[simp] theorem exec_mailboxRequestComplete (s : State) : exec .mailboxRequestComplete s = execMailboxRequestComplete s := rfl
@[simp] theorem exec_portDown (s : State) : exec .portDown s = execPortDown s := rfl

end Sys2Proof.Machine
end

