-- ==== Sys2Proof/Laws/Maps.lean ====
section
/-! SUPPORT. The laws of finite maps: a read after a write, and the canonical form that every write keeps. -/

namespace Sys2Proof.Machine

variable {α : Type}

/-! ### Reading what was written -/

@[simp] theorem mfind_minsert_same (m : SMap α) (i : Nat) (x : α) : mfind (minsert m i x) i = some x := by
  induction m with
  | nil => simp [minsert, mfind]
  | cons e rest ih =>
    obtain ⟨k, v⟩ := e
    by_cases h1 : i < k
    · simp [minsert, mfind, h1]
    · by_cases h2 : i = k
      · simp [minsert, mfind, h2]
      · have h3 : k ≠ i := fun h => h2 h.symm
        simp [minsert, mfind, h1, h2, h3, ih]

theorem mfind_minsert_ne (m : SMap α) {i j : Nat} (x : α) (h : j ≠ i) : mfind (minsert m i x) j = mfind m j := by
  induction m with
  | nil => simp [minsert, mfind, h.symm]
  | cons e rest ih =>
    obtain ⟨k, v⟩ := e
    by_cases h1 : i < k
    · simp only [minsert, h1, if_true, mfind]
      by_cases h2 : j < i
      · have : k ≠ j := by omega
        have : j < k := by omega
        simp [*, h.symm]
      · simp [h2, h.symm]
    · by_cases h2 : i = k
      · subst h2
        simp [minsert, mfind, h.symm]
      · simp [minsert, mfind, h1, h2, ih]

theorem mget_minsert_same (d : α) (m : SMap α) (i : Nat) (x : α) : mget d (minsert m i x) i = x := by simp [mget]

theorem mget_minsert_ne (d : α) (m : SMap α) {i j : Nat} (x : α) (h : j ≠ i) : mget d (minsert m i x) j = mget d m j := by
  simp [mget, mfind_minsert_ne m x h]

theorem minsert_minsert (m : SMap α) (i : Nat) (x y : α) : minsert (minsert m i x) i y = minsert m i y := by
  induction m with
  | nil => simp [minsert]
  | cons e rest ih =>
    obtain ⟨k, v⟩ := e
    by_cases h1 : i < k
    · simp [minsert, h1]
    · by_cases h2 : i = k
      · simp [minsert, h2]
      · simp [minsert, h1, h2, ih]

/-! ### Keys that rise -/

theorem mabove_of_le {i j : Nat} (h : i ≤ j) : ∀ m : SMap α, mabove j m = true → mabove i m = true
  | [], _ => rfl
  | (k, _) :: _, hj => by
    simp only [mabove, decide_eq_true_eq] at hj ⊢
    omega

theorem mfind_below {i : Nat} : ∀ m : SMap α, mabove i m = true → mfind m i = none
  | [], _ => rfl
  | (k, _) :: _, h => by
    simp only [mabove, decide_eq_true_eq] at h
    have : k ≠ i := by omega
    simp [mfind, this, h]

theorem mabove_minsert {i j : Nat} (x : α) (h : j < i) : ∀ m : SMap α, mabove j m = true → mabove j (minsert m i x) = true
  | [], _ => by simp [minsert, mabove, h]
  | (k, v) :: rest, hm => by
    simp only [mabove, decide_eq_true_eq] at hm
    unfold minsert
    split
    · simp [mabove, h]
    · split <;> simp [mabove, *]

theorem msorted_minsert (i : Nat) (x : α) : ∀ m : SMap α, msorted m = true → msorted (minsert m i x) = true
  | [], _ => rfl
  | (k, v) :: rest, h => by
    simp only [msorted, Bool.and_eq_true] at h
    unfold minsert
    split
    · rename_i hi
      have : msorted ((k, v) :: rest) = true := by simp [msorted, h.1, h.2]
      rw [msorted, this]
      simp [mabove, hi]
    · split
      · rename_i hik
        subst hik
        simp [msorted, h.1, h.2]
      · have hk : k < i := by omega
        simp [msorted, mabove_minsert x hk rest h.1, msorted_minsert i x rest h.2]

theorem mabove_merase {i j : Nat} : ∀ m : SMap α, msorted m = true → mabove j m = true → mabove j (merase m i) = true
  | [], _, _ => rfl
  | (k, v) :: rest, hs, hm => by
    simp only [msorted, Bool.and_eq_true] at hs
    simp only [mabove, decide_eq_true_eq] at hm
    unfold merase
    split
    · exact mabove_of_le (by omega) rest hs.1
    · split <;> simp [mabove, hm]

theorem msorted_merase (i : Nat) : ∀ m : SMap α, msorted m = true → msorted (merase m i) = true
  | [], _ => rfl
  | (k, v) :: rest, h => by
    have h' := h
    simp only [msorted, Bool.and_eq_true] at h
    unfold merase
    split
    · exact h.2
    · split
      · exact h'
      · simp [msorted, mabove_merase rest h.2 h.1, msorted_merase i rest h.2]

theorem mfind_merase_same (i : Nat) : ∀ m : SMap α, msorted m = true → mfind (merase m i) i = none
  | [], _ => rfl
  | (k, v) :: rest, h => by
    simp only [msorted, Bool.and_eq_true] at h
    unfold merase
    split
    · rename_i hk
      subst hk
      exact mfind_below rest h.1
    · split
      · rename_i h1 h2
        simp [mfind, h1, h2]
      · rename_i h1 h2
        simp [mfind, h1, h2, mfind_merase_same i rest h.2]

theorem mfind_merase_ne {i j : Nat} (hj : j ≠ i) : ∀ m : SMap α, msorted m = true → mfind (merase m i) j = mfind m j
  | [], _ => rfl
  | (k, v) :: rest, h => by
    simp only [msorted, Bool.and_eq_true] at h
    unfold merase
    split
    · rename_i hk
      subst hk
      by_cases h2 : j < k
      · have hb : mabove j rest = true := mabove_of_le (Nat.le_of_lt h2) rest h.1
        simp [mfind, hj.symm, h2, mfind_below rest hb]
      · simp [mfind, hj.symm, h2]
    · split
      · rfl
      · simp [mfind, mfind_merase_ne hj rest h.2]

variable [DecidableEq α]

theorem msorted_mput (d : α) (i : Nat) (x : α) (m : SMap α) (h : msorted m = true) : msorted (mput d m i x) = true := by
  unfold mput
  split
  · exact msorted_merase i m h
  · exact msorted_minsert i x m h

/-- A read after a write to the same key gives the value written. -/
theorem mget_mput_same (d : α) (i : Nat) (x : α) (m : SMap α) (h : msorted m = true) : mget d (mput d m i x) i = x := by
  unfold mput
  split
  · simp [mget, mfind_merase_same i m h, *]
  · simp [mget]

/-- A write leaves every other key alone. -/
theorem mget_mput_ne (d : α) {i j : Nat} (x : α) (m : SMap α) (h : msorted m = true) (hj : j ≠ i) :
    mget d (mput d m i x) j = mget d m j := by
  unfold mput
  split
  · simp [mget, mfind_merase_ne hj m h]
  · exact mget_minsert_ne d m x hj

/-! ### The canonical form -/

omit [DecidableEq α] in
theorem all_minsert (p : Nat × α → Bool) (i : Nat) (x : α) (hx : p (i, x) = true) :
    ∀ m : SMap α, m.all p = true → (minsert m i x).all p = true
  | [], _ => by simp [minsert, hx]
  | (k, v) :: rest, h => by
    simp only [List.all_cons, Bool.and_eq_true] at h
    unfold minsert
    split
    · simp [hx, h.1, h.2]
    · split
      · simp only [List.all_cons, Bool.and_eq_true]
        exact ⟨hx, h.2⟩
      · simp only [List.all_cons, Bool.and_eq_true]
        exact ⟨h.1, all_minsert p i x hx rest h.2⟩

omit [DecidableEq α] in
theorem all_merase (p : Nat × α → Bool) (i : Nat) : ∀ m : SMap α, m.all p = true → (merase m i).all p = true
  | [], _ => rfl
  | (k, v) :: rest, h => by
    have h' := h
    simp only [List.all_cons, Bool.and_eq_true] at h
    unfold merase
    split
    · exact h.2
    · split
      · exact h'
      · simp only [List.all_cons, Bool.and_eq_true]
        exact ⟨h.1, all_merase p i rest h.2⟩

/-- A write keeps the canonical form. -/
theorem mcanon_mput (d : α) (i : Nat) (x : α) (m : SMap α) (h : mcanon d m = true) : mcanon d (mput d m i x) = true := by
  simp only [mcanon, Bool.and_eq_true] at h ⊢
  refine ⟨msorted_mput d i x m h.1, ?_⟩
  unfold mput
  split
  · exact all_merase _ i m h.2
  · exact all_minsert _ i x (by simpa using ‹¬ x = d›) m h.2

/-- Writes one after another keep it. -/
theorem mcanon_mputs (d : α) : ∀ (xs : List (Nat × α)) (m : SMap α), mcanon d m = true → mcanon d (mputs d m xs) = true
  | [], _, h => h
  | (k, x) :: rest, m, h => mcanon_mputs d rest _ (mcanon_mput d k x m h)

theorem msorted_mputs (d : α) : ∀ (xs : List (Nat × α)) (m : SMap α), msorted m = true → msorted (mputs d m xs) = true
  | [], _, h => h
  | (k, x) :: rest, m, h => msorted_mputs d rest _ (msorted_mput d k x m h)

/-- Keys that no write of a list names read as before. -/
theorem mget_mputs_ne (d : α) {j : Nat} : ∀ (xs : List (Nat × α)) (m : SMap α), msorted m = true → (∀ x ∈ xs, x.1 ≠ j) →
    mget d (mputs d m xs) j = mget d m j
  | [], _, _, _ => rfl
  | (k, x) :: rest, m, h, hn => by
    have h1 : mget d (mputs d (mput d m k x) rest) j = mget d (mput d m k x) j :=
      mget_mputs_ne d rest _ (msorted_mput d k x m h) (fun y hy => hn y (List.mem_cons_of_mem _ hy))
    exact h1.trans (mget_mput_ne d x m h (fun e => hn (k, x) List.mem_cons_self e.symm))

/-- Two maps in canonical form that read alike are one map. -/
theorem mcanon_ext (d : α) : ∀ (m n : SMap α), mcanon d m = true → mcanon d n = true → (∀ i, mget d m i = mget d n i) → m = n
  | [], [], _, _, _ => rfl
  | [], (k, v) :: rest, _, hn, h => by
    have := h k
    simp only [mcanon, List.all_cons, Bool.and_eq_true, decide_eq_true_eq] at hn
    simp [mget, mfind] at this
    exact absurd this.symm hn.2.1
  | (k, v) :: rest, [], hm, _, h => by
    have := h k
    simp only [mcanon, List.all_cons, Bool.and_eq_true, decide_eq_true_eq] at hm
    simp [mget, mfind] at this
    exact absurd this hm.2.1
  | (k, v) :: rm, (l, w) :: rn, hm, hn, h => by
    simp only [mcanon, msorted, List.all_cons, Bool.and_eq_true, decide_eq_true_eq] at hm hn
    obtain ⟨⟨am, sm⟩, dm, rmd⟩ := hm
    obtain ⟨⟨an, sn⟩, dn, rnd⟩ := hn
    have hkl : k = l := by
      rcases Nat.lt_trichotomy k l with c | c | c
      · have := h k
        have h2 : l ≠ k := by omega
        simp [mget, mfind, h2, c] at this
        exact absurd this dm
      · exact c
      · have := h l
        have h2 : k ≠ l := by omega
        simp [mget, mfind, h2, c] at this
        exact absurd this.symm dn
    subst hkl
    have hvw : v = w := by
      have := h k
      simpa [mget, mfind] using this
    subst hvw
    congr 1
    refine mcanon_ext d rm rn (by rw [mcanon, sm, rmd]; rfl) (by rw [mcanon, sn, rnd]; rfl) (fun i => ?_)
    by_cases hi : i = k
    · subst hi
      simp [mget, mfind_below rm am, mfind_below rn an]
    · by_cases hlt : i < k
      · have bm : mabove i rm = true := mabove_of_le (Nat.le_of_lt hlt) rm am
        have bn : mabove i rn = true := mabove_of_le (Nat.le_of_lt hlt) rn an
        simp [mget, mfind_below rm bm, mfind_below rn bn]
      · have hki : k ≠ i := fun e => hi e.symm
        have := h i
        simpa [mget, mfind, hki, hlt] using this

/-! ### Ranges -/

omit [DecidableEq α] in
theorem mfind_mfrom {i j : Nat} (h : i ≤ j) : ∀ m : SMap α, mfind (mfrom m i) j = mfind m j
  | [] => rfl
  | (k, v) :: rest => by
    by_cases hk : k < i
    · have h1 : k ≠ j := by omega
      have h2 : ¬ j < k := by omega
      have : mfrom ((k, v) :: rest) i = mfrom rest i := by simp [mfrom, hk]
      rw [this, mfind_mfrom h rest]
      simp [mfind, h1, h2]
    · have : mfrom ((k, v) :: rest) i = (k, v) :: rest := by simp [mfrom, hk]
      rw [this]

omit [DecidableEq α] in
/-- A range is read key by key. -/
theorem mrange_eq (d : α) (m : SMap α) (i n : Nat) : mrange d m i n = (List.range n).map (fun j => mget d m (i + j)) := by
  unfold mrange
  refine List.map_congr_left (fun j _ => ?_)
  simp [mget, mfind_mfrom (Nat.le_add_right i j)]

/-! ### Folds -/

/-- A fold whose steps keep a value keeps it. -/
theorem foldl_keeps {σ β γ : Type} (p : σ → β) (f : σ → γ → σ) (h : ∀ s x, p (f s x) = p s) :
    ∀ (xs : List γ) (s : σ), p (xs.foldl f s) = p s
  | [], _ => rfl
  | x :: rest, s => (foldl_keeps p f h rest (f s x)).trans (h s x)

end Sys2Proof.Machine
end

