-- ==== Sys2Proof/Laws/State.lean ====
section
/-! SUPPORT. One lemma for each field of the state under each named update, and what the updates of cores, gangs and crews
read back as. -/

namespace Sys2Proof.Machine

/-! ### State.setCore -/

@[simp] theorem State.setCore_clock (s : State) (c : Nat) (x : Core) : (s.setCore c x).clock = s.clock := rfl
@[simp] theorem State.setCore_nextId (s : State) (c : Nat) (x : Core) : (s.setCore c x).nextId = s.nextId := rfl
@[simp] theorem State.setCore_agenda (s : State) (c : Nat) (x : Core) : (s.setCore c x).agenda = s.agenda := rfl
@[simp] theorem State.setCore_upsets (s : State) (c : Nat) (x : Core) : (s.setCore c x).upsets = s.upsets := rfl
@[simp] theorem State.setCore_arg (s : State) (c : Nat) (x : Core) : (s.setCore c x).arg = s.arg := rfl
@[simp] theorem State.setCore_cur (s : State) (c : Nat) (x : Core) : (s.setCore c x).cur = s.cur := rfl
@[simp] theorem State.setCore_turnEv (s : State) (c : Nat) (x : Core) : (s.setCore c x).turnEv = s.turnEv := rfl
@[simp] theorem State.setCore_turn (s : State) (c : Nat) (x : Core) : (s.setCore c x).turn = s.turn := rfl
@[simp] theorem State.setCore_mem (s : State) (c : Nat) (x : Core) : (s.setCore c x).mem = s.mem := rfl
@[simp] theorem State.setCore_stamps (s : State) (c : Nat) (x : Core) : (s.setCore c x).stamps = s.stamps := rfl
@[simp] theorem State.setCore_bad (s : State) (c : Nat) (x : Core) : (s.setCore c x).bad = s.bad := rfl
@[simp] theorem State.setCore_dir (s : State) (c : Nat) (x : Core) : (s.setCore c x).dir = s.dir := rfl
@[simp] theorem State.setCore_net (s : State) (c : Nat) (x : Core) : (s.setCore c x).net = s.net := rfl
@[simp] theorem State.setCore_ops (s : State) (c : Nat) (x : Core) : (s.setCore c x).ops = s.ops := rfl
@[simp] theorem State.setCore_cmes (s : State) (c : Nat) (x : Core) : (s.setCore c x).cmes = s.cmes := rfl
@[simp] theorem State.setCore_trels (s : State) (c : Nat) (x : Core) : (s.setCore c x).trels = s.trels := rfl
@[simp] theorem State.setCore_tops (s : State) (c : Nat) (x : Core) : (s.setCore c x).tops = s.tops := rfl
@[simp] theorem State.setCore_dieTlbs (s : State) (c : Nat) (x : Core) : (s.setCore c x).dieTlbs = s.dieTlbs := rfl
@[simp] theorem State.setCore_lodge (s : State) (c : Nat) (x : Core) : (s.setCore c x).lodge = s.lodge := rfl
@[simp] theorem State.setCore_pergola (s : State) (c : Nat) (x : Core) : (s.setCore c x).pergola = s.pergola := rfl
@[simp] theorem State.setCore_host (s : State) (c : Nat) (x : Core) : (s.setCore c x).host = s.host := rfl
@[simp] theorem State.setCore_fabric (s : State) (c : Nat) (x : Core) : (s.setCore c x).fabric = s.fabric := rfl
@[simp] theorem State.setCore_power (s : State) (c : Nat) (x : Core) : (s.setCore c x).power = s.power := rfl

/-! ### State.modCore -/

@[simp] theorem State.modCore_clock (s : State) (c : Nat) (f : Core → Core) : (s.modCore c f).clock = s.clock := rfl
@[simp] theorem State.modCore_nextId (s : State) (c : Nat) (f : Core → Core) : (s.modCore c f).nextId = s.nextId := rfl
@[simp] theorem State.modCore_agenda (s : State) (c : Nat) (f : Core → Core) : (s.modCore c f).agenda = s.agenda := rfl
@[simp] theorem State.modCore_upsets (s : State) (c : Nat) (f : Core → Core) : (s.modCore c f).upsets = s.upsets := rfl
@[simp] theorem State.modCore_arg (s : State) (c : Nat) (f : Core → Core) : (s.modCore c f).arg = s.arg := rfl
@[simp] theorem State.modCore_cur (s : State) (c : Nat) (f : Core → Core) : (s.modCore c f).cur = s.cur := rfl
@[simp] theorem State.modCore_turnEv (s : State) (c : Nat) (f : Core → Core) : (s.modCore c f).turnEv = s.turnEv := rfl
@[simp] theorem State.modCore_turn (s : State) (c : Nat) (f : Core → Core) : (s.modCore c f).turn = s.turn := rfl
@[simp] theorem State.modCore_mem (s : State) (c : Nat) (f : Core → Core) : (s.modCore c f).mem = s.mem := rfl
@[simp] theorem State.modCore_stamps (s : State) (c : Nat) (f : Core → Core) : (s.modCore c f).stamps = s.stamps := rfl
@[simp] theorem State.modCore_bad (s : State) (c : Nat) (f : Core → Core) : (s.modCore c f).bad = s.bad := rfl
@[simp] theorem State.modCore_dir (s : State) (c : Nat) (f : Core → Core) : (s.modCore c f).dir = s.dir := rfl
@[simp] theorem State.modCore_net (s : State) (c : Nat) (f : Core → Core) : (s.modCore c f).net = s.net := rfl
@[simp] theorem State.modCore_ops (s : State) (c : Nat) (f : Core → Core) : (s.modCore c f).ops = s.ops := rfl
@[simp] theorem State.modCore_cmes (s : State) (c : Nat) (f : Core → Core) : (s.modCore c f).cmes = s.cmes := rfl
@[simp] theorem State.modCore_trels (s : State) (c : Nat) (f : Core → Core) : (s.modCore c f).trels = s.trels := rfl
@[simp] theorem State.modCore_tops (s : State) (c : Nat) (f : Core → Core) : (s.modCore c f).tops = s.tops := rfl
@[simp] theorem State.modCore_dieTlbs (s : State) (c : Nat) (f : Core → Core) : (s.modCore c f).dieTlbs = s.dieTlbs := rfl
@[simp] theorem State.modCore_lodge (s : State) (c : Nat) (f : Core → Core) : (s.modCore c f).lodge = s.lodge := rfl
@[simp] theorem State.modCore_pergola (s : State) (c : Nat) (f : Core → Core) : (s.modCore c f).pergola = s.pergola := rfl
@[simp] theorem State.modCore_host (s : State) (c : Nat) (f : Core → Core) : (s.modCore c f).host = s.host := rfl
@[simp] theorem State.modCore_fabric (s : State) (c : Nat) (f : Core → Core) : (s.modCore c f).fabric = s.fabric := rfl
@[simp] theorem State.modCore_power (s : State) (c : Nat) (f : Core → Core) : (s.modCore c f).power = s.power := rfl

/-! ### State.setGang -/

@[simp] theorem State.setGang_clock (s : State) (c k : Nat) (g : Gang) : (s.setGang c k g).clock = s.clock := rfl
@[simp] theorem State.setGang_nextId (s : State) (c k : Nat) (g : Gang) : (s.setGang c k g).nextId = s.nextId := rfl
@[simp] theorem State.setGang_agenda (s : State) (c k : Nat) (g : Gang) : (s.setGang c k g).agenda = s.agenda := rfl
@[simp] theorem State.setGang_upsets (s : State) (c k : Nat) (g : Gang) : (s.setGang c k g).upsets = s.upsets := rfl
@[simp] theorem State.setGang_arg (s : State) (c k : Nat) (g : Gang) : (s.setGang c k g).arg = s.arg := rfl
@[simp] theorem State.setGang_cur (s : State) (c k : Nat) (g : Gang) : (s.setGang c k g).cur = s.cur := rfl
@[simp] theorem State.setGang_turnEv (s : State) (c k : Nat) (g : Gang) : (s.setGang c k g).turnEv = s.turnEv := rfl
@[simp] theorem State.setGang_turn (s : State) (c k : Nat) (g : Gang) : (s.setGang c k g).turn = s.turn := rfl
@[simp] theorem State.setGang_mem (s : State) (c k : Nat) (g : Gang) : (s.setGang c k g).mem = s.mem := rfl
@[simp] theorem State.setGang_stamps (s : State) (c k : Nat) (g : Gang) : (s.setGang c k g).stamps = s.stamps := rfl
@[simp] theorem State.setGang_bad (s : State) (c k : Nat) (g : Gang) : (s.setGang c k g).bad = s.bad := rfl
@[simp] theorem State.setGang_dir (s : State) (c k : Nat) (g : Gang) : (s.setGang c k g).dir = s.dir := rfl
@[simp] theorem State.setGang_net (s : State) (c k : Nat) (g : Gang) : (s.setGang c k g).net = s.net := rfl
@[simp] theorem State.setGang_ops (s : State) (c k : Nat) (g : Gang) : (s.setGang c k g).ops = s.ops := rfl
@[simp] theorem State.setGang_cmes (s : State) (c k : Nat) (g : Gang) : (s.setGang c k g).cmes = s.cmes := rfl
@[simp] theorem State.setGang_trels (s : State) (c k : Nat) (g : Gang) : (s.setGang c k g).trels = s.trels := rfl
@[simp] theorem State.setGang_tops (s : State) (c k : Nat) (g : Gang) : (s.setGang c k g).tops = s.tops := rfl
@[simp] theorem State.setGang_dieTlbs (s : State) (c k : Nat) (g : Gang) : (s.setGang c k g).dieTlbs = s.dieTlbs := rfl
@[simp] theorem State.setGang_lodge (s : State) (c k : Nat) (g : Gang) : (s.setGang c k g).lodge = s.lodge := rfl
@[simp] theorem State.setGang_pergola (s : State) (c k : Nat) (g : Gang) : (s.setGang c k g).pergola = s.pergola := rfl
@[simp] theorem State.setGang_host (s : State) (c k : Nat) (g : Gang) : (s.setGang c k g).host = s.host := rfl
@[simp] theorem State.setGang_fabric (s : State) (c k : Nat) (g : Gang) : (s.setGang c k g).fabric = s.fabric := rfl
@[simp] theorem State.setGang_power (s : State) (c k : Nat) (g : Gang) : (s.setGang c k g).power = s.power := rfl

/-! ### State.put -/

@[simp] theorem State.put_clock (s : State) (g : Gang) : (s.put g).clock = s.clock := rfl
@[simp] theorem State.put_nextId (s : State) (g : Gang) : (s.put g).nextId = s.nextId := rfl
@[simp] theorem State.put_agenda (s : State) (g : Gang) : (s.put g).agenda = s.agenda := rfl
@[simp] theorem State.put_upsets (s : State) (g : Gang) : (s.put g).upsets = s.upsets := rfl
@[simp] theorem State.put_arg (s : State) (g : Gang) : (s.put g).arg = s.arg := rfl
@[simp] theorem State.put_cur (s : State) (g : Gang) : (s.put g).cur = s.cur := rfl
@[simp] theorem State.put_turnEv (s : State) (g : Gang) : (s.put g).turnEv = s.turnEv := rfl
@[simp] theorem State.put_turn (s : State) (g : Gang) : (s.put g).turn = s.turn := rfl
@[simp] theorem State.put_mem (s : State) (g : Gang) : (s.put g).mem = s.mem := rfl
@[simp] theorem State.put_stamps (s : State) (g : Gang) : (s.put g).stamps = s.stamps := rfl
@[simp] theorem State.put_bad (s : State) (g : Gang) : (s.put g).bad = s.bad := rfl
@[simp] theorem State.put_dir (s : State) (g : Gang) : (s.put g).dir = s.dir := rfl
@[simp] theorem State.put_net (s : State) (g : Gang) : (s.put g).net = s.net := rfl
@[simp] theorem State.put_ops (s : State) (g : Gang) : (s.put g).ops = s.ops := rfl
@[simp] theorem State.put_cmes (s : State) (g : Gang) : (s.put g).cmes = s.cmes := rfl
@[simp] theorem State.put_trels (s : State) (g : Gang) : (s.put g).trels = s.trels := rfl
@[simp] theorem State.put_tops (s : State) (g : Gang) : (s.put g).tops = s.tops := rfl
@[simp] theorem State.put_dieTlbs (s : State) (g : Gang) : (s.put g).dieTlbs = s.dieTlbs := rfl
@[simp] theorem State.put_lodge (s : State) (g : Gang) : (s.put g).lodge = s.lodge := rfl
@[simp] theorem State.put_pergola (s : State) (g : Gang) : (s.put g).pergola = s.pergola := rfl
@[simp] theorem State.put_host (s : State) (g : Gang) : (s.put g).host = s.host := rfl
@[simp] theorem State.put_fabric (s : State) (g : Gang) : (s.put g).fabric = s.fabric := rfl
@[simp] theorem State.put_power (s : State) (g : Gang) : (s.put g).power = s.power := rfl

/-! ### State.modGang -/

@[simp] theorem State.modGang_clock (s : State) (c k : Nat) (f : Gang → Gang) : (s.modGang c k f).clock = s.clock := by unfold State.modGang; split <;> rfl
@[simp] theorem State.modGang_nextId (s : State) (c k : Nat) (f : Gang → Gang) : (s.modGang c k f).nextId = s.nextId := by unfold State.modGang; split <;> rfl
@[simp] theorem State.modGang_agenda (s : State) (c k : Nat) (f : Gang → Gang) : (s.modGang c k f).agenda = s.agenda := by unfold State.modGang; split <;> rfl
@[simp] theorem State.modGang_upsets (s : State) (c k : Nat) (f : Gang → Gang) : (s.modGang c k f).upsets = s.upsets := by unfold State.modGang; split <;> rfl
@[simp] theorem State.modGang_arg (s : State) (c k : Nat) (f : Gang → Gang) : (s.modGang c k f).arg = s.arg := by unfold State.modGang; split <;> rfl
@[simp] theorem State.modGang_cur (s : State) (c k : Nat) (f : Gang → Gang) : (s.modGang c k f).cur = s.cur := by unfold State.modGang; split <;> rfl
@[simp] theorem State.modGang_turnEv (s : State) (c k : Nat) (f : Gang → Gang) : (s.modGang c k f).turnEv = s.turnEv := by unfold State.modGang; split <;> rfl
@[simp] theorem State.modGang_turn (s : State) (c k : Nat) (f : Gang → Gang) : (s.modGang c k f).turn = s.turn := by unfold State.modGang; split <;> rfl
@[simp] theorem State.modGang_mem (s : State) (c k : Nat) (f : Gang → Gang) : (s.modGang c k f).mem = s.mem := by unfold State.modGang; split <;> rfl
@[simp] theorem State.modGang_stamps (s : State) (c k : Nat) (f : Gang → Gang) : (s.modGang c k f).stamps = s.stamps := by unfold State.modGang; split <;> rfl
@[simp] theorem State.modGang_bad (s : State) (c k : Nat) (f : Gang → Gang) : (s.modGang c k f).bad = s.bad := by unfold State.modGang; split <;> rfl
@[simp] theorem State.modGang_dir (s : State) (c k : Nat) (f : Gang → Gang) : (s.modGang c k f).dir = s.dir := by unfold State.modGang; split <;> rfl
@[simp] theorem State.modGang_net (s : State) (c k : Nat) (f : Gang → Gang) : (s.modGang c k f).net = s.net := by unfold State.modGang; split <;> rfl
@[simp] theorem State.modGang_ops (s : State) (c k : Nat) (f : Gang → Gang) : (s.modGang c k f).ops = s.ops := by unfold State.modGang; split <;> rfl
@[simp] theorem State.modGang_cmes (s : State) (c k : Nat) (f : Gang → Gang) : (s.modGang c k f).cmes = s.cmes := by unfold State.modGang; split <;> rfl
@[simp] theorem State.modGang_trels (s : State) (c k : Nat) (f : Gang → Gang) : (s.modGang c k f).trels = s.trels := by unfold State.modGang; split <;> rfl
@[simp] theorem State.modGang_tops (s : State) (c k : Nat) (f : Gang → Gang) : (s.modGang c k f).tops = s.tops := by unfold State.modGang; split <;> rfl
@[simp] theorem State.modGang_dieTlbs (s : State) (c k : Nat) (f : Gang → Gang) : (s.modGang c k f).dieTlbs = s.dieTlbs := by unfold State.modGang; split <;> rfl
@[simp] theorem State.modGang_lodge (s : State) (c k : Nat) (f : Gang → Gang) : (s.modGang c k f).lodge = s.lodge := by unfold State.modGang; split <;> rfl
@[simp] theorem State.modGang_pergola (s : State) (c k : Nat) (f : Gang → Gang) : (s.modGang c k f).pergola = s.pergola := by unfold State.modGang; split <;> rfl
@[simp] theorem State.modGang_host (s : State) (c k : Nat) (f : Gang → Gang) : (s.modGang c k f).host = s.host := by unfold State.modGang; split <;> rfl
@[simp] theorem State.modGang_fabric (s : State) (c k : Nat) (f : Gang → Gang) : (s.modGang c k f).fabric = s.fabric := by unfold State.modGang; split <;> rfl
@[simp] theorem State.modGang_power (s : State) (c k : Nat) (f : Gang → Gang) : (s.modGang c k f).power = s.power := by unfold State.modGang; split <;> rfl

/-! ### State.modCrew -/

@[simp] theorem State.modCrew_clock (s : State) (c n : Nat) (f : Crew → Crew) : (s.modCrew c n f).clock = s.clock := by unfold State.modCrew; split <;> rfl
@[simp] theorem State.modCrew_nextId (s : State) (c n : Nat) (f : Crew → Crew) : (s.modCrew c n f).nextId = s.nextId := by unfold State.modCrew; split <;> rfl
@[simp] theorem State.modCrew_agenda (s : State) (c n : Nat) (f : Crew → Crew) : (s.modCrew c n f).agenda = s.agenda := by unfold State.modCrew; split <;> rfl
@[simp] theorem State.modCrew_upsets (s : State) (c n : Nat) (f : Crew → Crew) : (s.modCrew c n f).upsets = s.upsets := by unfold State.modCrew; split <;> rfl
@[simp] theorem State.modCrew_arg (s : State) (c n : Nat) (f : Crew → Crew) : (s.modCrew c n f).arg = s.arg := by unfold State.modCrew; split <;> rfl
@[simp] theorem State.modCrew_cur (s : State) (c n : Nat) (f : Crew → Crew) : (s.modCrew c n f).cur = s.cur := by unfold State.modCrew; split <;> rfl
@[simp] theorem State.modCrew_turnEv (s : State) (c n : Nat) (f : Crew → Crew) : (s.modCrew c n f).turnEv = s.turnEv := by unfold State.modCrew; split <;> rfl
@[simp] theorem State.modCrew_turn (s : State) (c n : Nat) (f : Crew → Crew) : (s.modCrew c n f).turn = s.turn := by unfold State.modCrew; split <;> rfl
@[simp] theorem State.modCrew_mem (s : State) (c n : Nat) (f : Crew → Crew) : (s.modCrew c n f).mem = s.mem := by unfold State.modCrew; split <;> rfl
@[simp] theorem State.modCrew_stamps (s : State) (c n : Nat) (f : Crew → Crew) : (s.modCrew c n f).stamps = s.stamps := by unfold State.modCrew; split <;> rfl
@[simp] theorem State.modCrew_bad (s : State) (c n : Nat) (f : Crew → Crew) : (s.modCrew c n f).bad = s.bad := by unfold State.modCrew; split <;> rfl
@[simp] theorem State.modCrew_dir (s : State) (c n : Nat) (f : Crew → Crew) : (s.modCrew c n f).dir = s.dir := by unfold State.modCrew; split <;> rfl
@[simp] theorem State.modCrew_net (s : State) (c n : Nat) (f : Crew → Crew) : (s.modCrew c n f).net = s.net := by unfold State.modCrew; split <;> rfl
@[simp] theorem State.modCrew_ops (s : State) (c n : Nat) (f : Crew → Crew) : (s.modCrew c n f).ops = s.ops := by unfold State.modCrew; split <;> rfl
@[simp] theorem State.modCrew_cmes (s : State) (c n : Nat) (f : Crew → Crew) : (s.modCrew c n f).cmes = s.cmes := by unfold State.modCrew; split <;> rfl
@[simp] theorem State.modCrew_trels (s : State) (c n : Nat) (f : Crew → Crew) : (s.modCrew c n f).trels = s.trels := by unfold State.modCrew; split <;> rfl
@[simp] theorem State.modCrew_tops (s : State) (c n : Nat) (f : Crew → Crew) : (s.modCrew c n f).tops = s.tops := by unfold State.modCrew; split <;> rfl
@[simp] theorem State.modCrew_dieTlbs (s : State) (c n : Nat) (f : Crew → Crew) : (s.modCrew c n f).dieTlbs = s.dieTlbs := by unfold State.modCrew; split <;> rfl
@[simp] theorem State.modCrew_lodge (s : State) (c n : Nat) (f : Crew → Crew) : (s.modCrew c n f).lodge = s.lodge := by unfold State.modCrew; split <;> rfl
@[simp] theorem State.modCrew_pergola (s : State) (c n : Nat) (f : Crew → Crew) : (s.modCrew c n f).pergola = s.pergola := by unfold State.modCrew; split <;> rfl
@[simp] theorem State.modCrew_host (s : State) (c n : Nat) (f : Crew → Crew) : (s.modCrew c n f).host = s.host := by unfold State.modCrew; split <;> rfl
@[simp] theorem State.modCrew_fabric (s : State) (c n : Nat) (f : Crew → Crew) : (s.modCrew c n f).fabric = s.fabric := by unfold State.modCrew; split <;> rfl
@[simp] theorem State.modCrew_power (s : State) (c n : Nat) (f : Crew → Crew) : (s.modCrew c n f).power = s.power := by unfold State.modCrew; split <;> rfl

/-! ### State.modLodge -/

@[simp] theorem State.modLodge_clock (s : State) (f : Lodge → Lodge) : (s.modLodge f).clock = s.clock := rfl
@[simp] theorem State.modLodge_nextId (s : State) (f : Lodge → Lodge) : (s.modLodge f).nextId = s.nextId := rfl
@[simp] theorem State.modLodge_agenda (s : State) (f : Lodge → Lodge) : (s.modLodge f).agenda = s.agenda := rfl
@[simp] theorem State.modLodge_upsets (s : State) (f : Lodge → Lodge) : (s.modLodge f).upsets = s.upsets := rfl
@[simp] theorem State.modLodge_arg (s : State) (f : Lodge → Lodge) : (s.modLodge f).arg = s.arg := rfl
@[simp] theorem State.modLodge_cur (s : State) (f : Lodge → Lodge) : (s.modLodge f).cur = s.cur := rfl
@[simp] theorem State.modLodge_turnEv (s : State) (f : Lodge → Lodge) : (s.modLodge f).turnEv = s.turnEv := rfl
@[simp] theorem State.modLodge_turn (s : State) (f : Lodge → Lodge) : (s.modLodge f).turn = s.turn := rfl
@[simp] theorem State.modLodge_mem (s : State) (f : Lodge → Lodge) : (s.modLodge f).mem = s.mem := rfl
@[simp] theorem State.modLodge_stamps (s : State) (f : Lodge → Lodge) : (s.modLodge f).stamps = s.stamps := rfl
@[simp] theorem State.modLodge_bad (s : State) (f : Lodge → Lodge) : (s.modLodge f).bad = s.bad := rfl
@[simp] theorem State.modLodge_cores (s : State) (f : Lodge → Lodge) : (s.modLodge f).cores = s.cores := rfl
@[simp] theorem State.modLodge_dir (s : State) (f : Lodge → Lodge) : (s.modLodge f).dir = s.dir := rfl
@[simp] theorem State.modLodge_net (s : State) (f : Lodge → Lodge) : (s.modLodge f).net = s.net := rfl
@[simp] theorem State.modLodge_ops (s : State) (f : Lodge → Lodge) : (s.modLodge f).ops = s.ops := rfl
@[simp] theorem State.modLodge_cmes (s : State) (f : Lodge → Lodge) : (s.modLodge f).cmes = s.cmes := rfl
@[simp] theorem State.modLodge_trels (s : State) (f : Lodge → Lodge) : (s.modLodge f).trels = s.trels := rfl
@[simp] theorem State.modLodge_tops (s : State) (f : Lodge → Lodge) : (s.modLodge f).tops = s.tops := rfl
@[simp] theorem State.modLodge_dieTlbs (s : State) (f : Lodge → Lodge) : (s.modLodge f).dieTlbs = s.dieTlbs := rfl
@[simp] theorem State.modLodge_pergola (s : State) (f : Lodge → Lodge) : (s.modLodge f).pergola = s.pergola := rfl
@[simp] theorem State.modLodge_host (s : State) (f : Lodge → Lodge) : (s.modLodge f).host = s.host := rfl
@[simp] theorem State.modLodge_fabric (s : State) (f : Lodge → Lodge) : (s.modLodge f).fabric = s.fabric := rfl
@[simp] theorem State.modLodge_power (s : State) (f : Lodge → Lodge) : (s.modLodge f).power = s.power := rfl

/-! ### State.sendL -/

@[simp] theorem State.sendL_clock (s : State) (m : LMsg) : (s.sendL m).clock = s.clock := rfl
@[simp] theorem State.sendL_nextId (s : State) (m : LMsg) : (s.sendL m).nextId = s.nextId := rfl
@[simp] theorem State.sendL_agenda (s : State) (m : LMsg) : (s.sendL m).agenda = s.agenda := rfl
@[simp] theorem State.sendL_upsets (s : State) (m : LMsg) : (s.sendL m).upsets = s.upsets := rfl
@[simp] theorem State.sendL_arg (s : State) (m : LMsg) : (s.sendL m).arg = s.arg := rfl
@[simp] theorem State.sendL_cur (s : State) (m : LMsg) : (s.sendL m).cur = s.cur := rfl
@[simp] theorem State.sendL_turnEv (s : State) (m : LMsg) : (s.sendL m).turnEv = s.turnEv := rfl
@[simp] theorem State.sendL_turn (s : State) (m : LMsg) : (s.sendL m).turn = s.turn := rfl
@[simp] theorem State.sendL_mem (s : State) (m : LMsg) : (s.sendL m).mem = s.mem := rfl
@[simp] theorem State.sendL_stamps (s : State) (m : LMsg) : (s.sendL m).stamps = s.stamps := rfl
@[simp] theorem State.sendL_bad (s : State) (m : LMsg) : (s.sendL m).bad = s.bad := rfl
@[simp] theorem State.sendL_cores (s : State) (m : LMsg) : (s.sendL m).cores = s.cores := rfl
@[simp] theorem State.sendL_dir (s : State) (m : LMsg) : (s.sendL m).dir = s.dir := rfl
@[simp] theorem State.sendL_net (s : State) (m : LMsg) : (s.sendL m).net = s.net := rfl
@[simp] theorem State.sendL_ops (s : State) (m : LMsg) : (s.sendL m).ops = s.ops := rfl
@[simp] theorem State.sendL_cmes (s : State) (m : LMsg) : (s.sendL m).cmes = s.cmes := rfl
@[simp] theorem State.sendL_trels (s : State) (m : LMsg) : (s.sendL m).trels = s.trels := rfl
@[simp] theorem State.sendL_tops (s : State) (m : LMsg) : (s.sendL m).tops = s.tops := rfl
@[simp] theorem State.sendL_dieTlbs (s : State) (m : LMsg) : (s.sendL m).dieTlbs = s.dieTlbs := rfl
@[simp] theorem State.sendL_pergola (s : State) (m : LMsg) : (s.sendL m).pergola = s.pergola := rfl
@[simp] theorem State.sendL_host (s : State) (m : LMsg) : (s.sendL m).host = s.host := rfl
@[simp] theorem State.sendL_fabric (s : State) (m : LMsg) : (s.sendL m).fabric = s.fabric := rfl
@[simp] theorem State.sendL_power (s : State) (m : LMsg) : (s.sendL m).power = s.power := rfl

/-! ### State.sendM -/

@[simp] theorem State.sendM_clock (s : State) (m : Msg) : (s.sendM m).clock = s.clock := rfl
@[simp] theorem State.sendM_nextId (s : State) (m : Msg) : (s.sendM m).nextId = s.nextId := rfl
@[simp] theorem State.sendM_agenda (s : State) (m : Msg) : (s.sendM m).agenda = s.agenda := rfl
@[simp] theorem State.sendM_upsets (s : State) (m : Msg) : (s.sendM m).upsets = s.upsets := rfl
@[simp] theorem State.sendM_arg (s : State) (m : Msg) : (s.sendM m).arg = s.arg := rfl
@[simp] theorem State.sendM_cur (s : State) (m : Msg) : (s.sendM m).cur = s.cur := rfl
@[simp] theorem State.sendM_turnEv (s : State) (m : Msg) : (s.sendM m).turnEv = s.turnEv := rfl
@[simp] theorem State.sendM_turn (s : State) (m : Msg) : (s.sendM m).turn = s.turn := rfl
@[simp] theorem State.sendM_mem (s : State) (m : Msg) : (s.sendM m).mem = s.mem := rfl
@[simp] theorem State.sendM_stamps (s : State) (m : Msg) : (s.sendM m).stamps = s.stamps := rfl
@[simp] theorem State.sendM_bad (s : State) (m : Msg) : (s.sendM m).bad = s.bad := rfl
@[simp] theorem State.sendM_cores (s : State) (m : Msg) : (s.sendM m).cores = s.cores := rfl
@[simp] theorem State.sendM_dir (s : State) (m : Msg) : (s.sendM m).dir = s.dir := rfl
@[simp] theorem State.sendM_ops (s : State) (m : Msg) : (s.sendM m).ops = s.ops := rfl
@[simp] theorem State.sendM_cmes (s : State) (m : Msg) : (s.sendM m).cmes = s.cmes := rfl
@[simp] theorem State.sendM_trels (s : State) (m : Msg) : (s.sendM m).trels = s.trels := rfl
@[simp] theorem State.sendM_tops (s : State) (m : Msg) : (s.sendM m).tops = s.tops := rfl
@[simp] theorem State.sendM_dieTlbs (s : State) (m : Msg) : (s.sendM m).dieTlbs = s.dieTlbs := rfl
@[simp] theorem State.sendM_lodge (s : State) (m : Msg) : (s.sendM m).lodge = s.lodge := rfl
@[simp] theorem State.sendM_pergola (s : State) (m : Msg) : (s.sendM m).pergola = s.pergola := rfl
@[simp] theorem State.sendM_host (s : State) (m : Msg) : (s.sendM m).host = s.host := rfl
@[simp] theorem State.sendM_fabric (s : State) (m : Msg) : (s.sendM m).fabric = s.fabric := rfl
@[simp] theorem State.sendM_power (s : State) (m : Msg) : (s.sendM m).power = s.power := rfl

/-! ### State.bump -/

@[simp] theorem State.bump_clock (s : State) : s.bump.clock = s.clock := rfl
@[simp] theorem State.bump_agenda (s : State) : s.bump.agenda = s.agenda := rfl
@[simp] theorem State.bump_upsets (s : State) : s.bump.upsets = s.upsets := rfl
@[simp] theorem State.bump_arg (s : State) : s.bump.arg = s.arg := rfl
@[simp] theorem State.bump_cur (s : State) : s.bump.cur = s.cur := rfl
@[simp] theorem State.bump_turnEv (s : State) : s.bump.turnEv = s.turnEv := rfl
@[simp] theorem State.bump_turn (s : State) : s.bump.turn = s.turn := rfl
@[simp] theorem State.bump_mem (s : State) : s.bump.mem = s.mem := rfl
@[simp] theorem State.bump_stamps (s : State) : s.bump.stamps = s.stamps := rfl
@[simp] theorem State.bump_bad (s : State) : s.bump.bad = s.bad := rfl
@[simp] theorem State.bump_cores (s : State) : s.bump.cores = s.cores := rfl
@[simp] theorem State.bump_dir (s : State) : s.bump.dir = s.dir := rfl
@[simp] theorem State.bump_net (s : State) : s.bump.net = s.net := rfl
@[simp] theorem State.bump_ops (s : State) : s.bump.ops = s.ops := rfl
@[simp] theorem State.bump_cmes (s : State) : s.bump.cmes = s.cmes := rfl
@[simp] theorem State.bump_trels (s : State) : s.bump.trels = s.trels := rfl
@[simp] theorem State.bump_tops (s : State) : s.bump.tops = s.tops := rfl
@[simp] theorem State.bump_dieTlbs (s : State) : s.bump.dieTlbs = s.dieTlbs := rfl
@[simp] theorem State.bump_lodge (s : State) : s.bump.lodge = s.lodge := rfl
@[simp] theorem State.bump_pergola (s : State) : s.bump.pergola = s.pergola := rfl
@[simp] theorem State.bump_host (s : State) : s.bump.host = s.host := rfl
@[simp] theorem State.bump_fabric (s : State) : s.bump.fabric = s.fabric := rfl
@[simp] theorem State.bump_power (s : State) : s.bump.power = s.power := rfl

/-! ### State.setEntry -/

@[simp] theorem State.setEntry_clock (s : State) (k : Nat) (e : DirEntry) : (s.setEntry k e).clock = s.clock := rfl
@[simp] theorem State.setEntry_nextId (s : State) (k : Nat) (e : DirEntry) : (s.setEntry k e).nextId = s.nextId := rfl
@[simp] theorem State.setEntry_agenda (s : State) (k : Nat) (e : DirEntry) : (s.setEntry k e).agenda = s.agenda := rfl
@[simp] theorem State.setEntry_upsets (s : State) (k : Nat) (e : DirEntry) : (s.setEntry k e).upsets = s.upsets := rfl
@[simp] theorem State.setEntry_arg (s : State) (k : Nat) (e : DirEntry) : (s.setEntry k e).arg = s.arg := rfl
@[simp] theorem State.setEntry_cur (s : State) (k : Nat) (e : DirEntry) : (s.setEntry k e).cur = s.cur := rfl
@[simp] theorem State.setEntry_turnEv (s : State) (k : Nat) (e : DirEntry) : (s.setEntry k e).turnEv = s.turnEv := rfl
@[simp] theorem State.setEntry_turn (s : State) (k : Nat) (e : DirEntry) : (s.setEntry k e).turn = s.turn := rfl
@[simp] theorem State.setEntry_mem (s : State) (k : Nat) (e : DirEntry) : (s.setEntry k e).mem = s.mem := rfl
@[simp] theorem State.setEntry_stamps (s : State) (k : Nat) (e : DirEntry) : (s.setEntry k e).stamps = s.stamps := rfl
@[simp] theorem State.setEntry_bad (s : State) (k : Nat) (e : DirEntry) : (s.setEntry k e).bad = s.bad := rfl
@[simp] theorem State.setEntry_cores (s : State) (k : Nat) (e : DirEntry) : (s.setEntry k e).cores = s.cores := rfl
@[simp] theorem State.setEntry_net (s : State) (k : Nat) (e : DirEntry) : (s.setEntry k e).net = s.net := rfl
@[simp] theorem State.setEntry_ops (s : State) (k : Nat) (e : DirEntry) : (s.setEntry k e).ops = s.ops := rfl
@[simp] theorem State.setEntry_cmes (s : State) (k : Nat) (e : DirEntry) : (s.setEntry k e).cmes = s.cmes := rfl
@[simp] theorem State.setEntry_trels (s : State) (k : Nat) (e : DirEntry) : (s.setEntry k e).trels = s.trels := rfl
@[simp] theorem State.setEntry_tops (s : State) (k : Nat) (e : DirEntry) : (s.setEntry k e).tops = s.tops := rfl
@[simp] theorem State.setEntry_dieTlbs (s : State) (k : Nat) (e : DirEntry) : (s.setEntry k e).dieTlbs = s.dieTlbs := rfl
@[simp] theorem State.setEntry_lodge (s : State) (k : Nat) (e : DirEntry) : (s.setEntry k e).lodge = s.lodge := rfl
@[simp] theorem State.setEntry_pergola (s : State) (k : Nat) (e : DirEntry) : (s.setEntry k e).pergola = s.pergola := rfl
@[simp] theorem State.setEntry_host (s : State) (k : Nat) (e : DirEntry) : (s.setEntry k e).host = s.host := rfl
@[simp] theorem State.setEntry_fabric (s : State) (k : Nat) (e : DirEntry) : (s.setEntry k e).fabric = s.fabric := rfl
@[simp] theorem State.setEntry_power (s : State) (k : Nat) (e : DirEntry) : (s.setEntry k e).power = s.power := rfl

/-! ### State.modOp -/

@[simp] theorem State.modOp_clock (s : State) (n : Nat) (f : MemOp → MemOp) : (s.modOp n f).clock = s.clock := rfl
@[simp] theorem State.modOp_nextId (s : State) (n : Nat) (f : MemOp → MemOp) : (s.modOp n f).nextId = s.nextId := rfl
@[simp] theorem State.modOp_agenda (s : State) (n : Nat) (f : MemOp → MemOp) : (s.modOp n f).agenda = s.agenda := rfl
@[simp] theorem State.modOp_upsets (s : State) (n : Nat) (f : MemOp → MemOp) : (s.modOp n f).upsets = s.upsets := rfl
@[simp] theorem State.modOp_arg (s : State) (n : Nat) (f : MemOp → MemOp) : (s.modOp n f).arg = s.arg := rfl
@[simp] theorem State.modOp_cur (s : State) (n : Nat) (f : MemOp → MemOp) : (s.modOp n f).cur = s.cur := rfl
@[simp] theorem State.modOp_turnEv (s : State) (n : Nat) (f : MemOp → MemOp) : (s.modOp n f).turnEv = s.turnEv := rfl
@[simp] theorem State.modOp_turn (s : State) (n : Nat) (f : MemOp → MemOp) : (s.modOp n f).turn = s.turn := rfl
@[simp] theorem State.modOp_mem (s : State) (n : Nat) (f : MemOp → MemOp) : (s.modOp n f).mem = s.mem := rfl
@[simp] theorem State.modOp_stamps (s : State) (n : Nat) (f : MemOp → MemOp) : (s.modOp n f).stamps = s.stamps := rfl
@[simp] theorem State.modOp_bad (s : State) (n : Nat) (f : MemOp → MemOp) : (s.modOp n f).bad = s.bad := rfl
@[simp] theorem State.modOp_cores (s : State) (n : Nat) (f : MemOp → MemOp) : (s.modOp n f).cores = s.cores := rfl
@[simp] theorem State.modOp_dir (s : State) (n : Nat) (f : MemOp → MemOp) : (s.modOp n f).dir = s.dir := rfl
@[simp] theorem State.modOp_net (s : State) (n : Nat) (f : MemOp → MemOp) : (s.modOp n f).net = s.net := rfl
@[simp] theorem State.modOp_cmes (s : State) (n : Nat) (f : MemOp → MemOp) : (s.modOp n f).cmes = s.cmes := rfl
@[simp] theorem State.modOp_trels (s : State) (n : Nat) (f : MemOp → MemOp) : (s.modOp n f).trels = s.trels := rfl
@[simp] theorem State.modOp_tops (s : State) (n : Nat) (f : MemOp → MemOp) : (s.modOp n f).tops = s.tops := rfl
@[simp] theorem State.modOp_dieTlbs (s : State) (n : Nat) (f : MemOp → MemOp) : (s.modOp n f).dieTlbs = s.dieTlbs := rfl
@[simp] theorem State.modOp_lodge (s : State) (n : Nat) (f : MemOp → MemOp) : (s.modOp n f).lodge = s.lodge := rfl
@[simp] theorem State.modOp_pergola (s : State) (n : Nat) (f : MemOp → MemOp) : (s.modOp n f).pergola = s.pergola := rfl
@[simp] theorem State.modOp_host (s : State) (n : Nat) (f : MemOp → MemOp) : (s.modOp n f).host = s.host := rfl
@[simp] theorem State.modOp_fabric (s : State) (n : Nat) (f : MemOp → MemOp) : (s.modOp n f).fabric = s.fabric := rfl
@[simp] theorem State.modOp_power (s : State) (n : Nat) (f : MemOp → MemOp) : (s.modOp n f).power = s.power := rfl

/-! ### State.raiseContain -/

@[simp] theorem State.raiseContain_clock (s : State) (p : Nat) : (s.raiseContain p).clock = s.clock := by unfold State.raiseContain; split <;> rfl
@[simp] theorem State.raiseContain_nextId (s : State) (p : Nat) : (s.raiseContain p).nextId = s.nextId := by unfold State.raiseContain; split <;> rfl
@[simp] theorem State.raiseContain_agenda (s : State) (p : Nat) : (s.raiseContain p).agenda = s.agenda := by unfold State.raiseContain; split <;> rfl
@[simp] theorem State.raiseContain_upsets (s : State) (p : Nat) : (s.raiseContain p).upsets = s.upsets := by unfold State.raiseContain; split <;> rfl
@[simp] theorem State.raiseContain_arg (s : State) (p : Nat) : (s.raiseContain p).arg = s.arg := by unfold State.raiseContain; split <;> rfl
@[simp] theorem State.raiseContain_cur (s : State) (p : Nat) : (s.raiseContain p).cur = s.cur := by unfold State.raiseContain; split <;> rfl
@[simp] theorem State.raiseContain_turnEv (s : State) (p : Nat) : (s.raiseContain p).turnEv = s.turnEv := by unfold State.raiseContain; split <;> rfl
@[simp] theorem State.raiseContain_turn (s : State) (p : Nat) : (s.raiseContain p).turn = s.turn := by unfold State.raiseContain; split <;> rfl
@[simp] theorem State.raiseContain_mem (s : State) (p : Nat) : (s.raiseContain p).mem = s.mem := by unfold State.raiseContain; split <;> rfl
@[simp] theorem State.raiseContain_stamps (s : State) (p : Nat) : (s.raiseContain p).stamps = s.stamps := by unfold State.raiseContain; split <;> rfl
@[simp] theorem State.raiseContain_bad (s : State) (p : Nat) : (s.raiseContain p).bad = s.bad := by unfold State.raiseContain; split <;> rfl
@[simp] theorem State.raiseContain_cores (s : State) (p : Nat) : (s.raiseContain p).cores = s.cores := by unfold State.raiseContain; split <;> rfl
@[simp] theorem State.raiseContain_dir (s : State) (p : Nat) : (s.raiseContain p).dir = s.dir := by unfold State.raiseContain; split <;> rfl
@[simp] theorem State.raiseContain_net (s : State) (p : Nat) : (s.raiseContain p).net = s.net := by unfold State.raiseContain; split <;> rfl
@[simp] theorem State.raiseContain_ops (s : State) (p : Nat) : (s.raiseContain p).ops = s.ops := by unfold State.raiseContain; split <;> rfl
@[simp] theorem State.raiseContain_cmes (s : State) (p : Nat) : (s.raiseContain p).cmes = s.cmes := by unfold State.raiseContain; split <;> rfl
@[simp] theorem State.raiseContain_trels (s : State) (p : Nat) : (s.raiseContain p).trels = s.trels := by unfold State.raiseContain; split <;> rfl
@[simp] theorem State.raiseContain_tops (s : State) (p : Nat) : (s.raiseContain p).tops = s.tops := by unfold State.raiseContain; split <;> rfl
@[simp] theorem State.raiseContain_dieTlbs (s : State) (p : Nat) : (s.raiseContain p).dieTlbs = s.dieTlbs := by unfold State.raiseContain; split <;> rfl
@[simp] theorem State.raiseContain_pergola (s : State) (p : Nat) : (s.raiseContain p).pergola = s.pergola := by unfold State.raiseContain; split <;> rfl
@[simp] theorem State.raiseContain_host (s : State) (p : Nat) : (s.raiseContain p).host = s.host := by unfold State.raiseContain; split <;> rfl
@[simp] theorem State.raiseContain_fabric (s : State) (p : Nat) : (s.raiseContain p).fabric = s.fabric := by unfold State.raiseContain; split <;> rfl
@[simp] theorem State.raiseContain_power (s : State) (p : Nat) : (s.raiseContain p).power = s.power := by unfold State.raiseContain; split <;> rfl

/-! ### State.count -/

@[simp] theorem State.count_clock (s : State) (die part ev n : Nat) : (s.count die part ev n).clock = s.clock := by unfold State.count; split <;> rfl
@[simp] theorem State.count_nextId (s : State) (die part ev n : Nat) : (s.count die part ev n).nextId = s.nextId := by unfold State.count; split <;> rfl
@[simp] theorem State.count_agenda (s : State) (die part ev n : Nat) : (s.count die part ev n).agenda = s.agenda := by unfold State.count; split <;> rfl
@[simp] theorem State.count_upsets (s : State) (die part ev n : Nat) : (s.count die part ev n).upsets = s.upsets := by unfold State.count; split <;> rfl
@[simp] theorem State.count_arg (s : State) (die part ev n : Nat) : (s.count die part ev n).arg = s.arg := by unfold State.count; split <;> rfl
@[simp] theorem State.count_cur (s : State) (die part ev n : Nat) : (s.count die part ev n).cur = s.cur := by unfold State.count; split <;> rfl
@[simp] theorem State.count_turnEv (s : State) (die part ev n : Nat) : (s.count die part ev n).turnEv = s.turnEv := by unfold State.count; split <;> rfl
@[simp] theorem State.count_turn (s : State) (die part ev n : Nat) : (s.count die part ev n).turn = s.turn := by unfold State.count; split <;> rfl
@[simp] theorem State.count_mem (s : State) (die part ev n : Nat) : (s.count die part ev n).mem = s.mem := by unfold State.count; split <;> rfl
@[simp] theorem State.count_stamps (s : State) (die part ev n : Nat) : (s.count die part ev n).stamps = s.stamps := by unfold State.count; split <;> rfl
@[simp] theorem State.count_bad (s : State) (die part ev n : Nat) : (s.count die part ev n).bad = s.bad := by unfold State.count; split <;> rfl
@[simp] theorem State.count_cores (s : State) (die part ev n : Nat) : (s.count die part ev n).cores = s.cores := by unfold State.count; split <;> rfl
@[simp] theorem State.count_dir (s : State) (die part ev n : Nat) : (s.count die part ev n).dir = s.dir := by unfold State.count; split <;> rfl
@[simp] theorem State.count_net (s : State) (die part ev n : Nat) : (s.count die part ev n).net = s.net := by unfold State.count; split <;> rfl
@[simp] theorem State.count_ops (s : State) (die part ev n : Nat) : (s.count die part ev n).ops = s.ops := by unfold State.count; split <;> rfl
@[simp] theorem State.count_cmes (s : State) (die part ev n : Nat) : (s.count die part ev n).cmes = s.cmes := by unfold State.count; split <;> rfl
@[simp] theorem State.count_trels (s : State) (die part ev n : Nat) : (s.count die part ev n).trels = s.trels := by unfold State.count; split <;> rfl
@[simp] theorem State.count_tops (s : State) (die part ev n : Nat) : (s.count die part ev n).tops = s.tops := by unfold State.count; split <;> rfl
@[simp] theorem State.count_dieTlbs (s : State) (die part ev n : Nat) : (s.count die part ev n).dieTlbs = s.dieTlbs := by unfold State.count; split <;> rfl
@[simp] theorem State.count_lodge (s : State) (die part ev n : Nat) : (s.count die part ev n).lodge = s.lodge := by unfold State.count; split <;> rfl
@[simp] theorem State.count_pergola (s : State) (die part ev n : Nat) : (s.count die part ev n).pergola = s.pergola := by unfold State.count; split <;> rfl
@[simp] theorem State.count_host (s : State) (die part ev n : Nat) : (s.count die part ev n).host = s.host := by unfold State.count; split <;> rfl
@[simp] theorem State.count_fabric (s : State) (die part ev n : Nat) : (s.count die part ev n).fabric = s.fabric := by unfold State.count; split <;> rfl

/-! ### What the updates read back as -/

@[simp] theorem State.setCore_core (s : State) (c : Nat) (x : Core) : (s.setCore c x).core c = x := by
  simp [State.core, State.setCore, mget]

theorem State.setCore_core_ne (s : State) {c d : Nat} (x : Core) (h : d ≠ c) : (s.setCore c x).core d = s.core d := by
  simp [State.core, State.setCore, mget, mfind_minsert_ne _ _ h]

@[simp] theorem State.modCore_core (s : State) (c : Nat) (f : Core → Core) : (s.modCore c f).core c = f (s.core c) := by
  simp [State.modCore]

theorem State.modCore_core_ne (s : State) {c d : Nat} (f : Core → Core) (h : d ≠ c) :
    (s.modCore c f).core d = s.core d := State.setCore_core_ne s _ h

/-- Two changes of a core are one. -/
theorem State.modCore_modCore (s : State) (c : Nat) (f h : Core → Core) :
    (s.modCore c f).modCore c h = s.modCore c (fun x => h (f x)) := by
  simp [State.modCore, State.setCore, State.core, mget, minsert_minsert]

@[simp] theorem Core.setGang_slots (x : Core) (k : Nat) (g : Gang) : (x.setGang k g).slots = minsert x.slots k g := rfl
@[simp] theorem Core.setGang_crews (x : Core) (k : Nat) (g : Gang) : (x.setGang k g).crews = x.crews := rfl

@[simp] theorem State.setGang_gang (s : State) (c k : Nat) (g : Gang) : (s.setGang c k g).gang? c k = some g := by
  simp [State.gang?, State.setGang]

theorem State.setGang_gang_ne (s : State) {c d j k : Nat} (g : Gang) (h : d ≠ c ∨ j ≠ k) :
    (s.setGang c k g).gang? d j = s.gang? d j := by
  by_cases hd : d = c
  · subst hd
    have hj : j ≠ k := by simpa using h
    simp [State.gang?, State.setGang, mfind_minsert_ne _ _ hj]
  · simp [State.gang?, State.setGang, State.modCore_core_ne _ _ hd]

/-- The later of two gangs put in a slot stays. -/
theorem State.setGang_setGang (s : State) (c k : Nat) (g h : Gang) : (s.setGang c k g).setGang c k h = s.setGang c k h := by
  simp [State.setGang, State.modCore_modCore, Core.setGang, minsert_minsert]

theorem State.setGang_crew (s : State) (c k d n : Nat) (g : Gang) : (s.setGang c k g).crew d n = s.crew d n := by
  by_cases hd : d = c
  · subst hd
    simp [State.crew, Core.crew, State.setGang]
  · simp [State.crew, State.setGang, State.modCore_core_ne _ _ hd]

/-- A change of the gang in a slot that holds one. -/
theorem State.modGang_of (s : State) {c k : Nat} (f : Gang → Gang) {g : Gang} (h : s.gang? c k = some g) :
    s.modGang c k f = s.setGang c k (f g) := by simp [State.modGang, h]

/-- A change of a crew that its core holds. -/
theorem State.modCrew_of (s : State) {c n : Nat} (f : Crew → Crew) {w : Crew} (h : mfind (s.core c).crews n = some w) :
    s.modCrew c n f = s.modCore c (fun x => x.setCrew n (f w)) := by simp [State.modCrew, h]

@[simp] theorem State.count_core (s : State) (die part ev n c : Nat) : (s.count die part ev n).core c = s.core c := by
  simp [State.core]

@[simp] theorem State.count_gang (s : State) (die part ev n c k : Nat) :
    (s.count die part ev n).gang? c k = s.gang? c k := by simp [State.gang?]

@[simp] theorem State.put_gang (s : State) (g : Gang) : (s.put g).gang? s.cur.core s.cur.slot = some g := by
  simp [State.put]

@[simp] theorem State.bump_core (s : State) (c : Nat) : s.bump.core c = s.core c := rfl
@[simp] theorem State.sendM_core (s : State) (m : Msg) (c : Nat) : (s.sendM m).core c = s.core c := rfl
@[simp] theorem State.sendL_core (s : State) (m : LMsg) (c : Nat) : (s.sendL m).core c = s.core c := rfl

/-! ### Gangs -/

@[simp] theorem Gang.setFlags_nstat (g : Gang) (f : Flags) : (g.setFlags f).nstat = g.nstat ||| f := rfl
@[simp] theorem Gang.setFlags_pend (g : Gang) (f : Flags) : (g.setFlags f).pend = g.pend := rfl
@[simp] theorem Gang.setFlags_vregs (g : Gang) (f : Flags) : (g.setFlags f).vregs = g.vregs := rfl
@[simp] theorem Gang.setFlags_uregs (g : Gang) (f : Flags) : (g.setFlags f).uregs = g.uregs := rfl
@[simp] theorem Gang.setFlags_preds (g : Gang) (f : Flags) : (g.setFlags f).preds = g.preds := rfl
@[simp] theorem Gang.setFlags_lanes (g : Gang) (f : Flags) : (g.setFlags f).lanes = g.lanes := rfl
@[simp] theorem Gang.setFlags_mode (g : Gang) (f : Flags) : (g.setFlags f).mode = g.mode := rfl

/-- Scheduling results changes nothing but the pending writes. -/
theorem Gang.schedule_eq (lat : Nat) (ws : List (Loc × BitVec 128)) (g : Gang) :
    ∃ ps, g.schedule lat ws = { g with pend := ps } := ⟨_, rfl⟩

end Sys2Proof.Machine
end

