-- ==== Sys2Proof/Laws/Issue.lean ====
section
/-! SUPPORT. What issuing an instruction can do, said once: which check stops it, how its effect ends, and what each end
leaves alone. -/

namespace Sys2Proof.Machine

/-! ### When a gang may issue -/

theorem State.issuing_gang {s : State} {g : Gang} (h : s.issuing = some g) :
    ∃ g0, s.gang? s.cur.core s.cur.slot = some g0 ∧ g = g0.begin := by
  unfold State.issuing at h
  cases hg : s.gang? s.cur.core s.cur.slot with
  | none => simp [hg] at h
  | some g0 => exact ⟨g0, rfl, by simpa [hg] using h.symm⟩

/-- What State.seesHeads says of the blocks that an instruction looks at. -/
theorem State.seesHeads_iff {s : State} {g : Gang} {sg : Sig} : s.seesHeads g sg = true ↔
    (s.accessAll false (s.headsOf s.cur.core s.cur.slot g s.cur.len sg.looks) (s.partOf s.cur.core s.cur.slot)).2 = true ∧
      s.spotBad (s.headsOf s.cur.core s.cur.slot g s.cur.len sg.looks) = none := by
  simp [State.seesHeads]

/-- An instruction that looks at no header has none to wait for. -/
theorem State.seesHeads_nil {s : State} {g : Gang} {sg : Sig} (h : s.headsOf s.cur.core s.cur.slot g s.cur.len sg.looks = []) :
    s.seesHeads g sg = true := by
  rw [State.seesHeads_iff, h]; exact ⟨rfl, rfl⟩

/-- What State.canIssue says, one by one. -/
theorem State.canIssue_iff (s : State) (g : Gang) (sg : Sig) : s.canIssue g sg = true ↔
    s.issuing = some g ∧ (sg.priv = true → s.cur.slot = privSlot) ∧ sg.ok = true ∧ sg.tiles = true ∧ sg.waits g = false ∧
      ((s.core s.cur.core).schk = true → sg.late g = false) ∧ sg.closed = none ∧ s.seesHeads g sg = true := by
  simp only [State.canIssue, Bool.and_eq_true, Bool.or_eq_true, decide_eq_true_eq, Bool.not_eq_true', Option.isNone_iff_eq_none]
  cases sg.priv <;> cases (s.core s.cur.core).schk <;> simp [and_assoc]

/-- An instruction that may issue does what its effect says. -/
theorem issue_of_canIssue {s : State} {sig : Gang → Sig} (eff : Gang → Res) {g : Gang} (h : s.canIssue g (sig g) = true) :
    issue s sig eff = match eff g with
      | .go t => .next (s.ends (sig g) t)
      | .jump t => .next (s.leaves (sig g) t)
      | .hold => .next s
      | .ask t => .next (s.asked t)
      | .trap t => .next (s.traps t) := by
  obtain ⟨hi, hp, hok, ht, hw, hl, hc, hh⟩ := (s.canIssue_iff g (sig g)).1 h
  obtain ⟨g0, hg, rfl⟩ := State.issuing_gang hi
  have h1 : ((sig g0.begin).priv && decide (s.cur.slot ≠ privSlot)) = false := by
    cases hq : (sig g0.begin).priv with
    | false => rfl
    | true => simp [hp hq]
  have h2 : ((s.core s.cur.core).schk && (sig g0.begin).late g0.begin) = false := by
    cases hk : (s.core s.cur.core).schk with
    | false => rfl
    | true => simp [hl hk]
  obtain ⟨ha, hb⟩ := State.seesHeads_iff.1 hh
  unfold issue
  simp only [hg, h1, hok, ht, hw, h2, hc, ha, hb, Bool.and_false, Bool.not_true, Bool.false_eq_true, if_false]
  cases eff g0.begin <;> simp only [State.ends, State.leaves, State.bankReads, hi, Option.map_some, Option.getD_some] <;> rfl

theorem issue_go {s : State} {sig : Gang → Sig} {eff : Gang → Res} {g : Gang} {t : State}
    (h : s.canIssue g (sig g) = true) (he : eff g = .go t) : issue s sig eff = .next (s.ends (sig g) t) := by
  rw [issue_of_canIssue eff h, he]

theorem issue_jump {s : State} {sig : Gang → Sig} {eff : Gang → Res} {g : Gang} {t : State}
    (h : s.canIssue g (sig g) = true) (he : eff g = .jump t) : issue s sig eff = .next (s.leaves (sig g) t) := by
  rw [issue_of_canIssue eff h, he]

theorem issue_hold {s : State} {sig : Gang → Sig} {eff : Gang → Res} {g : Gang}
    (h : s.canIssue g (sig g) = true) (he : eff g = .hold) : issue s sig eff = .next s := by
  rw [issue_of_canIssue eff h, he]

theorem issue_ask {s : State} {sig : Gang → Sig} {eff : Gang → Res} {g : Gang} {t : State}
    (h : s.canIssue g (sig g) = true) (he : eff g = .ask t) : issue s sig eff = .next (s.asked t) := by
  rw [issue_of_canIssue eff h, he]

theorem issue_trap {s : State} {sig : Gang → Sig} {eff : Gang → Res} {g : Gang} {t : Trap}
    (h : s.canIssue g (sig g) = true) (he : eff g = .trap t) : issue s sig eff = .next (s.traps t) := by
  rw [issue_of_canIssue eff h, he]

/-- Everything that issuing an instruction can lead to. -/
theorem issue_cases {s : State} {sig : Gang → Sig} {eff : Gang → Res} {t : State} (h : issue s sig eff = .next t) :
    ∃ g, s.issuing = some g ∧
      (t = s ∨ (∃ x, t = s.traps x) ∨ (∃ u, eff g = .go u ∧ t = s.ends (sig g) u) ∨
        (∃ u, eff g = .jump u ∧ t = s.leaves (sig g) u) ∨ (∃ u, eff g = .ask u ∧ t = s.asked u) ∨
        t = s.asked (s.accessAll false (s.headsOf s.cur.core s.cur.slot g s.cur.len (sig g).looks)
          (s.partOf s.cur.core s.cur.slot)).1 ∨
        (∃ q, t = s.mismatch (s.partOf s.cur.core s.cur.slot) s.cur.core q)) := by
  unfold issue at h
  cases hg : s.gang? s.cur.core s.cur.slot with
  | none => simp [hg] at h
  | some g0 =>
    have hi : s.issuing = some g0.begin := by simp [State.issuing, hg]
    have tr : ∀ x, s.issued s.cur.core s.cur.slot 0 (s.takeTrap s.cur.core s.cur.slot x) = .next t → t = s.traps x :=
      fun x e => (Host.Outcome.next.inj e).symm
    refine ⟨g0.begin, hi, ?_⟩
    simp only [hg] at h
    split at h
    · exact .inl (Host.Outcome.next.inj h).symm
    split at h
    · exact .inr (.inr (.inr (.inr (.inr (.inl (Host.Outcome.next.inj h).symm)))))
    split at h
    · exact .inr (.inr (.inr (.inr (.inr (.inr ⟨_, (Host.Outcome.next.inj h).symm⟩)))))
    iterate 4 (split at h; exact .inr (.inl ⟨_, tr _ h⟩))
    split at h
    · exact .inl (Host.Outcome.next.inj h).symm
    split at h
    · exact .inr (.inl ⟨_, tr _ h⟩)
    split at h
    · exact .inr (.inr (.inl ⟨_, ‹_›, by simp only [State.ends, State.bankReads, hi]; exact (Host.Outcome.next.inj h).symm⟩))
    · exact .inr (.inr (.inr (.inl ⟨_, ‹_›, by simp only [State.leaves, State.bankReads, hi]; exact (Host.Outcome.next.inj h).symm⟩)))
    · exact .inl (Host.Outcome.next.inj h).symm
    · exact .inr (.inr (.inr (.inr (.inl ⟨_, ‹_›, (Host.Outcome.next.inj h).symm⟩))))
    · exact .inr (.inl ⟨_, tr _ h⟩)

/-- Issuing never refuses, and faults exactly where the slot holds no gang. -/
theorem issue_total (s : State) (sig : Gang → Sig) (eff : Gang → Res) :
    (∃ t, issue s sig eff = .next t) ∨ (s.gang? s.cur.core s.cur.slot = none ∧ issue s sig eff = .fault .noGang) := by
  have hn : ∀ (n : Nat) (u : State), ∃ t, s.issued s.cur.core s.cur.slot n u = .next t := fun n u => ⟨_, rfl⟩
  unfold issue
  cases hg : s.gang? s.cur.core s.cur.slot with
  | none => exact .inr ⟨rfl, by simp only [hg]⟩
  | some g0 =>
    refine .inl ?_
    simp only [hg]
    repeat' split
    all_goals first | exact hn _ _ | exact ⟨_, rfl⟩

/-! ### The checks of R82 -/

/-- A lane that would transfer to a block that may not be entered traps with cause 0x03, before every other check. -/
theorem issue_closed {s : State} {sig : Gang → Sig} (eff : Gang → Res) {g : Gang} {l : Nat} (h : s.issuing = some g)
    (hc : (sig g).closed = some l) (hw : (sig g).seeks = true → (sig g).waits g = false) (hh : s.seesHeads g (sig g) = true) :
    issue s sig eff = .next (s.traps { cause := 0x03, lane := l }) := by
  obtain ⟨g0, hg, rfl⟩ := State.issuing_gang h
  have h0 : ((sig g0.begin).seeks && (sig g0.begin).waits g0.begin) = false := by
    cases hq : (sig g0.begin).seeks with
    | false => rfl
    | true => simp [hw hq]
  obtain ⟨ha, hb⟩ := State.seesHeads_iff.1 hh
  unfold issue
  simp only [hg, h0, hc, ha, hb, Bool.not_true, Bool.false_eq_true, if_false]
  rfl

/-- Whether an instruction may seek its targets is decided first; one that seeks none has no closed target. -/
theorem issue_seeks {s : State} {sig : Gang → Sig} (eff : Gang → Res) {g : Gang} (h : s.issuing = some g)
    (hs : (sig g).seeks = true) (hw : (sig g).waits g = true) : issue s sig eff = .next s := by
  obtain ⟨g0, hg, rfl⟩ := State.issuing_gang h
  unfold issue
  simp only [hg, hs, hw, Bool.and_self, if_true]

/-- A privileged instruction in a crew slot traps with cause 0x05, before every check but that of its targets. -/
theorem issue_privilege {s : State} {sig : Gang → Sig} (eff : Gang → Res) {g : Gang} (h : s.issuing = some g)
    (hs : (sig g).seeks = false) (hc : (sig g).closed = none)
    (hp : (sig g).priv = true) (hk : s.cur.slot ≠ privSlot) (hh : s.seesHeads g (sig g) = true) :
    issue s sig eff = .next (s.traps { cause := 0x05 }) := by
  obtain ⟨g0, hg, rfl⟩ := State.issuing_gang h
  obtain ⟨ha, hb⟩ := State.seesHeads_iff.1 hh
  unfold issue
  simp only [hg, hs, hc, hp, hk, ha, hb, Bool.false_and, Bool.not_true, Bool.false_eq_true, if_false, Bool.true_and, decide_true, ne_eq, not_false_eq_true, if_true]
  rfl

/-- A field that breaks its rule traps with cause 0x02. -/
theorem issue_illegal {s : State} {sig : Gang → Sig} (eff : Gang → Res) {g : Gang} (h : s.issuing = some g)
    (hs : (sig g).seeks = true → (sig g).waits g = false) (hc : (sig g).closed = none)
    (hp : (sig g).priv = true → s.cur.slot = privSlot) (hok : (sig g).ok = false) (hh : s.seesHeads g (sig g) = true) :
    issue s sig eff = .next (s.traps { cause := 0x02 }) := by
  obtain ⟨g0, hg, rfl⟩ := State.issuing_gang h
  have h0 : ((sig g0.begin).seeks && (sig g0.begin).waits g0.begin) = false := by
    cases hq : (sig g0.begin).seeks with
    | false => rfl
    | true => simp [hs hq]
  have h1 : ((sig g0.begin).priv && decide (s.cur.slot ≠ privSlot)) = false := by
    cases hq : (sig g0.begin).priv with
    | false => rfl
    | true => simp [hp hq]
  obtain ⟨ha, hb⟩ := State.seesHeads_iff.1 hh
  unfold issue
  simp only [hg, h0, hc, h1, hok, ha, hb, Bool.not_true, Bool.false_eq_true, if_false, Bool.not_false, if_true]
  rfl

/-! ### Results -/

theorem foldl_results (d : Dst) (f : Nat → List (BitVec 32) × Flags) : ∀ (ls : List Nat) (a : List (Loc × BitVec 128) × Flags),
    ls.foldl (fun acc l => (acc.1 ++ dstWords d l (f l).1, acc.2 ||| (f l).2)) a =
      (a.1 ++ ls.flatMap (fun l => dstWords d l (f l).1), ls.foldl (fun x l => x ||| (f l).2) a.2)
  | [], a => by simp
  | l :: rest, a => by simp [foldl_results d f rest, List.append_assoc]

/-- The results of the lanes, as writes and as flags. -/
theorem Gang.results_eq (g : Gang) (d : Dst) (f : Nat → List (BitVec 32) × Flags) :
    g.results d f = (g.laneWrites d f, g.laneFlags d f) := by
  simp [Gang.results, Gang.laneWrites, Gang.laneFlags, foldl_results]

/-- A register instruction that may issue gives its results. -/
theorem issueWrites_eq {s : State} {sig : Gang → Sig} (f : Gang → List (Loc × BitVec 128) × Flags) {g : Gang}
    (h : s.canIssue g (sig g) = true) : issueWrites s sig f = .next (s.gives g (sig g) (f g).1 (f g).2) :=
  issue_go h rfl

/-- A register instruction whose results are those of its lanes. -/
theorem issueWrites_lanes {s : State} {sig : Gang → Sig} {f : Gang → List (Loc × BitVec 128) × Flags} {g : Gang} {d : Dst}
    {v : Nat → List (BitVec 32) × Flags} (h : s.canIssue g (sig g) = true) (hf : f g = g.results d v) :
    issueWrites s sig f = .next (s.givesLanes g (sig g) d v) := by
  rw [issueWrites_eq f h, hf, Gang.results_eq]
  rfl

end Sys2Proof.Machine
end

