-- ==== Sys2Proof/Laws/Gang.lean ====
section
/-! SUPPORT. The registers of a gang: what a write, the landing of results and a frontier step leave where (R84, R88, R117), and
that they keep the order of Gang.Ordered. -/

namespace Sys2Proof.Machine

/-! ### One write -/

/-- The registers of a gang stand in order. -/
structure Gang.Sorted (g : Gang) : Prop where
  vregs : msorted g.vregs = true
  uregs : msorted g.uregs = true
  preds : msorted g.preds = true
  tdescs : msorted g.tdescs = true

theorem Gang.Ordered.sorted {g : Gang} (h : g.Ordered) : g.Sorted := ⟨h.vregs, h.uregs, h.preds, h.tdescs⟩

@[simp] theorem Gang.store_lanes (g : Gang) (x : Loc) (v : BitVec 128) : (g.store x v).lanes = g.lanes := by
  unfold Gang.store; split <;> (try split) <;> rfl
@[simp] theorem Gang.store_pend (g : Gang) (x : Loc) (v : BitVec 128) : (g.store x v).pend = g.pend := by
  unfold Gang.store; split <;> (try split) <;> rfl
@[simp] theorem Gang.write_lanes (g : Gang) (n : Nat) (w : Loc × BitVec 128) : (g.write n w).lanes = g.lanes := by simp [Gang.write, Gang.disown]
@[simp] theorem Gang.write_pend (g : Gang) (n : Nat) (w : Loc × BitVec 128) : (g.write n w).pend = g.pend := by simp [Gang.write, Gang.disown]

theorem Gang.Sorted.write {g : Gang} (h : g.Sorted) (n : Nat) (w : Loc × BitVec 128) : (g.write n w).Sorted := by
  obtain ⟨x, v⟩ := w
  cases x with
  | v r l => exact ⟨msorted_mput _ _ _ _ h.vregs, h.uregs, h.preds, h.tdescs⟩
  | g r => exact ⟨h.vregs, msorted_mput _ _ _ _ h.uregs, h.preds, h.tdescs⟩
  | t r => exact ⟨h.vregs, h.uregs, h.preds, msorted_mput _ _ _ _ h.tdescs⟩
  | p r l =>
    by_cases hr : r = 0
    · simp only [Gang.write, Gang.disown, Gang.store, hr, if_true]; exact ⟨h.vregs, h.uregs, h.preds, h.tdescs⟩
    · simp only [Gang.write, Gang.disown, Gang.store, hr, if_false]
      exact ⟨h.vregs, h.uregs, msorted_mput _ _ _ _ h.preds, h.tdescs⟩

theorem mget_mput {α : Type} [DecidableEq α] (d : α) (m : SMap α) (h : msorted m = true) (i j : Nat) (x : α) :
    mget d (mput d m i x) j = if i = j then x else mget d m j := by
  split
  · rename_i e; subst e; exact mget_mput_same d i x m h
  · rename_i e; exact mget_mput_ne d x m h (fun h => e h.symm)

theorem Gang.write_u {g : Gang} (h : g.Sorted) (n r : Nat) (w : Loc × BitVec 128) :
    (g.write n w).u r = if w.1 = .g r then w.2.setWidth 32 else g.u r := by
  obtain ⟨x, v⟩ := w
  cases x with
  | g q =>
    simp only [Gang.write, Gang.disown, Gang.store, Gang.u, mget_mput 0#32 g.uregs h.uregs, Loc.g.injEq]
  | v q l => rfl
  | t q => rfl
  | p q l => simp only [Gang.write, Gang.disown, Gang.store]; split <;> rfl

theorem Gang.write_t {g : Gang} (h : g.Sorted) (n r : Nat) (w : Loc × BitVec 128) :
    (g.write n w).t r = if w.1 = .t r then w.2 else g.t r := by
  obtain ⟨x, v⟩ := w
  cases x with
  | t q => simp only [Gang.write, Gang.disown, Gang.store, Gang.t, mget_mput 0#128 g.tdescs h.tdescs, Loc.t.injEq]
  | v q l => rfl
  | g q => rfl
  | p q l => simp only [Gang.write, Gang.disown, Gang.store]; split <;> rfl

/-- A write reaches a lane of a vector register exactly when it names its place. -/
theorem Gang.write_v {g : Gang} (h : g.Sorted) (n x y r l : Nat) (v : BitVec 128) :
    (g.write n (.v x y, v)).v r l = if 32 * x + y = 32 * r + l then v.setWidth 32 else g.v r l := by
  simp only [Gang.write, Gang.disown, Gang.store, Gang.v, mget_mput 0#32 g.vregs h.vregs]

theorem Gang.write_v_ne {g : Gang} (h : g.Sorted) (n r l : Nat) (w : Loc × BitVec 128)
    (hw : ∀ x y, w.1 = .v x y → 32 * x + y ≠ 32 * r + l) : (g.write n w).v r l = g.v r l := by
  obtain ⟨x, v⟩ := w
  cases x with
  | v x y => rw [Gang.write_v h, if_neg (hw x y rfl)]
  | g q => rfl
  | t q => rfl
  | p q l => simp only [Gang.write, Gang.disown, Gang.store]; split <;> rfl

theorem getLsbD_setBit (m : BitVec 32) (l j : Nat) (b : Bool) (hj : j < 32) :
    (setBit m l b).getLsbD j = if l = j then b else m.getLsbD j := by
  cases b <;> simp only [setBit, if_true, Bool.false_eq_true, if_false]
  · simp only [BitVec.getLsbD_and, BitVec.getLsbD_not, BitVec.getLsbD_shiftLeft, BitVec.getLsbD_one, hj, decide_true, Bool.true_and]
    by_cases h : l = j
    · subst h; simp
    · rw [if_neg h]
      have : (decide (0 < 32) && decide (j - l = 0) && ! decide (j < l)) = false := by
        by_cases h2 : j < l
        · simp [h2]
        · have : j - l ≠ 0 := by omega
          simp [this]
      cases hm : m.getLsbD j <;> simp
      omega
  · simp only [BitVec.getLsbD_or, BitVec.getLsbD_shiftLeft, BitVec.getLsbD_one, hj, decide_true, Bool.true_and]
    by_cases h : l = j
    · subst h; simp
    · rw [if_neg h]
      cases hm : m.getLsbD j <;> simp
      omega

theorem Gang.write_pred {g : Gang} (h : g.Sorted) (n p l : Nat) (hl : l < 32) (w : Loc × BitVec 128) :
    (g.write n w).pred p l = if w.1 = .p p l ∧ p ≠ 0 then w.2.getLsbD 0 else g.pred p l := by
  obtain ⟨x, v⟩ := w
  by_cases hp : p = 0
  · subst hp; simp [Gang.pred]
  cases x with
  | p q y =>
    by_cases hq : q = 0
    · subst hq
      have : ¬ (0 = p) := fun e => hp e.symm
      simp [Gang.write, Gang.disown, Gang.store, this, Gang.pred]
    · simp only [Gang.write, Gang.disown, Gang.store, hq, if_false, Gang.pred, mget_mput 0#32 g.preds h.preds, Loc.p.injEq]
      by_cases e : q = p
      · subst e
        simp only [true_and, if_true, hp, decide_false, Bool.false_or, ne_eq, not_false_eq_true, and_true,
          getLsbD_setBit _ _ _ _ hl]
      · simp [e]
  | v q l => simp [Gang.write, Gang.disown, Gang.store, Gang.pred]
  | g q => simp [Gang.write, Gang.disown, Gang.store, Gang.pred]
  | t q => simp [Gang.write, Gang.disown, Gang.store, Gang.pred]

/-! ### Landing (R84) -/

theorem Gang.land_eq (g : Gang) (c : Nat) : g.land c =
    (Gang.landing { g with pend := g.pend.filter (fun w => ¬ w.land ≤ c) } (g.pend.filter (fun w => w.land ≤ c))).repack
      (packsOf (g.pend.filter (fun w => w.land ≤ c))) := rfl

theorem Gang.landAll_eq (g : Gang) : g.landAll = (Gang.landing { g with pend := [] } g.pend).repack (packsOf g.pend) := rfl

/-! Packing changes no value of a register (R28). -/

@[simp] theorem Gang.repack_lanes (g : Gang) (ws : List (Loc × Bool)) : (g.repack ws).lanes = g.lanes := rfl
@[simp] theorem Gang.repack_pend (g : Gang) (ws : List (Loc × Bool)) : (g.repack ws).pend = g.pend := rfl
@[simp] theorem Gang.repack_vregs (g : Gang) (ws : List (Loc × Bool)) : (g.repack ws).vregs = g.vregs := rfl
@[simp] theorem Gang.repack_uregs (g : Gang) (ws : List (Loc × Bool)) : (g.repack ws).uregs = g.uregs := rfl
@[simp] theorem Gang.repack_preds (g : Gang) (ws : List (Loc × Bool)) : (g.repack ws).preds = g.preds := rfl
@[simp] theorem Gang.repack_tdescs (g : Gang) (ws : List (Loc × Bool)) : (g.repack ws).tdescs = g.tdescs := rfl
@[simp] theorem Gang.repack_v (g : Gang) (ws : List (Loc × Bool)) (r l : Nat) : (g.repack ws).v r l = g.v r l := rfl
@[simp] theorem Gang.repack_u (g : Gang) (ws : List (Loc × Bool)) (r : Nat) : (g.repack ws).u r = g.u r := rfl
@[simp] theorem Gang.repack_t (g : Gang) (ws : List (Loc × Bool)) (r : Nat) : (g.repack ws).t r = g.t r := rfl
@[simp] theorem Gang.repack_pred (g : Gang) (ws : List (Loc × Bool)) (p l : Nat) : (g.repack ws).pred p l = g.pred p l := rfl

theorem Gang.Sorted.repack {g : Gang} (h : g.Sorted) (ws : List (Loc × Bool)) : (g.repack ws).Sorted :=
  ⟨h.vregs, h.uregs, h.preds, h.tdescs⟩

theorem Gang.landing_append (g : Gang) (xs ys : List PWrite) : g.landing (xs ++ ys) = (g.landing xs).landing ys := by
  simp [Gang.landing]

theorem Gang.Sorted.landing : ∀ (ws : List PWrite) {g : Gang}, g.Sorted → (g.landing ws).Sorted
  | [], _, h => h
  | w :: rest, _, h => Gang.Sorted.landing rest (h.write w.seq (w.loc, w.val))

@[simp] theorem Gang.landing_lanes (g : Gang) (ws : List PWrite) : (g.landing ws).lanes = g.lanes :=
  foldl_keeps (fun g : Gang => g.lanes) _ (fun _ _ => Gang.write_lanes _ _ _) ws g

/-- What landing leaves alone: all of a gang but its registers, how they are packed, and what operations in flight still own. -/
def Gang.frame (g : Gang) : Gang := { g with vregs := [], uregs := [], preds := [], tdescs := [], packed := [], flights := [], claims := [] }

theorem Gang.write_frame (g : Gang) (n : Nat) (w : Loc × BitVec 128) : (g.write n w).frame = g.frame := by
  simp only [Gang.write, Gang.disown, Gang.store]
  split <;> (try split) <;> rfl

theorem Gang.repack_frame (g : Gang) (ws : List (Loc × Bool)) : (g.repack ws).frame = g.frame := rfl

theorem Gang.landing_frame (ws : List PWrite) (g : Gang) : (g.landing ws).frame = g.frame :=
  foldl_keeps Gang.frame _ (fun _ _ => Gang.write_frame _ _ _) ws g

theorem Gang.landing_u_ne : ∀ (ws : List PWrite) {g : Gang}, g.Sorted → ∀ {r : Nat}, (∀ w ∈ ws, w.loc ≠ .g r) →
    (g.landing ws).u r = g.u r
  | [], _, _, _, _ => rfl
  | w :: rest, g, h, r, hw => by
    refine (Gang.landing_u_ne rest (h.write w.seq (w.loc, w.val)) (fun x hx => hw x (List.mem_cons_of_mem _ hx))).trans ?_
    rw [Gang.write_u h, if_neg (hw w List.mem_cons_self)]

theorem Gang.landing_t_ne : ∀ (ws : List PWrite) {g : Gang}, g.Sorted → ∀ {r : Nat}, (∀ w ∈ ws, w.loc ≠ .t r) →
    (g.landing ws).t r = g.t r
  | [], _, _, _, _ => rfl
  | w :: rest, g, h, r, hw => by
    refine (Gang.landing_t_ne rest (h.write w.seq (w.loc, w.val)) (fun x hx => hw x (List.mem_cons_of_mem _ hx))).trans ?_
    rw [Gang.write_t h, if_neg (hw w List.mem_cons_self)]

theorem Gang.landing_v_ne : ∀ (ws : List PWrite) {g : Gang}, g.Sorted → ∀ {r l : Nat},
    (∀ w ∈ ws, ∀ x y, w.loc = .v x y → 32 * x + y ≠ 32 * r + l) → (g.landing ws).v r l = g.v r l
  | [], _, _, _, _, _ => rfl
  | w :: rest, g, h, r, l, hw => by
    refine (Gang.landing_v_ne rest (h.write w.seq (w.loc, w.val)) (fun x hx => hw x (List.mem_cons_of_mem _ hx))).trans ?_
    exact Gang.write_v_ne h _ _ _ _ (hw w List.mem_cons_self)

theorem Gang.landing_pred_ne : ∀ (ws : List PWrite) {g : Gang}, g.Sorted → ∀ {p l : Nat}, l < 32 →
    (∀ w ∈ ws, w.loc ≠ .p p l) → (g.landing ws).pred p l = g.pred p l
  | [], _, _, _, _, _, _ => rfl
  | w :: rest, g, h, p, l, hl, hw => by
    refine (Gang.landing_pred_ne rest (h.write w.seq (w.loc, w.val)) hl (fun x hx => hw x (List.mem_cons_of_mem _ hx))).trans ?_
    rw [Gang.write_pred h _ _ _ hl, if_neg (fun e => hw w List.mem_cons_self e.1)]

/-! ### Filing results (R84) -/

theorem pendInsert_mem (w : PWrite) : ∀ (ps : List PWrite) (x : PWrite), x ∈ pendInsert w ps ↔ x = w ∨ x ∈ ps
  | [], x => by simp [pendInsert]
  | y :: rest, x => by
    unfold pendInsert
    split
    · simp
    · rw [List.mem_cons, pendInsert_mem w rest x, List.mem_cons]
      exact or_left_comm

theorem pendInsert_pairwise (w : PWrite) : ∀ (ps : List PWrite), ps.Pairwise (fun x y => x.land ≤ y.land) →
    (pendInsert w ps).Pairwise (fun x y => x.land ≤ y.land)
  | [], _ => by simp [pendInsert]
  | y :: rest, h => by
    have h' := List.pairwise_cons.1 h
    unfold pendInsert
    split
    · rename_i hlt
      refine List.pairwise_cons.2 ⟨fun z hz => ?_, h⟩
      rcases List.mem_cons.1 hz with rfl | hz
      · omega
      · have := h'.1 z hz; omega
    · rename_i hlt
      refine List.pairwise_cons.2 ⟨fun z hz => ?_, pendInsert_pairwise w rest h'.2⟩
      rcases (pendInsert_mem w rest z).1 hz with rfl | hz
      · omega
      · exact h'.1 z hz

/-- Filing a write puts it behind every one that lands no later, and before the others. -/
theorem pendInsert_split (w : PWrite) : ∀ (ps : List PWrite), ps.Pairwise (fun x y => x.land ≤ y.land) →
    pendInsert w ps = ps.filter (fun x => x.land ≤ w.land) ++ w :: ps.filter (fun x => ¬ x.land ≤ w.land)
  | [], _ => rfl
  | y :: rest, h => by
    have h' := List.pairwise_cons.1 h
    unfold pendInsert
    split
    · rename_i hlt
      have hall : ∀ z ∈ y :: rest, ¬ z.land ≤ w.land := fun z hz => by
        rcases List.mem_cons.1 hz with rfl | hz
        · omega
        · have := h'.1 z hz; omega
      rw [List.filter_eq_nil_iff.2 (fun z hz => by simpa using hall z hz), List.filter_eq_self.2 (fun z hz => by simpa using hall z hz)]
      rfl
    · rename_i hlt
      have hy : y.land ≤ w.land := by omega
      rw [pendInsert_split w rest h'.2]
      simp [hy]

theorem Gang.schedule_pend (lat : Nat) (ws : List (Loc × BitVec 128)) (g : Gang) :
    g.schedule lat ws = { g with pend :=
      (ws.map (fun w => (⟨g.coded + lat, g.seq, w.1, w.2, g.whole⟩ : PWrite))).foldl (fun p w => pendInsert w p) g.pend } := by
  simp only [Gang.schedule, List.foldl_map]

theorem pendInserts_mem : ∀ (ws ps : List PWrite) (x : PWrite), x ∈ ws.foldl (fun p w => pendInsert w p) ps ↔ x ∈ ws ∨ x ∈ ps
  | [], ps, x => by simp
  | w :: rest, ps, x => by
    rw [List.foldl_cons, pendInserts_mem rest, pendInsert_mem, List.mem_cons]
    exact or_left_comm.trans or_assoc.symm

theorem pendInserts_pairwise : ∀ (ws ps : List PWrite), ps.Pairwise (fun x y => x.land ≤ y.land) →
    (ws.foldl (fun p w => pendInsert w p) ps).Pairwise (fun x y => x.land ≤ y.land)
  | [], _, h => h
  | w :: rest, _, h => pendInserts_pairwise rest _ (pendInsert_pairwise w _ h)

/-- Results that land together stand behind every pending write that lands no later, in their order. -/
theorem pendInserts_split (n : Nat) : ∀ (ws ps : List PWrite), (∀ w ∈ ws, w.land = n) → ps.Pairwise (fun x y => x.land ≤ y.land) →
    ws.foldl (fun p w => pendInsert w p) ps = ps.filter (fun x => x.land ≤ n) ++ ws ++ ps.filter (fun x => ¬ x.land ≤ n)
  | [], ps, _, h => by
    have : ∀ ps : List PWrite, ps.Pairwise (fun x y => x.land ≤ y.land) →
        ps = ps.filter (fun x => x.land ≤ n) ++ ps.filter (fun x => ¬ x.land ≤ n) := by
      intro ps
      induction ps with
      | nil => intro _; rfl
      | cons y rest ih =>
        intro h
        have h' := List.pairwise_cons.1 h
        by_cases hy : y.land ≤ n
        · have := ih h'.2
          simp only [List.filter_cons, hy, decide_true, if_true, not_true_eq_false, decide_false, Bool.false_eq_true, if_false,
            List.cons_append]
          exact congrArg (y :: ·) this
        · have hall : ∀ z ∈ y :: rest, ¬ z.land ≤ n := fun z hz => by
            rcases List.mem_cons.1 hz with rfl | hz
            · exact hy
            · have := h'.1 z hz; omega
          rw [List.filter_eq_nil_iff.2 (fun z hz => by simpa using hall z hz), List.filter_eq_self.2 (fun z hz => by simpa using hall z hz)]
          rfl
    simpa using this ps h
  | w :: rest, ps, hw, h => by
    have hn : w.land = n := hw w List.mem_cons_self
    rw [List.foldl_cons, pendInserts_split n rest _ (fun x hx => hw x (List.mem_cons_of_mem _ hx)) (pendInsert_pairwise w ps h),
      pendInsert_split w ps h, hn]
    have e1 : ps.filter (fun x => decide (x.land ≤ n) && decide (n < x.land)) = [] :=
      List.filter_eq_nil_iff.2 (fun x _ => by simp)
    have e2 : ps.filter (fun x => decide (n < x.land) && decide (x.land ≤ n)) = [] :=
      List.filter_eq_nil_iff.2 (fun x _ => by simp)
    simp [List.filter_append, List.filter_filter, hn, e1, e2]

/-! ### What stays outside a core -/

@[simp] theorem State.modCore_outside (s : State) (c : Nat) (f : Core → Core) : (s.modCore c f).outside = s.outside := rfl
@[simp] theorem State.setGang_outside (s : State) (c k : Nat) (g : Gang) : (s.setGang c k g).outside = s.outside := rfl
@[simp] theorem State.modGang_outside (s : State) (c k : Nat) (f : Gang → Gang) : (s.modGang c k f).outside = s.outside := by
  unfold State.modGang; split <;> rfl
@[simp] theorem State.count_outside (s : State) (d p e n : Nat) : (s.count d p e n).outside = s.outside := by
  unfold State.count; split <;> rfl
@[simp] theorem State.billed_outside (s t : State) (n : Nat) : (s.billed n t).outside = t.outside := by
  simp [State.billed]
@[simp] theorem State.advance_outside (s : State) (c k n : Nat) : (s.advance c k n).outside = s.outside := by
  unfold State.advance
  split
  · rfl
  · split
    · rfl
    · unfold State.flowInto
      dsimp only
      split
      · split <;> rfl
      · rfl
@[simp] theorem State.finish_outside (s : State) (c k len stall : Nat) (lat : Option Nat) :
    (s.finish c k len stall lat).outside = s.outside := by simp [State.finish]

end Sys2Proof.Machine
end

