-- ==== Sys2Proof/Laws/Memory.lean ====
section
/-! SUPPORT. Memory at its home: what a write leaves where, what it leaves alone, and that every memory operation keeps the
canonical form of State.Inv. -/

namespace Sys2Proof.Machine

/-! ### Writing keys -/

section Keys
variable {α : Type} [DecidableEq α]

/-- A key that a list without repeats names reads as that list says. -/
theorem mget_mputs_mem (d : α) {k : Nat} {x : α} : ∀ (xs : List (Nat × α)) (m : SMap α), msorted m = true →
    (xs.map (·.1)).Nodup → (k, x) ∈ xs → mget d (mputs d m xs) k = x
  | [], _, _, _, h => absurd h List.not_mem_nil
  | (j, y) :: rest, m, hm, hn, h => by
    have hn' := List.nodup_cons.1 hn
    rcases List.mem_cons.1 h with e | e
    · cases e
      have : mget d (mputs d (mput d m k x) rest) k = mget d (mput d m k x) k :=
        mget_mputs_ne d rest _ (msorted_mput d k x m hm)
          (fun z hz e => hn'.1 (List.mem_map.2 ⟨z, hz, e⟩))
      exact this.trans (mget_mput_same d k x m hm)
    · exact mget_mputs_mem d rest _ (msorted_mput d j y m hm) hn'.2 e

/-- What stands at a key after a run of keys from a on has been written. -/
theorem mget_mputs_run (d : α) (m : SMap α) (hm : msorted m = true) (a x : Nat) (bs : List α) :
    mget d (mputs d m (((List.range bs.length).map (fun i => a + i)).zip bs)) x =
      if a ≤ x ∧ x < a + bs.length then bs.getD (x - a) d else mget d m x := by
  have hk : (((List.range bs.length).map (fun i => a + i)).zip bs).map (·.1) = (List.range bs.length).map (fun i => a + i) := by
    rw [List.map_fst_zip]; simp
  split
  · rename_i h
    have hi : x - a < bs.length := by omega
    refine mget_mputs_mem d _ m hm ?_ ?_
    · rw [hk]
      refine List.Pairwise.map _ (fun i j hij => ?_) List.nodup_range
      omega
    · rw [List.mem_iff_getElem]
      refine ⟨x - a, by simp [hi], ?_⟩
      simp only [List.getElem_zip, List.getElem_map, List.getElem_range, List.getD_eq_getElem?_getD, List.getElem?_eq_getElem hi,
        Option.getD_some, Prod.mk.injEq, and_true]
      omega
  · rename_i h
    refine mget_mputs_ne d _ m hm (fun z hz e => h ?_)
    have : z.1 ∈ (List.range bs.length).map (fun i => a + i) := hk ▸ List.mem_map.2 ⟨z, hz, rfl⟩
    obtain ⟨i, hi, hz⟩ := List.mem_map.1 this
    have := List.mem_range.1 hi
    omega

end Keys

/-- A list of bytes read from a place. -/
theorem State.bytes_eq (s : State) (a n : Nat) : s.bytes a n = (List.range n).map (fun j => s.byte (a + j)) := mrange_eq _ _ _ _

@[simp] theorem State.bytes_length (s : State) (a n : Nat) : (s.bytes a n).length = n := by simp [State.bytes_eq]

/-- Ranges that read alike byte by byte are alike. -/
theorem State.bytes_congr {s t : State} {a n : Nat} (h : ∀ x, a ≤ x → x < a + n → t.byte x = s.byte x) : t.bytes a n = s.bytes a n := by
  rw [State.bytes_eq, State.bytes_eq]
  exact List.map_congr_left (fun j hj => h _ (Nat.le_add_right _ _) (by have := List.mem_range.1 hj; omega))

/-- A range whose bytes are those of a list is that list. -/
theorem State.bytes_of {s : State} {a : Nat} {bs : List (BitVec 8)}
    (h : ∀ x, a ≤ x → x < a + bs.length → s.byte x = bs.getD (x - a) 0#8) : s.bytes a bs.length = bs := by
  rw [State.bytes_eq]
  refine List.ext_getElem (by simp) (fun j h1 h2 => ?_)
  have := h (a + j) (Nat.le_add_right _ _) (by omega)
  simp [this, List.getD_eq_getElem?_getD, List.getElem?_eq_getElem h2]

/-! ### What leaves memory alone -/

/-- The state but for its directory and the host's side, which asking for a line or a grant changes. -/
def State.still (s : State) : State := { s with dir := [], host := {} }

/-- Serving an access changes nothing else. -/
theorem State.served_still (s : State) (w : Bool) (a n : Nat) : (s.served w a n).still = s.still := by
  unfold State.served; simp only []; split <;> rfl
@[simp] theorem State.served_mem (s : State) (w : Bool) (a n : Nat) : (s.served w a n).mem = s.mem :=
  by have h := congrArg State.mem (s.served_still w a n); exact h
@[simp] theorem State.served_stamps (s : State) (w : Bool) (a n : Nat) : (s.served w a n).stamps = s.stamps :=
  by have h := congrArg State.stamps (s.served_still w a n); exact h
@[simp] theorem State.served_lodge (s : State) (w : Bool) (a n : Nat) : (s.served w a n).lodge = s.lodge :=
  by have h := congrArg State.lodge (s.served_still w a n); exact h
@[simp] theorem State.served_cores (s : State) (w : Bool) (a n : Nat) : (s.served w a n).cores = s.cores :=
  by have h := congrArg State.cores (s.served_still w a n); exact h
@[simp] theorem State.served_net (s : State) (w : Bool) (a n : Nat) : (s.served w a n).net = s.net :=
  by have h := congrArg State.net (s.served_still w a n); exact h
@[simp] theorem State.served_ops (s : State) (w : Bool) (a n : Nat) : (s.served w a n).ops = s.ops :=
  by have h := congrArg State.ops (s.served_still w a n); exact h

/-- Nor does asking the host. -/
theorem State.gate_still (s : State) (w : Bool) (a n : Nat) : (s.gate w a n).1.still = s.still := by
  unfold State.gate; split; · rfl
  split
  · simp only []; split <;> rfl
  · split; · rfl
    simp only []; split <;> rfl
  · rfl

/-- Nor does bringing lines in. -/
theorem State.present_still (s : State) (w : Bool) (x : Spot) (part : Nat) : (s.present w x part).still = s.still :=
  foldl_keeps State.still _ (fun t u => by dsimp only; split <;> rfl) _ s

/-- Nor does asking for an access. -/
theorem State.access_still (s : State) (w : Bool) (x : Spot) (part : Nat) : (s.access w x part).1.still = s.still := by
  unfold State.access; simp only []; split
  · rw [State.gate_still, State.present_still]
  · exact s.present_still w x part
@[simp] theorem State.access_mem (s : State) (w : Bool) (x : Spot) (part : Nat) : ((s.access w x part).1).mem = s.mem :=
  by have h := congrArg State.mem (s.access_still w x part); exact h
@[simp] theorem State.access_stamps (s : State) (w : Bool) (x : Spot) (part : Nat) : ((s.access w x part).1).stamps = s.stamps :=
  by have h := congrArg State.stamps (s.access_still w x part); exact h
@[simp] theorem State.access_lodge (s : State) (w : Bool) (x : Spot) (part : Nat) : ((s.access w x part).1).lodge = s.lodge :=
  by have h := congrArg State.lodge (s.access_still w x part); exact h
@[simp] theorem State.access_cores (s : State) (w : Bool) (x : Spot) (part : Nat) : ((s.access w x part).1).cores = s.cores :=
  by have h := congrArg State.cores (s.access_still w x part); exact h
@[simp] theorem State.access_net (s : State) (w : Bool) (x : Spot) (part : Nat) : ((s.access w x part).1).net = s.net :=
  by have h := congrArg State.net (s.access_still w x part); exact h
@[simp] theorem State.access_ops (s : State) (w : Bool) (x : Spot) (part : Nat) : ((s.access w x part).1).ops = s.ops :=
  by have h := congrArg State.ops (s.access_still w x part); exact h

theorem State.accessAll_still (s : State) (w : Bool) (ps : List Spot) (part : Nat) : (s.accessAll w ps part).1.still = s.still := by
  have h := foldl_keeps (fun r : State × Bool => r.1.still) (fun (r : State × Bool) p => let g := r.1.access w p part; (g.1, r.2 && g.2))
    (fun r x => r.1.access_still w x part) ps (s, true)
  exact h
@[simp] theorem State.accessAll_mem (s : State) (w : Bool) (ps : List Spot) (part : Nat) : ((s.accessAll w ps part).1).mem = s.mem :=
  by have h := congrArg State.mem (s.accessAll_still w ps part); exact h
@[simp] theorem State.accessAll_stamps (s : State) (w : Bool) (ps : List Spot) (part : Nat) : ((s.accessAll w ps part).1).stamps = s.stamps :=
  by have h := congrArg State.stamps (s.accessAll_still w ps part); exact h
@[simp] theorem State.accessAll_lodge (s : State) (w : Bool) (ps : List Spot) (part : Nat) : ((s.accessAll w ps part).1).lodge = s.lodge :=
  by have h := congrArg State.lodge (s.accessAll_still w ps part); exact h
@[simp] theorem State.accessAll_cores (s : State) (w : Bool) (ps : List Spot) (part : Nat) : ((s.accessAll w ps part).1).cores = s.cores :=
  by have h := congrArg State.cores (s.accessAll_still w ps part); exact h
@[simp] theorem State.accessAll_net (s : State) (w : Bool) (ps : List Spot) (part : Nat) : ((s.accessAll w ps part).1).net = s.net :=
  by have h := congrArg State.net (s.accessAll_still w ps part); exact h
@[simp] theorem State.accessAll_ops (s : State) (w : Bool) (ps : List Spot) (part : Nat) : ((s.accessAll w ps part).1).ops = s.ops :=
  by have h := congrArg State.ops (s.accessAll_still w ps part); exact h

/-! ### What a walk leaves alone (R359) -/

/-- The state but for its directory, the host's side, its activity counts, its translation caches and its cores. -/
def State.bare (s : State) : State := { s.still with cores := [], dieTlbs := [], power := { s.power with counts := [] } }

theorem State.bare_of_still {s t : State} (h : t.still = s.still) : t.bare = s.bare := by
  have hp : t.power = s.power := by have h := congrArg State.power h; exact h
  simp [State.bare, h, hp]

theorem State.count_bare (s : State) (die part ev n : Nat) : (s.count die part ev n).bare = s.bare := by
  unfold State.count; split <;> rfl

theorem State.charge_bare (s : State) (part : Nat) (r : Bool) (x : Spot) : (s.charge part r x).bare = s.bare := by
  unfold State.charge State.countDirect
  split
  · split
    · exact s.count_bare _ _ _ _
    · rfl
  · refine (foldl_keeps State.bare _ (fun t u => ?_) _ _).trans (foldl_keeps State.bare _ (fun t _ => t.count_bare _ _ _ _) _ s)
    split
    · exact t.count_bare _ _ _ _
    · rfl

theorem State.chargeAll_bare (s : State) (part : Nat) (r : Bool) (ps : List Spot) : (s.chargeAll part r ps).bare = s.bare :=
  foldl_keeps State.bare _ (fun t _ => t.charge_bare _ _ _) ps s

theorem State.charge_cores (s : State) (part : Nat) (r : Bool) (x : Spot) : (s.charge part r x).cores = s.cores := by
  unfold State.charge State.countDirect
  split
  · split <;> simp
  · refine (foldl_keeps State.cores _ (fun t u => ?_) _ _).trans (foldl_keeps State.cores _ (fun t u => by simp) _ s)
    split <;> simp

theorem State.readAll_bare (s : State) (part : Nat) (ps : List Spot) : (s.readAll part ps).1.bare = s.bare := by
  have ha := State.bare_of_still (s.accessAll_still false ps part)
  unfold State.readAll
  split
  · rfl
  · dsimp only
    split
    · exact ha
    · split
      · exact ha
      · exact (foldl_keeps State.bare (fun (t : State) (p : Spot) => t.served false p.a p.n)
          (fun t p => State.bare_of_still (t.served_still _ _ _)) ps _).trans ((State.chargeAll_bare _ _ _ _).trans ha)

theorem State.readAll_cores (s : State) (part : Nat) (ps : List Spot) : (s.readAll part ps).1.cores = s.cores := by
  unfold State.readAll
  split
  · rfl
  · dsimp only
    split
    · simp
    · split
      · simp
      · exact (foldl_keeps State.cores (fun (t : State) (p : Spot) => t.served false p.a p.n) (fun t p => by simp) ps _).trans
          ((foldl_keeps State.cores _ (fun t u => t.charge_cores _ _ _) ps _).trans (by simp))

theorem State.install_bare (s : State) (c root : Nat) (va : BitVec 64) : (s.install c root va).bare = s.bare := by
  unfold State.install; split
  · rfl
  · split <;> rfl

theorem State.install_core (s : State) (c root : Nat) (va : BitVec 64) (d : Nat) :
    ∃ ts, (s.install c root va).core d = { s.core d with tlb := ts } := by
  unfold State.install
  split
  · exact ⟨_, rfl⟩
  · split
    · exact ⟨_, rfl⟩
    · rename_i t _ _
      by_cases h : d = c
      · subst h; exact ⟨cacheTlb 2048 t (s.core d).tlb, State.modCore_core s d (fun x => { x with tlb := cacheTlb 2048 t x.tlb })⟩
      · exact ⟨(s.core d).tlb, State.modCore_core_ne s (fun x => { x with tlb := cacheTlb 2048 t x.tlb }) h⟩

theorem State.installs_core (c root : Nat) (d : Nat) : ∀ (vas : List (BitVec 64)) (s : State),
    ∃ ts, (s.installs c root vas).core d = { s.core d with tlb := ts }
  | [], s => ⟨_, rfl⟩
  | va :: rest, s => by
    obtain ⟨x, hx⟩ := s.install_core c root va d
    obtain ⟨y, hy⟩ := State.installs_core c root d rest (s.install c root va)
    exact ⟨y, by rw [show s.installs c root (va :: rest) = (s.install c root va).installs c root rest from rfl, hy, hx]⟩

/-- A walk changes the directory, the host's side, counts and translation caches, and nothing else. -/
theorem State.walked_bare (s : State) (c root : Nat) (vas : List (BitVec 64)) : (s.walked c root vas).1.bare = s.bare := by
  unfold State.walked
  dsimp only
  split
  · exact (foldl_keeps State.bare _ (fun t va => t.install_bare c root va) _ _).trans (s.readAll_bare _ _)
  · exact s.readAll_bare _ _

/-- Of a core, a walk changes the translation cache alone. -/
theorem State.walked_core (s : State) (c root : Nat) (vas : List (BitVec 64)) (d : Nat) :
    ∃ ts, (s.walked c root vas).1.core d = { s.core d with tlb := ts } := by
  unfold State.walked
  dsimp only
  split
  · obtain ⟨ts, h⟩ := State.installs_core c root d (onePerPage vas)
      (s.readAll root ((onePerPage vas).flatMap (fun va => s.tables c root va))).1
    exact ⟨ts, by rw [h]; simp only [State.core, s.readAll_cores]⟩
  · exact ⟨(s.core d).tlb, by simp only [State.core, s.readAll_cores]⟩

/-- What a waiting party keeps changes nothing else. -/
theorem State.asked_still (s t : State) : (s.asked t).still = s.still := rfl

@[simp] theorem State.spread_mem (s : State) (o : MemOp) (cs : List (Nat × BitVec 8)) : (s.spread o cs).mem = s.mem := rfl
@[simp] theorem State.spread_stamps (s : State) (o : MemOp) (cs : List (Nat × BitVec 8)) : (s.spread o cs).stamps = s.stamps := rfl
@[simp] theorem State.spread_lodge (s : State) (o : MemOp) (cs : List (Nat × BitVec 8)) : (s.spread o cs).lodge = s.lodge := rfl
@[simp] theorem State.spread_cores (s : State) (o : MemOp) (cs : List (Nat × BitVec 8)) : (s.spread o cs).cores = s.cores := rfl

@[simp] theorem State.acks_mem (s : State) (id : Nat) : (s.acks id).mem = s.mem := by
  unfold State.acks
  split; · rfl
  split; · rfl
  split; · split <;> rfl
  simp only []
  split <;> split <;> (try split) <;> rfl
@[simp] theorem State.acks_stamps (s : State) (id : Nat) : (s.acks id).stamps = s.stamps := by
  unfold State.acks
  split; · rfl
  split; · rfl
  split; · split <;> rfl
  simp only []
  split <;> split <;> (try split) <;> rfl
@[simp] theorem State.acks_cores (s : State) (id : Nat) : (s.acks id).cores = s.cores := by
  unfold State.acks
  split; · rfl
  split; · rfl
  split; · split <;> rfl
  simp only []
  split <;> split <;> (try split) <;> rfl

/-! ### A write at its home (R276, R389, R390) -/

theorem State.pokes_byte (s : State) (h : msorted s.mem = true) (a w : Nat) (bs : List (BitVec 8)) (x : Nat) :
    (s.pokes a w bs).byte x = if a ≤ x ∧ x < a + bs.length then bs.getD (x - a) 0#8 else s.byte x :=
  mget_mputs_run 0#8 s.mem h a x bs

theorem State.Inv.sorted {s : State} (h : s.Inv) : msorted s.mem = true := by
  have := h.1
  simp only [Memory.wf, mcanon, Bool.and_eq_true] at this
  exact this.1

/-- The canonical form depends on memory and its stamps alone. -/
theorem State.Inv.of_same {s t : State} (h : s.Inv) (hm : t.mem = s.mem) (hs : t.stamps = s.stamps) : t.Inv := by
  unfold State.Inv; rw [hm, hs]; exact h

theorem State.Inv.pokes {s : State} (h : s.Inv) (a w : Nat) (bs : List (BitVec 8)) : (s.pokes a w bs).Inv :=
  ⟨mcanon_mputs _ _ _ h.1, mcanon_mputs _ _ _ h.2⟩

theorem State.Inv.applyCells {s : State} (h : s.Inv) (w : Nat) (cs : List (Nat × BitVec 8)) : (s.applyCells w cs).1.Inv := by
  unfold State.applyCells
  simp only []
  split
  · exact ⟨mcanon_mputs _ _ _ h.1, mcanon_mputs _ _ _ h.2⟩
  · exact h

theorem State.Inv.apply {s : State} (h : s.Inv) (a w : Nat) (bs : List (BitVec 8)) : (s.apply a w bs).1.Inv := by
  unfold State.apply
  simp only []
  split
  · exact (h.pokes a w bs).of_same rfl rfl
  · exact h

theorem State.apply_mem_of {s : State} {a w : Nat} {bs : List (BitVec 8)} (h : (s.apply a w bs).2 = true) :
    (s.apply a w bs).1.mem = (s.pokes a w bs).mem ∧ (s.apply a w bs).1.stamps = (s.pokes a w bs).stamps := by
  unfold State.apply at h ⊢
  simp only [] at h ⊢
  split at h
  · rename_i hc; rw [if_pos hc]; exact ⟨rfl, rfl⟩
  · cases h

theorem State.homeWrite_mem_of {s : State} {port seq a part : Nat} {bs : List (BitVec 8)} (hb : bs ≠ [])
    (h : (s.apply a s.nextId bs).2 = true) :
    (s.homeWrite port seq a bs part).1.mem = (s.pokes a s.nextId bs).mem ∧
      (s.homeWrite port seq a bs part).1.stamps = (s.pokes a s.nextId bs).stamps ∧ (s.homeWrite port seq a bs part).2 = true := by
  have := State.apply_mem_of h
  unfold State.homeWrite
  simp [hb, h, State.bump, this]

theorem State.homeWrite_fails {s : State} {port seq a part : Nat} {bs : List (BitVec 8)} (hb : bs ≠ [])
    (h : (s.apply a s.nextId bs).2 = false) : s.homeWrite port seq a bs part = (s, false) := by
  unfold State.homeWrite
  simp [hb, h]

/-- What a write at a home leaves at every byte. -/
theorem State.homeWrite_byte {s : State} (hs : msorted s.mem = true) (port seq a : Nat) (bs : List (BitVec 8)) {part : Nat} (x : Nat)
    (h : (s.homeWrite port seq a bs part).2 = true) :
    (s.homeWrite port seq a bs part).1.byte x = if a ≤ x ∧ x < a + bs.length then bs.getD (x - a) 0#8 else s.byte x := by
  by_cases hb : bs = []
  · subst hb
    have : ¬ (a ≤ x ∧ x < a + 0) := by omega
    simp only [State.homeWrite, List.length_nil, if_neg this, if_true]
  · cases ha : (s.apply a s.nextId bs).2 with
    | false => rw [State.homeWrite_fails hb ha] at h; cases h
    | true =>
      have := (State.homeWrite_mem_of (port := port) (seq := seq) (part := part) hb ha).1
      rw [State.byte, this]
      exact s.pokes_byte hs a s.nextId bs x

theorem State.homeWrite_false {s : State} {port seq a part : Nat} {bs : List (BitVec 8)} (h : (s.homeWrite port seq a bs part).2 = false) :
    (s.homeWrite port seq a bs part).1 = s := by
  by_cases hb : bs = []
  · subst hb; simp [State.homeWrite] at h
  · cases ha : (s.apply a s.nextId bs).2 with
    | false => rw [State.homeWrite_fails hb ha]
    | true => rw [(State.homeWrite_mem_of (port := port) (seq := seq) (part := part) hb ha).2.2] at h; cases h

theorem State.Inv.homeWrite {s : State} (h : s.Inv) (port seq a : Nat) (bs : List (BitVec 8)) {part : Nat} :
    (s.homeWrite port seq a bs part).1.Inv := by
  by_cases hb : bs = []
  · subst hb; exact h
  · cases ha : (s.apply a s.nextId bs).2 with
    | false => rw [State.homeWrite_fails hb ha]; exact h
    | true =>
      have := State.homeWrite_mem_of (port := port) (seq := seq) (part := part) hb ha
      exact (h.pokes a s.nextId bs).of_same this.1 this.2.1

/-- Bytes outside a home write read as before, whether or not it was let through. -/
theorem State.homeWrite_byte_ne {s : State} (hs : msorted s.mem = true) (port seq a : Nat) (bs : List (BitVec 8)) {part : Nat} {x : Nat}
    (hx : x < a ∨ a + bs.length ≤ x) : (s.homeWrite port seq a bs part).1.byte x = s.byte x := by
  cases h : (s.homeWrite port seq a bs part).2 with
  | false => rw [State.homeWrite_false h]
  | true => rw [State.homeWrite_byte hs _ _ _ _ _ h, if_neg (by omega)]

/-! ### The event log (R392) -/

theorem leBytes_length : ∀ (n x : Nat), (leBytes n x).length = n
  | 0, _ => rfl
  | n + 1, x => by simp [leBytes, leBytes_length n]

/-- A write that waits at its slices leaves memory alone. -/
theorem State.queueOp_same (s : State) (kind : OpKind) (port seq a : Nat) (bs : List (BitVec 8)) (spl : Option Nat) :
    (s.queueOp kind port seq a bs spl).mem = s.mem ∧ (s.queueOp kind port seq a bs spl).stamps = s.stamps := by
  unfold State.queueOp
  simp only []
  exact ⟨foldl_keeps State.mem _ (by intro t u; rfl) _ _, foldl_keeps State.stamps _ (by intro t u; rfl) _ _⟩

theorem State.Inv.sendWrite {s : State} (h : s.Inv) (port seq a : Nat) (bs : List (BitVec 8)) (spl : Option Nat) :
    (s.sendWrite port seq a bs spl).Inv := by
  have hg : (if bs = [] then (s, true) else s.access true { a := a, n := bs.length, spl := spl }).1.Inv := by
    split
    · exact h
    · exact h.of_same (by simp) (by simp)
  unfold State.sendWrite
  generalize (if bs = [] then (s, true) else s.access true { a := a, n := bs.length, spl := spl }) = g at hg ⊢
  simp only []
  split
  · exact hg.homeWrite _ _ _ _
  · exact hg.of_same (State.queueOp_same _ _ _ _ _ _ _).1 (State.queueOp_same _ _ _ _ _ _ _).2

/-- Such a write touches no byte outside its range, whether it is made or waits. -/
theorem State.sendWrite_byte_ne {s : State} (hs : msorted s.mem = true) (port seq a : Nat) (bs : List (BitVec 8)) (spl : Option Nat)
    {x : Nat} (hx : x < a ∨ a + bs.length ≤ x) : (s.sendWrite port seq a bs spl).byte x = s.byte x := by
  have hg : (if bs = [] then (s, true) else s.access true { a := a, n := bs.length, spl := spl }).1.mem = s.mem := by
    split <;> simp
  unfold State.sendWrite
  generalize (if bs = [] then (s, true) else s.access true { a := a, n := bs.length, spl := spl }) = g at hg ⊢
  simp only []
  split
  · refine (State.homeWrite_byte_ne (by rw [hg]; exact hs) _ _ _ _ hx).trans ?_
    rw [State.byte, hg]; rfl
  · rw [State.byte, (State.queueOp_same _ _ _ _ _ _ _).1, hg]; rfl

theorem State.Inv.logEvent {s : State} (h : s.Inv) (kind part unit cls core dpa : Nat) :
    (s.logEvent kind part unit cls core dpa).Inv := by
  unfold State.logEvent
  exact State.Inv.sendWrite (s := s.modLodge _) (h.of_same rfl rfl) _ _ _ _ _

/-- An entry of the event log touches no byte outside the log. -/
theorem State.logEvent_byte {s : State} (h : msorted s.mem = true) (kind part unit cls core dpa : Nat) {x : Nat}
    (hx : x < 0x7FFFFC1000 ∨ 0x7FFFFC3000 ≤ x) : (s.logEvent kind part unit cls core dpa).byte x = s.byte x := by
  unfold State.logEvent
  refine (State.sendWrite_byte_ne (s := s.modLodge _) (by simpa using h) _ _ _ _ _ ?_).trans rfl
  have : s.lodge.logSeq % 256 < 256 := Nat.mod_lt _ (by decide)
  simp only [List.length_append, leBytes_length]
  omega

theorem State.Inv.raiseContain {s : State} (h : s.Inv) (p : Nat) : (s.raiseContain p).Inv := h.of_same (by simp) (by simp)

theorem State.Inv.mismatch {s : State} (h : s.Inv) (part core dpa : Nat) : (s.mismatch part core dpa).Inv :=
  (h.logEvent _ _ _ _ _ _).raiseContain _

theorem State.mismatch_byte {s : State} (h : msorted s.mem = true) (part core q : Nat) {x : Nat}
    (hx : x < 0x7FFFFC1000 ∨ 0x7FFFFC3000 ≤ x) : (s.mismatch part core q).byte x = s.byte x := by
  unfold State.mismatch State.mismatchAt
  rw [State.byte, State.raiseContain_mem]
  exact State.logEvent_byte h _ _ _ _ _ _ hx

/-! ### Bytes and numbers -/

/-- The bytes of a list's number are the list. -/

theorem leBytes_leNat : ∀ bs : List (BitVec 8), leBytes bs.length (leNat bs) = bs
  | [] => rfl
  | b :: rest => by
    simp only [List.length_cons, leBytes, leNat]
    congr 1
    · apply BitVec.eq_of_toNat_eq; simp; have := b.isLt; omega
    · rw [show (b.toNat + 256 * leNat rest) / 256 = leNat rest by have := b.isLt; omega]; exact leBytes_leNat rest

theorem leNat_lt : ∀ bs : List (BitVec 8), leNat bs < 2 ^ (8 * bs.length)
  | [] => by simp [leNat]
  | b :: rest => by
    have := leNat_lt rest; have := b.isLt
    simp only [leNat, List.length_cons, Nat.mul_add, Nat.pow_add]
    omega

theorem leBytes_mod : ∀ (n x : Nat), leBytes n (x % 2 ^ (8 * n)) = leBytes n x
  | 0, _ => rfl
  | n + 1, x => by
    have e : 2 ^ (8 * (n + 1)) = 256 * 2 ^ (8 * n) := by rw [Nat.mul_add, Nat.pow_add]; omega
    simp only [leBytes]
    rw [e]
    congr 1
    · apply BitVec.eq_of_toNat_eq; simp
    · rw [Nat.mod_mul_right_div_self]; exact leBytes_mod n _

/-! ### Operations at their home (R168 to R172, R287) -/

@[simp] theorem State.modLoad_mem (s : State) (c id : Nat) (f : LoadOp → LoadOp) : (s.modLoad c id f).mem = s.mem := rfl
@[simp] theorem State.modLoad_stamps (s : State) (c id : Nat) (f : LoadOp → LoadOp) : (s.modLoad c id f).stamps = s.stamps := rfl

@[simp] theorem State.answer_mem (s : State) (o : MemOp) (old : State) (w : Bool) : (s.answer o old w).mem = s.mem := by
  unfold State.answer; split <;> rfl
@[simp] theorem State.answer_stamps (s : State) (o : MemOp) (old : State) (w : Bool) : (s.answer o old w).stamps = s.stamps := by
  unfold State.answer; split <;> rfl
@[simp] theorem State.followOwn_mem (s : State) (o : MemOp) (old : State) (cs : List (Nat × BitVec 8)) :
    (s.followOwn o old cs).mem = s.mem := by
  unfold State.followOwn; simp only []; split <;> simp
@[simp] theorem State.followOwn_stamps (s : State) (o : MemOp) (old : State) (cs : List (Nat × BitVec 8)) :
    (s.followOwn o old cs).stamps = s.stamps := by
  unfold State.followOwn; simp only []; split <;> simp

@[simp] theorem State.postHost_mem (s : State) (o : MemOp) : (s.postHost o).mem = s.mem := by unfold State.postHost; split <;> rfl
@[simp] theorem State.postHost_stamps (s : State) (o : MemOp) : (s.postHost o).stamps = s.stamps := by
  unfold State.postHost; split <;> rfl
@[simp] theorem State.undo_mem (s : State) (o : MemOp) : (s.undo o).mem = s.mem := rfl
@[simp] theorem State.undo_stamps (s : State) (o : MemOp) : (s.undo o).stamps = s.stamps := rfl

/-- Losing operations leaves memory alone. -/
theorem State.lose_same (s : State) (os : List MemOp) : (s.lose os).mem = s.mem ∧ (s.lose os).stamps = s.stamps := by
  have h := foldl_keeps (fun t : State => (t.mem, t.stamps)) (fun (s : State) (o : MemOp) => match o.load with
    | some id => s.modLoad o.core id (fun x => { x with failed := true })
    | none => s) (fun t o => by split <;> rfl) os
  exact ⟨congrArg Prod.fst (h _), congrArg Prod.snd (h _)⟩

/-- Memory once an operation is applied: its bytes stand there, unless it has been lost. -/
theorem State.applied_mem (s : State) (o : MemOp) :
    (s.applied o).mem = (if o.lost then s else (s.applyCells o.id (o.writes s)).1).mem ∧
      (s.applied o).stamps = (if o.lost then s else (s.applyCells o.id (o.writes s)).1).stamps := by
  cases hl : o.lost <;> by_cases hc : o.core < 160 <;> unfold State.applied <;> simp only [hl, hc, if_true, Bool.false_eq_true, if_false] <;>
    split <;> simp

/-- Memory after an operation: that of its bytes applied, that of a mismatch, or the old one where it has been lost. -/
theorem State.applyOp_mem (s : State) (o : MemOp) :
    ((s.applyOp o).mem = (s.applyCells o.id (o.writes s)).1.mem ∧ (s.applyOp o).stamps = (s.applyCells o.id (o.writes s)).1.stamps) ∨
    ((s.applyOp o).mem = s.mem ∧ (s.applyOp o).stamps = s.stamps) ∨
    ∃ (t : State) (c q : Nat), t.mem = s.mem ∧ t.stamps = s.stamps ∧ (s.applyOp o).mem = (t.mismatch o.part c q).mem ∧
      (s.applyOp o).stamps = (t.mismatch o.part c q).stamps := by
  unfold State.applyOp
  generalize (if o.core < 160 then o.core else 0xFFFFFFFF) = c
  simp only []
  split
  · rename_i q _
    refine .inr (.inr ⟨s.lose (s.siblings o), c, q, (s.lose_same _).1, (s.lose_same _).2, ?_⟩)
    exact State.applied_mem ((s.lose (s.siblings o)).mismatch o.part c q) { o with lost := true }
  · have h := s.applied_mem o
    cases hl : o.lost with
    | true => simp only [hl, if_true] at h; exact .inr (.inl h)
    | false => simp only [hl, Bool.false_eq_true, if_false] at h; exact .inl h

theorem State.Inv.applyOp {s : State} (h : s.Inv) (o : MemOp) : (s.applyOp o).Inv := by
  rcases s.applyOp_mem o with ⟨hm, hs⟩ | ⟨hm, hs⟩ | ⟨t, c, q, tm, ts, hm, hs⟩
  · exact (h.applyCells o.id (o.writes s)).of_same hm hs
  · exact h.of_same hm hs
  · exact ((h.of_same tm ts).mismatch _ _ _).of_same hm hs

/-! ### Where an operation writes -/

theorem Span.cells_within (x : Span) {c : Nat × BitVec 8} (h : c ∈ x.cells) : x.addr ≤ c.1 ∧ c.1 < x.addr + x.data.length := by
  simp only [Span.cells, List.mem_map, List.mem_filter, List.mem_range] at h
  obtain ⟨i, ⟨hi, _⟩, rfl⟩ := h
  exact ⟨Nat.le_add_right _ _, Nat.add_lt_add_left hi _⟩

theorem rowBytes_length (max : Bool) : ∀ (xs ys : List (BitVec 8)), (rowBytes max xs ys).length ≤ ys.length
  | [], _ => by simp [rowBytes]
  | [_], _ => by simp [rowBytes]
  | _ :: _ :: _, [] => by simp [rowBytes]
  | _ :: _ :: _, [_] => by simp [rowBytes]
  | a :: b :: rest, x :: y :: more => by
    have := rowBytes_length max rest more
    simp only [rowBytes, List.length_append, leBytes_length, List.length_cons]
    omega

/-- Every byte that an operation writes lies in one of its spans. -/
theorem MemOp.writes_within (o : MemOp) (s : State) {c : Nat × BitVec 8} (h : c ∈ o.writes s) :
    ∃ x ∈ o.spans, x.addr ≤ c.1 ∧ c.1 < x.addr + x.data.length := by
  have plain : c ∈ o.spans.flatMap Span.cells → ∃ x ∈ o.spans, x.addr ≤ c.1 ∧ c.1 < x.addr + x.data.length := fun hc => by
    obtain ⟨x, hx, hc⟩ := List.mem_flatMap.1 hc
    exact ⟨x, hx, x.cells_within hc⟩
  unfold MemOp.writes at h
  split at h
  · obtain ⟨x, hx, hc⟩ := List.mem_flatMap.1 h
    refine ⟨x, hx, ?_⟩
    have := Span.cells_within _ hc
    simpa [leBytes_length] using this
  · obtain ⟨x, hx, hc⟩ := List.mem_flatMap.1 h
    refine ⟨x, hx, ?_⟩
    have h1 := Span.cells_within _ hc
    have h2 := rowBytes_length (max := ‹Bool›) (s.bytes x.addr x.data.length) x.data
    simp only [] at h1
    omega
  · exact plain (List.mem_ite_nil_right.1 h).2
  all_goals first | (cases h; done) | exact plain h

theorem State.applyCells_byte {s : State} (hs : msorted s.mem = true) (w : Nat) (cs : List (Nat × BitVec 8)) {a : Nat}
    (h : ∀ x ∈ cs, x.1 ≠ a) : (s.applyCells w cs).1.byte a = s.byte a := by
  unfold State.applyCells
  simp only []
  split
  · exact mget_mputs_ne 0#8 cs s.mem hs h
  · rfl

/-- An operation changes no byte outside its spans, but for the event log. -/
theorem State.applyOp_byte {s : State} (hs : msorted s.mem = true) (o : MemOp) {a : Nat}
    (h : ∀ y ∈ o.spans, a < y.addr ∨ y.addr + y.data.length ≤ a) (hl : a < 0x7FFFFC1000 ∨ 0x7FFFFC3000 ≤ a) :
    (s.applyOp o).byte a = s.byte a := by
  rcases s.applyOp_mem o with ⟨hm, _⟩ | ⟨hm, _⟩ | ⟨t, c, q, tm, _, hm, _⟩
  · rw [State.byte, hm]
    refine State.applyCells_byte hs _ _ (fun c hc e => ?_)
    obtain ⟨y, hy, h1, h2⟩ := o.writes_within s hc
    have := h y hy
    omega
  · rw [State.byte, hm]; rfl
  · rw [State.byte, hm]
    refine (State.mismatch_byte (by rw [tm]; exact hs) _ _ _ hl).trans ?_
    rw [State.byte, tm]; rfl

/-- Every sector that cells lie in is that of one of them. -/
theorem cellSectors_of {cs : List (Nat × BitVec 8)} : ∀ q ∈ cellSectors cs, ∃ c ∈ cs, c.1 / 32 = q := by
  unfold cellSectors
  refine List.foldlRecOn (motive := fun qs => ∀ q ∈ qs, ∃ c ∈ cs, c.1 / 32 = q) cs _ (by simp) (fun qs known c hc q hq => ?_)
  split at hq
  · exact known q hq
  · exact (List.mem_cons.1 hq).elim (fun e => ⟨c, hc, e.symm⟩) (known q)

/-- The bytes of an unmasked span of sound sectors, once written. -/
theorem State.applyCells_span {s : State} (hs : msorted s.mem = true) (w : Nat) (y : Span) (hm : y.mask = [])
    (hr : s.rangeOk y.addr y.data.length = true) :
    (s.applyCells w y.cells).2 = true ∧ (s.applyCells w y.cells).1.bytes y.addr y.data.length = y.data := by
  have hc : y.cells = ((List.range y.data.length).map (fun i => y.addr + i)).zip y.data := by
    have hf : (List.range y.data.length).filter (fun _ => true) = List.range y.data.length := List.filter_eq_self.2 (fun _ _ => rfl)
    simp only [Span.cells, hm, decide_true, Bool.true_or, hf]
    refine List.ext_getElem (by simp) (fun i h1 h2 => ?_)
    simp only [List.length_map, List.length_range] at h1
    simp [List.getD_eq_getElem?_getD, List.getElem?_eq_getElem h1]
  have hk : (cellSectors y.cells).all (fun q => s.sectorOk q || cellsCover y.cells q) = true := by
    refine List.all_eq_true.2 (fun q hq => ?_)
    obtain ⟨c, hc, e⟩ := cellSectors_of q hq
    · have hb := y.cells_within hc
      have h0 : y.data.length ≠ 0 := by omega
      simp only [State.rangeOk, State.badSectors, h0, if_false, decide_eq_true_eq, List.filter_eq_nil_iff, Bool.not_eq_true',
        Bool.not_eq_false] at hr
      have : q ∈ sectorsOf y.addr y.data.length := by
        simp only [sectorsOf, List.mem_map, List.mem_range]
        refine ⟨q - y.addr / 32, ?_, ?_⟩ <;> omega
      simp [hr q this]
  have h2 : (s.applyCells w y.cells).2 = true := by
    unfold State.applyCells; simp only [hk]; rfl
  refine ⟨h2, State.bytes_of (fun x h1 h2 => ?_)⟩
  have : (s.applyCells w y.cells).1.mem = mputs 0#8 s.mem y.cells := by
    unfold State.applyCells; simp only [hk]; rfl
  rw [State.byte, this, hc, mget_mputs_run 0#8 s.mem hs, if_pos ⟨h1, h2⟩]

/-- What reset leaves stands in canonical form. -/
theorem State.reset_inv : State.reset.Inv := ⟨rfl, rfl⟩

/-- One address of each page is one of the addresses. -/
theorem mem_onePerPage {va : BitVec 64} : ∀ (vas xs : List (BitVec 64)),
    va ∈ vas.foldl (fun xs va => if ! canonical va || xs.any (fun x => x.toNat / 4096 = va.toNat / 4096) then xs else xs ++ [va]) xs →
      va ∈ xs ∨ va ∈ vas
  | [], _, h => .inl h
  | v :: rest, xs, h => by
    rcases mem_onePerPage rest _ h with h | h
    · dsimp only at h
      split at h
      · exact .inl h
      · rcases List.mem_append.mp h with h | h
        · exact .inl h
        · exact .inr (by simp_all)
    · exact .inr (List.mem_cons_of_mem _ h)

/-- A translation that a core's own cache holds is there to be used. -/
theorem State.install_known {s : State} {c root : Nat} {va : BitVec 64}
    (h : (s.core c).tlb.any (fun t => t.covers root (vaLow va)) = true) : s.install c root va = s := by
  unfold State.install State.translate
  cases hf : (s.core c).tlb.find? (fun t => t.covers root (vaLow va)) with
  | none =>
    obtain ⟨t, ht, hc⟩ := List.any_eq_true.mp h
    exact absurd hc (by simpa using List.find?_eq_none.mp hf t ht)
  | some t => simp [hf, List.mem_of_find?_eq_some hf]

/-- Where a core's own cache translates every address, its walks need nothing and change nothing (R359). -/
theorem State.walked_known {s : State} {c root : Nat} {vas : List (BitVec 64)}
    (h : ∀ va ∈ vas, (s.core c).tlb.any (fun t => t.covers root (vaLow va)) = true) : s.walked c root vas = (s, .ready) := by
  have hs : ∀ va ∈ onePerPage vas, (s.core c).tlb.any (fun t => t.covers root (vaLow va)) = true :=
    fun va hv => h va ((mem_onePerPage vas [] hv).resolve_left (by simp))
  have ht : (onePerPage vas).flatMap (fun va => s.tables c root va) = [] := by
    simp only [List.flatMap_eq_nil_iff]
    exact fun va hv => by simp [State.tables, hs va hv]
  have hi : ∀ xs : List (BitVec 64), (∀ va ∈ xs, (s.core c).tlb.any (fun t => t.covers root (vaLow va)) = true) →
      s.installs c root xs = s := by
    intro xs
    induction xs with
    | nil => exact fun _ => rfl
    | cons x xs ih =>
      intro hx
      simp only [State.installs, List.foldl_cons]
      rw [State.install_known (hx x List.mem_cons_self)]
      exact ih (fun va hv => hx va (List.mem_cons_of_mem _ hv))
  unfold State.walked
  rw [ht]
  simp [State.readAll, hi _ hs]

end Sys2Proof.Machine
end

