-- ==== Sys2Proof/Tests/Base.lean ====
section
/-! SUPPORT. The small states that the tests start from. -/

namespace Sys2Proof.Tests

open Sys2Proof.Machine

/-- A gang of crew 1 with two lanes running; v1 holds 5 and 0xFFFFFFFF, v2 holds 3 and 1, g4 and g5 the address 0x10000. -/
def gang : Gang :=
  { crew := 1, slot := 1, lanes := [(0, { st := .run }), (1, { st := .run })]
    vregs := [(32, 5#32), (33, 0xFFFFFFFF#32), (64, 3#32), (65, 1#32)]
    uregs := [(4, 0x10000#32)] }

/-- Its crew: a scratchpad of 4 KiB, two barriers, four tiles. -/
def crew : Crew :=
  { num := 1, grid := 1, codeBase := 0x10000#64, slots := [0], vcount := 64, ucount := 60, tcount := 16, sc := 4096, nbars := 2
    bars := [(0, { exp := 2 }), (1, { exp := 2 })], held := 0xF#24, events := [(0, { src := 1 })] }

/-- Page 0x10000 of partition 0, and of Arbor, stands at the same device address. -/
def page (root : Nat) : Tlb := { root := root, va := 0x10000, size := 0x1000, dpa := 0x10000, write := true, exec := true }

/-- Core 0 with a gang in slot 0, about to issue from it; blocks 3 and 5 of its code may be entered, and those around them have been
fetched. -/
def stateOf (g : Gang) : State :=
  { cores := [(0, { online := true, slots := [(0, g)], crews := [(1, crew)], tlb := [page 0, page 64]
                    l1i := [0x10080, 0x100C0, 0x10100, 0x10140] })]
    mem := [(0x100C3, 0x40#8), (0x10143, 0x40#8)], lodge := { stage := 3 }, cur := { core := 0, slot := 0, len := 1, stall := 0, word := 0#32 } }

def crewState : State := stateOf gang

/-- Core 0 with its privileged slot about to issue, g4 and g5 as above, and a gang of crew 1 in slot 0. -/
def privOf (g : Gang) : State :=
  { stateOf gang with
    cores := [(0, { online := true, slots := [(0, gang), (64, g)], crews := [(1, crew)], tlb := [page 0, page 64] })]
    cur := { core := 0, slot := 64, len := 1, stall := 0, word := 0#32 } }

def privGang : Gang := { startGang 0 with uregs := [(4, 0x10000#32)] }

def privState : State := privOf privGang

/-- The gang of a test as it issues. -/
def now : Gang := gang.begin

/-- The gang of the tests under an element type. -/
def typed (e : Nat) : Gang := { gang with mode := BitVec.ofNat 32 (256 * e) }

/-- The gang of the tests may issue an instruction of a signature. -/
def may (sg : Gang → Sig) : Bool := crewState.canIssue now (sg now)

/-- The same under an element type. -/
def mayAs (e : Nat) (sg : Gang → Sig) : Bool := (stateOf (typed e)).canIssue (typed e).begin (sg (typed e).begin)

/-- The gang of the tests under the guard p1, which no lane has set: it has no active lane. -/
def idle : Gang := { gang with mode := 0x00000C01#32 }

/-- The same without an active lane. -/
def mayIdle (sg : Gang → Sig) : Bool := idle.begin.active = [] && (stateOf idle).canIssue idle.begin (sg idle.begin)

/-- The same in the privileged slot. -/
def mayPriv (sg : Gang → Sig) : Bool := privState.canIssue privGang.begin (sg privGang.begin)

/-- A gang about to issue IADD v3, v1, v2 as the first instruction after reset. -/
def placed : State := State.reset.withFetchWord 32 0x14030102

/-- A state about to run an event with an argument. -/
def event (s : State) (a b : Nat) (c : Nat := 0) : State := { s with arg := { a := a, b := b, c := c } }

/-- The state in which a gang is issuing. -/
def stateAs (g : Gang) : State := stateOf { g with seq := g.seq - 1 }

/-- A tensor descriptor of its fields (R188). -/
def tensor (space sc fmt rows cols pitch base : Nat) : BitVec 128 :=
  BitVec.ofNat 128 (space * 2 ^ 125 + sc * 2 ^ 124 + fmt * 2 ^ 120 + rows * 2 ^ 108 + cols * 2 ^ 96 + pitch * 2 ^ 64 + base)

/-- A gang with command descriptors in g0 to g15 (all 1, but for the addresses in pairs 0 and 2) and tensor descriptors. -/
def cmdGang (ws : List Nat) (ts : List (BitVec 128)) : Gang :=
  { gang with
    uregs := ((List.range 16).zip ws).map (fun e => (e.1, BitVec.ofNat 32 e.2))
    tdescs := (List.range 16).zip ts }

/-- The slices hold the lines of some ranges. -/
def holding (s : State) (xs : List Spot) : State :=
  xs.foldl (fun s x => x.units.foldl (fun s u => s.setEntry (dirKey u x.usize) { usize := x.usize, slice := sliceOf x.spl u }) s) s

/-! ### Reading what a computation answers -/

/-- A walk for translations that its core holds is over. -/
theorem knownWalk {s : State} {c root : Nat} {vas : List (BitVec 64)}
    (h : vas.all (fun va => (s.core c).tlb.any (fun t => t.covers root (vaLow va))) = true) : s.walked c root vas = (s, .ready) :=
  State.walked_known (List.all_eq_true.mp h)

/-- A gang whose core holds every translation walks nowhere. -/
theorem walksHere {s : State} {vas : List (BitVec 64)}
    (h : vas.all (fun va => (s.core s.cur.core).tlb.any (fun t => t.covers (s.rootOf s.cur.core s.cur.slot) (vaLow va))) = true) :
    s.walksTo vas s :=
  State.walked_known (List.all_eq_true.mp h)

/-- An answer that is no error has a value, and one that is an error has its reason. -/
theorem okay {ε α : Type} {x : Except ε α} : x.isOk = true → ∃ v, x = .ok v :=
  Except.casesOn x (fun _ h => Bool.noConfusion h) (fun v _ => ⟨v, rfl⟩)

theorem fails {ε α : Type} : ∀ {x : Except ε α}, x.isOk = false → ∃ e, x = .error e
  | .error e, _ => ⟨e, rfl⟩

/-- A meaning has a next state. -/
def nexts (o : Host.Outcome State Fault Refusal) : Bool :=
  match o with
  | .next _ => true
  | _ => false

theorem goes : ∀ {o : Host.Outcome State Fault Refusal}, nexts o = true → ∃ t, o = .next t
  | .next t, _ => ⟨t, rfl⟩

/-- A gang that a state gives. -/
theorem given {α : Type} {x : Option α} (h : x.isSome = true) : ∃ v, x = some v := Option.isSome_iff_exists.mp h

end Sys2Proof.Tests
end

