-- ==== Sys2Proof/Tests/Events.lean ====
section
/-! SUPPORT. States and operands that meet the hypotheses of the statements about events, one theorem or more for
each statement, named after it. -/

namespace Sys2Proof.Tests

set_option Elab.async false

open Sys2Proof.Machine

/-! ### Events of a core -/

/-- A gang whose core holds neither its block nor a translation: the tables and the block are read, wait, fail their check, or come. -/
theorem witness_CoreEvents_reads :
    let tables : List Spot := [{ a := 0x40000, n := 8 }]
    let s := fun (xs : List Spot) => holding (crewState.modCore 0 (fun x => { x with tlb := [], roots := [(0, 0x40001#64)] })) xs
    let bad : State := { s tables with bad := [(0x40000 / 32, 1#32)] }
    let far := crewState.modCore 0 (fun x => { x with l1i := [] })
    let block : List Spot := [{ a := 0x10000, n := 64 }]
    (s []).fetched 0 0 = false ∧ (s []).headReads 0 0 0 = tables ∧ canonical 0x10000#64 = true ∧ (s []).tables 0 0 0x10000#64 = tables ∧
    ((s []).readAll 0 tables).2 = .wait ∧ (bad.readAll 0 (bad.headReads 0 0 0)).2 = .bad (0x40000 / 32) ∧ ((s tables).readAll 0 tables).2 = .ready ∧
    far.fetched 0 0 = false ∧ far.headReads 0 0 0 = block ∧ ((holding far block).readAll 0 block).2 = .ready ∧
    ((holding far block).block 0 0 0).isOk = true ∧ far.gang? 0 0 = some gang := by decide +kernel

theorem witness_CoreEvents_fetch :
    let p := placed
    let s := event (placed.modCore 0 (fun x => { x with l1i := [] })) 0 0
    (∃ g, s.gang? 0 0 = some g) ∧ s.fetched 0 0 = false ∧ p.fetched 0 0 = true ∧
    (∃ t, crewState.translate 0 0 0x10000#64 = .ok t) ∧ (∃ e, crewState.translate 0 0 0x20000#64 = .error e) ∧
    (let u : State := { crewState with dieTlbs := [(0, [page 0])] }.modCore 0 (fun x => { x with tlb := [] })
     u.translate 0 0 0x10000#64 = .ok (page 0) ∧ page 0 ∉ (u.core 0).tlb) :=
  ⟨given (by decide +kernel), by decide +kernel, by decide +kernel, okay (by decide +kernel), fails (by decide +kernel), rfl, by decide +kernel⟩

/-- A bin of crew 1 with a fill of one lane and one that is complete. -/
def binOfTests : Bin :=
  let l : BinLane := { lane := { st := .run }, preds := 0, live := [], uregs := [], tdescs := [] }
  { block := 3, role := 0, vcount := 64, lanes := [l, l], fixed := [1] }

def binState (rgto : Nat) : State :=
  { crewState.modCrew 0 1 (fun w => { w with bins := [(7, binOfTests)], rgto := rgto, slots := [0, 1] }) with clock := 100 }

/-- The states of a bin's crew around its saves, and with a gang that retires. -/
def retireState (pend : List AsyncTrap) : State :=
  (stateOf { gang with retiring := true }).modCore 0 (fun x => { x with asyncQ := pend })

theorem witness_CoreEvents_bins :
    (let g : Gang := { gang with retiring := true }
     (retireState []).gang? 0 0 = some g ∧ 0 ≠ privSlot ∧ g.retiring = true ∧ g.idle = true ∧ ((retireState []).core 0).trapDue 0 = false ∧
     ((retireState [{ gang := 0, cause := 0x12, info := 0 }]).core 0).trapDue 0 = true ∧ gang.retiring = false ∧
     ({ g with claims := [{ seq := 1, slot := true, locs := [.v 3 0] }] } : Gang).idle = false ∧
     (privOf { privGang with retiring := true }).gang? 0 privSlot = some { privGang with retiring := true }) ∧
    mfind ((binState 5).crew 0 1).bins 7 = some binOfTests ∧ (binState 5).fillDue 0 1 binOfTests = true ∧
    (binState 100).fillDue 0 1 binOfTests = true ∧ (binState 101).fillDue 0 1 binOfTests = false ∧ binOfTests.fixed = 1 :: [] ∧
    ((binState 5).crew 0 1).isSaving = false ∧
    minNat (((binState 5).crew 0 1).slots.filter (fun k => ((binState 5).gang? 0 k).isNone)) = some 1 := by decide +kernel

theorem witness_CoreEvents_waits :
    let h : Held := { cond := .event 0, len := 1, stall := 0, since := 0 }
    let g : Gang := { gang with held := some h, lanes := gang.lanes ++ [(2, { st := .wait, fblock := 3 })] }
    let s : State := { stateOf g with clock := 5000 }
    let e : Held := { cond := .counter 0 1, len := 1, stall := 0, since := 0 }
    let m : Gang := { g with held := some { h with met := true } }
    s.gang? 0 0 = some g ∧ g.held = some h ∧ g.stopped = false ∧ g.saving = false ∧ h.cond.fair = true ∧ h.met = false ∧
    4096 ≤ g.fcNow s.clock ∧ g.fcNow 4096 = 4096 ∧ g.fcNow 4095 < 4096 ∧ g.ec = 0 ∧ ({ g with ec := 1 } : Gang).ec ≠ 0 ∧ g.resume = none ∧
    g.lanesIn .wait ≠ [] ∧ s.condHolds 0 0 g h.cond = false ∧ s.condHolds 0 0 g e.cond = true ∧
    ({ stateOf m with clock := 5000 } : State).gang? 0 0 = some m ∧ (stateOf m).condHolds 0 0 m h.cond = true := by decide +kernel

/-- A SIGWAIT on a word whose line the slices hold, in a crew slot and in the privileged one, with a sector that fails its check. -/
theorem witness_CoreEvents_signals :
    let x : Spot := { a := 0x10000, n := 8 }
    let h : Held := { cond := .signal x 1#64 1 0, len := 1, stall := 0, since := 0 }
    let s := holding (stateOf { gang with held := some h }) [x]
    let p := holding (privOf { privGang with held := some h }) [x]
    let bad := fun (s : State) => ({ s with bad := [(0x800, 1#32)] } : State)
    s.waitBad 0 0 h.cond = none ∧ s.condHolds 0 0 { gang with held := some h } h.cond = false ∧
    (s.gang? 0 0).map (·.held) = some (some h) ∧ (bad s).waitBad 0 0 h.cond = some 0x800 ∧ 0 ≠ privSlot ∧
    (p.gang? 0 privSlot).map (·.held) = some (some h) ∧ (bad p).waitBad 0 privSlot h.cond = some 0x800 := by decide +kernel

theorem witness_CoreEvents_loads :
    let x : LoadOp := { id := 4, slot := 0, seq := 0, kind := .cached, parts := [{ locs := [.v 3 0], val := some 7#512 }] }
    let y : LoadOp := { id := 4, slot := 0, seq := 0, kind := .atomic, parts := [{ locs := [.v 3 0], val := some 7#512 }] }
    let z : LoadOp := { id := 4, slot := 0, seq := 0, kind := .atomic, parts := [{ locs := [.v 3 0] }] }
    let home : LoadOp := { x with kind := .home }
    let a : AccOp := { id := 5, slot := 0, crew := 1, tiles := [1], release := true }
    let s := fun (l : LoadOp) => event (crewState.modCore 0 (fun k => { k with loads := [l] })) 0 4
    let way : State := { s y with ops := [{ id := 9, core := 0, kind := .atomic 0 2 0, spans := [], load := some 4 }] }
    let t := event (crewState.modCore 0 (fun k => { k with accs := [a] })) 0 5
    ((s x).core 0).loads.find? (fun l => l.id = 4) = some x ∧ x.done = true ∧ x.kind ≠ .atomic ∧ x.kind ≠ .tile ∧ x.failed = false ∧
    home.kind = .home ∧ (s x).gang? 0 x.slot = some gang ∧
    ((s y).core 0).loads.find? (fun l => l.id = 4) = some y ∧ y.done = true ∧ y.kind = .atomic ∧ (s y).ops = [] ∧
    ¬ (∀ o ∈ way.ops, o.core = 0 → o.load = some y.id → o.gotV = true) ∧
    ((s z).core 0).loads.find? (fun l => l.id = 4) = some z ∧ z.done = false ∧
    (t.core 0).accs.find? (fun l => l.id = 5) = some a ∧ mfind (t.core 0).crews a.crew = some crew := by decide +kernel

/-- An element of 4 bytes at 0x10004 that lane 2 loads to v3. -/
def partOfTests : LoadPart := { lane := 2, locs := [.v 3 2], addr := 0x10004, z := 4, unit := 0x10000 }

/-- Core 0 with a load of that element, and an operation that serves it at the home. -/
def servedBy (o : MemOp) : State :=
  { crewState.modCore 0 (fun k => { k with loads := [{ id := 4, slot := 0, seq := 0, kind := .home, parts := [partOfTests] }] }) with ops := [o] }

def opOfTests (k : OpKind) (spans : List Span) : MemOp := { id := 6, core := 0, slot := 0, lane := 2, kind := k, spans := spans, load := some 4 }

theorem witness_CoreEvents_values :
    let p := partOfTests
    let l : L1Line := { unit := 0x10000, usize := 128, bytes := List.replicate 128 (1#8, 0) }
    let s := crewState.modCore 0 (fun k => { k with l1 := [l] })
    let m : Msg := { kind := .fillData, core := 0, slice := 0, unit := 0x10000, usize := 128, op := 4, bytes := l.bytes }
    s.ownHomeOp 0x10004 p.z = false ∧ (s.core s.cur.core).line? ((page 0).unit 0x10004).1 ((page 0).unit 0x10004).2 = some l ∧
    let x : LoadOp := { id := 4, slot := 0, seq := 0, kind := .cached, parts := [p] }
    let y : LoadOp := { x with id := 5 }
    p.awaits m.unit m.usize = true ∧ m.nocache = false ∧ ({ m with nocache := true } : Msg).op = x.id ∧ x.id ≠ y.id ∧
    (let n : Msg := { m with nocache := true, upto := 6 }; y.id < n.upto ∧ ∀ f ∈ (s.core 0).fills, f.2.2 ≠ y.id) ∧
    s.youngStores 0 m.unit m.usize m.op 4 = [] ∧ ({ m with kind := .fillReq } : Msg).nocache = false := by decide +kernel

theorem witness_CoreEvents_homes :
    let word : Span := { addr := 0x10004, data := List.replicate 4 0#8 }
    (∀ o ∈ [opOfTests (.atomic 0 2 0) [word], opOfTests (.read [2]) [word], opOfTests (.block false [2]) [{ addr := 0x10000 }, { addr := 0x10400 }],
        opOfTests .stc [word]],
      let s := servedBy o
      o.lost = false ∧ (s.siblings o).findSome? (fun y => y.fails s) = none ∧
      (s.core o.core).loads = [{ id := 4, slot := 0, seq := 0, kind := .home, parts := [partOfTests] }] ∧ o.load = some 4) ∧
    partOfTests.val = none ∧ partOfTests.lane = 2 ∧ partOfTests.locs.length ≤ 2 ∧ 2 < ({ partOfTests with locs := [.v 3 2, .v 4 2, .v 5 2] } : LoadPart).locs.length ∧
    (let o := opOfTests .stc [word]; o.writes (servedBy o) = []) ∧
    (let o := { opOfTests .stc [word] with expect := some (List.replicate 4 0) }; o.writes (servedBy o) ≠ []) := by decide +kernel

theorem witness_CoreEvents_written :
    let g : Gang := { gang with claims := [{ seq := 7, slot := true, locs := [.v 3 2] }, { seq := 8, slot := true, locs := [.g 5] },
      { seq := 9, slot := true, locs := [.p 2 3] }] }
    let x := fun (n : Nat) (d : Loc) => ({ id := 4, slot := 0, seq := n, kind := .cached, parts := [{ locs := [d], val := some 7#512 }] } : LoadOp)
    (stateOf g).gang? 0 0 = some g ∧ g.Ordered ∧
    (∀ p ∈ [(7, Loc.v 3 2), (8, .g 5), (9, .p 2 3)], (x p.1 p.2).failed = false ∧ p.2 ∈ g.owned (x p.1 p.2).seq ∧
      (x p.1 p.2).parts.flatMap LoadPart.writes = [] ++ (p.2, 7#128) :: []) :=
  ⟨by decide +kernel, ⟨by decide, by decide, by decide, by decide, by decide, by decide⟩, by decide +kernel⟩

/-! ### Commands, traps -/

/-- A copy with a descriptor of zeros, and a fence. -/
def cmdOfTests (k : ACmdKind) : ACmd :=
  { id := 7, slot := 0, crew := 1, part := 0, seq := 0, kind := k, words := [0#32, 0#32, 0#32, 0#32, 0#32] }

def cmdState (a : ACmd) : State := event (crewState.modCore 0 (fun k => { k with queues := [(1, [a])] })) 0 1

theorem witness_CommandEvents :
    let a := cmdOfTests .copy
    let f : ACmd := { cmdOfTests .fence with before := [9] }
    let p : MemOp := { id := 1, core := enginePort 0, seq := 7, kind := .store, spans := [] }
    (∀ k ∈ [ACmdKind.copy, .fence], (cmdState (cmdOfTests k)).headCmd 0 1 = some (cmdOfTests k) ∧
      (cmdState (cmdOfTests k)).mayStart 0 1 (cmdOfTests k) = true) ∧
    a.suspended = false ∧ a.await = false ∧ a.stage = 0 ∧ a.todo = [] ∧
    (let t := (cmdState f).modCore 0 (fun k => { k with queues := k.queues ++ [(2, [{ a with id := 9 }])] })
     t.headCmd 0 1 = some f ∧ t.mayStart 0 1 f = false) ∧
    (∀ n ∈ [1, 2, 3, 4, 5], (cmdState { a with stage := n }).headCmd 0 1 = some { a with stage := n } ∧
      (cmdState { a with stage := n }).settled (enginePort 0) a.id = true ∧
      ({ cmdState { a with stage := n } with ops := [p] } : State).settled (enginePort 0) a.id = false) ∧
    (cmdState { a with suspended := true }).headCmd 0 1 = some { a with suspended := true } ∧ 1 < 8 := by decide +kernel

/-- Commands of each kind that moves bytes; a copy of four bytes from 0x10000 to 0x10100, to a place one byte ahead, and into the
scratchpad, and a load of a tile: their lines are held, and a piece is done. -/
theorem witness_CommandEvents_bytes :
    let a : ACmd := { cmdOfTests .copy with words := [0x10000#32, 0#32, 0x10100#32, 0#32, 4#32] }
    let s : State := { holding crewState [{ a := 0x10000, n := 512 }] with mem := [(0x10000, 5#8)] }
    let g : Seg := { src := .mem 0x10000#64, dst := .mem 0x10100#64, n := 4 }
    let r := fun (g : Seg) => s.moveSome 0 a g
    let done := fun (g : Seg) => (match (r g).2.2.1 with | .done => true | _ => false)
    (∀ k ∈ [ACmdKind.copy, .copyRows, .gather, .scatter, .wsig, .ald], (cmdOfTests k).kind = k) ∧ a.segs = [g] ∧ 0 < g.n ∧
    (∀ x ∈ [g, { g with dst := .mem 0x10001#64 }, { g with dst := .spad 8 }, { g with src := .spad 8 }], done x = true ∧ 0 < (r x).2.2.2) ∧
    (r g).1.byte 0x10100 = 5#8 ∧ (r { g with dst := .mem 0x10001#64 }).1.byte 0x10003 = 5#8 ∧
    mfind (r { g with dst := .spad 8 }).2.1.out 8 = some 5#8 ∧ mfind (s.core 0).crews a.crew = some crew ∧ crew.killed = false ∧
    a.err = none ∧ msorted a.out = true ∧ msorted crew.spad = true ∧ msorted a.tile = true ∧ msorted crew.tiles = true ∧
    Memory.wf s.mem = true ∧ mcanon 0 s.stamps = true := by decide +kernel

/-- A WSIG and a SIGADD whose word's line is held; one that has met an error, and one of a kind that adds nothing. -/
theorem witness_CommandEvents_signals :
    let w : ACmd := { cmdOfTests .wsig with words := [0x10000#32, 0#32, 0x10100#32, 0#32, 4#32, 7#32, 0x10200#32, 0#32] }
    let a : ACmd := { cmdOfTests .sigadd with words := [0x10200#32, 0#32, 7#32, 0#32] }
    let s := holding crewState [{ a := 0x10200, n := 8 }]
    (∀ x ∈ [w, a], x.status = 0 ∧ x.err = none ∧ x.flags / 2 % 2 = 0) ∧ pairAt w.words 6 = 0x10200#64 ∧ pairAt a.words 0 = 0x10200#64 ∧
    s.walked 0 0 [0x10200#64] = (s, .ready) ∧ (∃ x, s.checkAddr 0 0 .asyncWrite 0x10200#64 8 = .ok x) ∧
    (s.accessBoth { a := 0x10200, n := 8 }).2 = true ∧ s.rangeOk 0x10200 8 = true ∧
    ({ a with status := 1 } : ACmd).status ≠ 0 ∧ ({ a with err := some 0x10 } : ACmd).err ≠ none ∧
    ((cmdOfTests .copy).kind ≠ .wsig ∧ (cmdOfTests .copy).kind ≠ .sigadd) :=
  ⟨by decide +kernel, by decide +kernel, by decide +kernel, knownWalk (by decide +kernel), okay (by decide +kernel), by decide +kernel,
    by decide +kernel, by decide +kernel, by decide +kernel, by decide +kernel⟩

/-- A drain of an 8 by 8 tile of FP32 elements to 0x10000, without and with ADD: its block is written, and its rows lie apart. -/
theorem witness_CommandEvents_drains :
    let s := holding crewState [{ a := 0x10000, n := 512 }]
    let a : ACmd := { cmdOfTests .drain with desc := tensor 1 0 12 8 8 32 0x10000, active := 3#32, tile := [(0, 0x3F800000#32)] }
    let v := s.cmdView 0 a (a.blockPart (0, 0))
    let cells := blockCells v (s.drainBlock a v (0, 0)).1
    let done := fun (a : ACmd) => (match (s.drainStep 0 a (0, 0)).2.2 with | .done => true | _ => false)
    v.d.sc = false ∧ done a = true ∧ done { a with flags := 8 } = true ∧ cells.length = 8 ∧
    cells.Pairwise (fun p q => p.1.a + p.2.length ≤ q.1.a ∨ q.1.a + q.2.length ≤ p.1.a) ∧
    (s.drainStep 0 a (0, 0)).1.word32 0x10000 = 0x3F800000#32 ∧ Memory.wf s.mem = true ∧ mcanon 0 s.stamps = true := by decide +kernel

theorem witness_CommandEvents_traps :
    let x : AsyncTrap := { gang := 0, cause := 0x12, info := 0 }
    let y : AsyncTrap := { x with gang := privSlot }
    let u := privState.modCore 0 (fun k => { k with asyncQ := [x, y, x] })
    (u.core 0).asyncQ[0]? = some x ∧ x.gang ≠ privSlot ∧ u.gang? 0 x.gang = some gang ∧
    (u.core 0).asyncQ[1]? = some y ∧ (∀ z ∈ (u.core 0).asyncQ.take 1, z.gang ≠ y.gang) ∧ u.gang? 0 y.gang = some privGang := by decide +kernel

/-- Core 0 with a trap record to write at 0x10000, what its core holds of translations, and what the slices hold of lines. -/
def ringState (tlb : List Tlb) (xs : List Spot) : State :=
  holding (crewState.modCore 0 (fun k => { k with
    ringBase := 0x10000, roots := [(64, 0x40001#64)], tlb := tlb
    trapQ := [{ cause := 0x10, slotno := 0, block := 0, slot := 1, word := 0, crew := 1, part := 0 }] })) xs

/-- Its walk waits, meets a bad sector, or is over; the entry waits, is free, holds a record, or fails its check. -/
theorem witness_CommandEvents_ring :
    let x : Spot := { a := 0x10000, n := 32 }
    let s := ringState [page 64]
    let table := ringState [] [{ a := 0x40000, n := 8 }]
    let bad : State := { s [x] with bad := [(0x800, 1#32)] }
    let full : State := { s [x] with mem := [(0x1001C, 1#8)] }
    (∃ r, ((s []).core 0).trapQ = r :: []) ∧ ((ringState [] []).walked 0 privSlot [0x10000#64]).2 = .wait ∧
    (({ table with bad := [(0x40000 / 32, 1#32)] } : State).walked 0 privSlot [0x10000#64]).2 = .bad (0x40000 / 32) ∧
    (s []).walked 0 privSlot [0x10000#64] = (s [], .ready) ∧ (s [x]).walked 0 privSlot [0x10000#64] = (s [x], .ready) ∧
    (s []).ringSpot 0 = x ∧ ((s []).accessBoth x).2 = false ∧ ((s [x]).accessBoth x).2 = true ∧
    (s [x]).rangeOk x.a 32 = true ∧ (((s [x]).accessBoth x).1.byte (x.a + 28)).getLsbD 0 = false ∧
    (full.accessBoth x).2 = true ∧ ((full.accessBoth x).1.byte (x.a + 28)).getLsbD 0 = true ∧
    (bad.spotBad [x]).isSome = true ∧ bad.rangeOk x.a 32 = false ∧ (bad.accessBoth x).2 = true :=
  ⟨⟨_, rfl⟩, by decide +kernel, by decide +kernel, knownWalk (by decide +kernel), knownWalk (by decide +kernel),
    by decide +kernel, by decide +kernel, by decide +kernel, by decide +kernel, by decide +kernel, by decide +kernel, by decide +kernel,
    by decide +kernel, by decide +kernel, by decide +kernel⟩

/-! ### Engines, coherence, readers -/

/-- An MMA entry of crew 1 over two 8 by k tensors of E4M3 elements at 0x10000. -/
def mxEntryOf (k : Nat) : MxEntry :=
  let d := fun (rows cols : Nat) => BitVec.ofNat 128 (1 * 2 ^ 125 + 7 * 2 ^ 120 + rows * 2 ^ 108 + cols * 2 ^ 96 + cols * 2 ^ 64 + 0x10000)
  { id := 9, core := 0, slot := 0, crew := 1, part := 0, seq := 0, kind := .mma, word := 0#32, tile := 0
    fw := BitVec.ofNat 32 (7 * 2 ^ 16 + 7 * 2 ^ 12), descs := [d 8 k, d k 8], xlat := [page 0], active := 3#32 }

def mxState (e : MxEntry) (quarters : SMap Nat) : State :=
  event { crewState with cmes := [(0, { table := [e], quarters := quarters })] } 0 0

/-- The line of an address is on its way into its slice: an access to it is held up. -/
def blocked (s : State) (a : Nat) : State := s.setEntry (dirKey (a / 128 * 128) 128) { fetching := true }

theorem witness_MatrixAndTrellisEvents_grants :
    let e := mxEntryOf 8
    let s := mxState e []
    let found := fun (s : State) => (s.cme 0).table.find? (fun x =>
      s.mxReady x && (((s.cme 0).table.filter s.mxReady).all (fun y => y.rank s.clock ≤ x.rank s.clock)))
    let three := mxState e [(0, 1), (1, 2), (2, 3)]
    found s = some e ∧ mfind (s.cme 0).quarters 0 = none ∧
    found three = some e ∧ (∀ p < 3, mfind (three.cme 0).quarters p ≠ none) ∧ mfind (three.cme 0).quarters 3 = none ∧
    (∀ x ∈ ((mxState { e with running := true } []).cme 0).table, (mxState { e with running := true } []).mxReady x = false) := by
  decide +kernel

theorem witness_MatrixAndTrellisEvents_passes :
    let r : MxEntry := { mxEntryOf 8 with running := true }
    let w := mxState r [(0, 9)]
    let t := holding w (w.passSpots r)
    let b : State := { t with bad := [(0x800, 1#32)] }
    let deep := { mxEntryOf 1024 with xlat := [{ page 0 with size := 0x10000 }] }
    let d : State := { holding w [{ a := 0x10000, n := 0x2000 }] with bad := [(0x8F0, 1#32)] }
    mfind (t.cme 0).quarters 0 = some 9 ∧ (t.cme 0).table.find? (fun x => x.id = 9) = some r ∧ mfind (t.core r.core).crews r.crew = some crew ∧
    (t.readAll r.part (t.passSpots r)).2 = .ready ∧ (w.readAll r.part (w.passSpots r)).2 = .wait ∧
    (b.readAll r.part (b.passSpots r)).2 = .bad 0x800 ∧ t.spotBad (t.depthSpots r r.kdone r.extent.k) = none ∧
    (d.readAll deep.part (d.passSpots deep)).2 = .ready ∧ d.spotBad (d.depthSpots deep deep.kdone deep.extent.k) = some 0x8F0 ∧
    r.extent.k ≤ r.kdone + r.extent.span ∧ mfind (t.cme 0).quarters 1 = none ∧
    (mxEntryOf 1024).kdone + (mxEntryOf 1024).extent.span < (mxEntryOf 1024).extent.k := by decide +kernel

/-- The kinds of a pass, with and without a start that overwrites, over rows that lanes own. -/
theorem witness_MatrixAndTrellisEvents_values :
    (mxEntryOf 8).kind = .mma ∧ (mxEntryOf 8).extent.fresh = false ∧ (mxEntryOf 8).extent.m = 8 ∧ (mxEntryOf 8).active ≠ 0#32 ∧
    (∀ k ∈ [MxKind.mma2, .mmat, .ttrans, .tperm, .trsum], ({ mxEntryOf 8 with kind := k } : MxEntry).kind = k) ∧
    (∃ k ∈ [MxKind.ttrans, .tperm, .trsum], ({ mxEntryOf 8 with kind := k } : MxEntry).extent.fresh = true) := by decide +kernel

def topOf (arrived suspended : Bool) (n : Nat) : TOp :=
  { id := 3, core := 0, slot := 0, crew := 1, part := 0, seq := 0, kind := .save, args := [(0, 0x01000000#32, 0#32, 0#32)], arrived := arrived
    suspended := suspended, bytes := List.replicate n 0#8 }

def topState (t : TOp) : State := event { crewState with tops := [t] } 0 8

/-- A soft error listed in a state with an open record. -/
def upsetState (u : Upset) : State :=
  { crewState with
    upsets := [u]
    trels := [(0, { recs := [(0, { gen := 1, part := 2, cap := 64, minl := 2, seed := 0#64, dtab := 0#32 })], gens := [(0, 1)] })] }

theorem witness_MatrixAndTrellisEvents_trellis :
    let o : MemOp := { id := 1, core := enginePort 0, seq := 3, kind := .bytes, spans := [] }
    (topState (topOf false false 0)).tops[0]? = some (topOf false false 0) ∧
    (topState (topOf false false 0)).mayArrive 0 (topOf false false 0) = true ∧
    (topState (topOf true false 0)).mayArrive 0 (topOf true false 0) = false ∧ (topOf true false 64).done < (topOf true false 64).bytes.length ∧
    (topOf true false 0).bytes.length ≤ (topOf true false 0).done ∧ (topState (topOf true false 0)).settled (enginePort 0) 3 = true ∧
    ({ topState (topOf true false 0) with ops := [o] } : State).settled (enginePort 0) 3 = false ∧
    8 ≤ (topState (topOf true true 64)).arg.b ∧ (topState (topOf true true 64)).tops[8 - 8]? = some (topOf true true 64) ∧
    (topOf false true 0).arrived = false ∧
    (topOf false false 0).needs.find? (fun a => ((topState (topOf false false 0)).record? a.2).isNone) = some (0, 0x01000000#32) := by
  decide +kernel

theorem witness_MatrixAndTrellisEvents_appends :
    let s := upsetState { unit := 0, cls := 2 }
    let t : TOp := { topOf false false 0 with kind := .append, args := [(0, 0x01000000#32, 5#32, 0#32), (1, 0x01000000#32, 6#32, 1#32)] }
    let r : TRec := { gen := 1, part := 2, cap := 64, minl := 2, seed := 0#64, dtab := 0#32 }
    t.kind = .append ∧ t.args[0]? = some (0, 0x01000000#32, 5#32, 0#32) ∧ t.args[1]? = some (1, 0x01000000#32, 6#32, 1#32) ∧
    s.record? 0x01000000#32 = some r ∧ (∀ a ∈ t.args, s.record? a.2.1 ≠ none) := by decide +kernel

/-- A record that has taken the tokens 1, 2, 3, 1, 2. -/
def recordOfTests : TRec :=
  [1#32, 2#32, 3#32, 1#32, 2#32].foldl (fun r t => (r.append t (BitVec.ofNat 32 r.n)).2)
    { gen := 1, part := 2, cap := 64, minl := 2, seed := 0#64, dtab := 0#32 }

/-- A match of the last two tokens at the event 1; a record with a minimum of three; and one that holds nothing to match. -/
theorem witness_MatrixAndTrellisEvents_matches :
    let r := recordOfTests
    let s := fun (r : TRec) => ({ crewState with trels := [(0, { recs := [(0, r)], gens := [(0, 1)] })] } : State)
    let t : TOp := { topOf false false 0 with kind := .matchOp, args := [(0, 0x01000000#32, 4#32, 0#32)] }
    t.kind = .matchOp ∧ t.done = 0 ∧ (s r).record? 0x01000000#32 = some r ∧ (∀ a ∈ t.args, (s r).record? a.2.1 ≠ none) ∧
    2 ∈ trellisClasses ∧ 1 ∈ r.candidates 2 ∧ (∀ q ∈ r.candidates 2, q ≤ 1) ∧ (∀ n ∈ trellisClasses, 2 < n → r.candidates n = []) ∧
    (∀ i < 2, r.lo + i ≤ 1 ∧ r.tok (1 - i) = r.tok (r.n - 1 - i)) ∧ 1 < r.lo + 2 ∧ ¬ 2 < r.minl ∧ 2 < ({ r with minl := 3 } : TRec).minl ∧
    (∀ len ∈ trellisClasses, ({ r with n := 0, hist := [], index := [] } : TRec).candidates len = []) ∧
    ({ r with n := 0, hist := [], index := [] } : TRec).cap = 64 := by decide +kernel

/-- A message of a kind between core 0 and slice 0 about the line at 0x10000. -/
def about (k : MsgKind) : Msg := { kind := k, core := 0, slice := 0, unit := 0x10000, usize := 128, op := 6, bytes := List.replicate 128 (0#8, 0) }

def netState (k : MsgKind) : State := event { crewState with net := [about k] } 0 0

theorem witness_CoherenceEvents :
    (∀ k ∈ [MsgKind.fillReq, .store, .homeOp, .evict, .cctl, .fillData, .update, .inval, .ackD, .ackP, .cctlAck],
      (netState k).deliver 0 [k] = some (about k, { netState k with net := [] })) ∧
    (∀ k ∈ [MsgKind.ackUpdate, .ackInval],
      (netState k).deliver 0 [.ackUpdate, .ackInval] = some (about k, { netState k with net := [] })) ∧
    (netState .store).deliver 0 [.fillReq] = none ∧ (netState .fillReq).deliver 0 [.store] = none ∧
    (netState .store).deliver 0 [.homeOp] = none ∧ (about .fillData).nocache = false ∧ (about .update).usize ≠ 0 ∧
    (∀ k ∈ [MsgKind.evict, .cctl, .ackInval],
      (netState k).entry? (dirKey 0x10000 128) = none ∧
      ({ netState k with dir := [(dirKey 0x10000 128, { ptrs := [0], st := .ptrs })] } : State).entry? (dirKey 0x10000 128) =
        some { ptrs := [0], st := .ptrs }) ∧
    (∀ k ∈ [MsgKind.update, .fillData],
      (event { crewState with net := [{ about k with usize := 0 }] } 0 0).deliver 0 [k] = some ({ about k with usize := 0 }, event crewState 0 0)) ∧
    (event { crewState with net := [{ about .fillReq with unit := 0x10080 }, about .fillReq] } 1 0).deliver 1 [.fillReq] = none := by
  decide +kernel

theorem witness_CoherenceEvents_room :
    let m := about .fillReq
    let key := dirKey 0x10000 128
    let o : MemOp := { id := 6, core := 0, kind := .store, spans := [{ addr := 0x10000, data := [1#8] }] }
    let held := fun (n : Nat) => (([(dirKey 0x20000 128, ({ usize := n } : DirEntry))] : SMap DirEntry).map (fun e => keySize e.1)).foldl (· + ·) 0
    crewState.msgHomes m = [(key, m.slice)] ∧ crewState.entry? key = none ∧ m.kind = .fillReq ∧ targetOf (keyUnit key) = .hbm ∧
    ({ m with nocache := true } : Msg).nocache = true ∧ m.nocache = false ∧ crewState.uncached m.unit = false ∧
    (about .store).kind = .store ∧ (about .homeOp).kind = .homeOp ∧ ({ crewState with ops := [o] } : State).ops.find? (fun o => o.id = 6) = some o ∧
    held 128 + 128 ≤ 1572864 := by decide +kernel

theorem witness_CoherenceEvents_updates :
    let u := about .update
    let whole := fun (b : Bool) => ({ crewState with
      net := [u, { u with unit := 0x10080 }], ops := [{ id := 6, core := 0, kind := .bytes, spans := [], whole := b }] } : State)
    let l : L1Line := { unit := 0x10000, usize := 128, bytes := List.replicate 128 (1#8, 0), pend := [(3, 0x10004, 4)] }
    (whole false).ops.any (fun o => o.id = 6 && o.whole) = false ∧ (whole true).ops.any (fun o => o.id = 6 && o.whole) = true ∧
    ((whole true).deliver 0 [.update]).isSome = true ∧ 127 < l.bytes.length ∧ 127 < u.bytes.length ∧
    (∀ i ∈ [0, 3, 8], ∀ p ∈ l.pend, ¬ (p.2.1 < (l.unit + i) / 4 * 4 + 4 ∧ (l.unit + i) / 4 * 4 < p.2.1 + p.2.2)) ∧
    (∀ i ∈ [4, 7], ∃ p ∈ l.pend, p.1 ∉ u.behind ∧ p.2.1 < (l.unit + i) / 4 * 4 + 4 ∧ (l.unit + i) / 4 * 4 < p.2.1 + p.2.2) := by
  decide +kernel

theorem witness_CoherenceEvents_full :
    let l : L1Line := { unit := 0x10000, usize := 128, bytes := [] }
    let x : Core := { l1 := List.replicate 1024 l }
    x.l1 = l :: List.replicate 1023 l ∧ 1024 ≤ x.l1.length ∧ ({ l1 := [] } : Core).l1.length < 1024 := by
  decide +kernel

theorem witness_CoherenceEvents_entries :
    let key := dirKey 0x10000 128
    let s := fun (e : DirEntry) => event { crewState with dir := [(key, e)] } key 0
    let e : DirEntry := { ptrs := [0], st := .ptrs }
    let host := dirKey (2 ^ 51) 128
    (s e).arg.flag = false ∧ ({ (s e).arg with flag := true } : EvArg).flag = true ∧
    (s e).entry? key = some e ∧ e.st ≠ .evicting ∧ e.fetching = false ∧ e.waitRoom = false ∧
    ((s e).evict key e false).entry? key = some { e with st := .evicting, ptrs := [], clusters := 0#40, waitInv := e.targets, keep := false } ∧
    ({ e with writeBack := true } : DirEntry).writeBack = true ∧ ({ e with fetching := true } : DirEntry).fetching = true ∧
    ({ e with waitRoom := true } : DirEntry).waitRoom = true ∧ ({ e with st := .evicting } : DirEntry).st = .evicting ∧
    targetOf (keyUnit key) = .hbm ∧ targetOf (keyUnit host) = .host ∧ (List.replicate (keySize host) 0#8).length = keySize host := by decide +kernel

/-- A message on the way to or from the Lodge. -/
def lodgeState (m : LMsg) : State := event { crewState with lodge := { crewState.lodge with msgs := [m] } } 0 0

theorem witness_ReaderEvents_arrivals :
    let e : Retired := { ticket := 0#32, base := 0x10000#64, size := 4096#32, kind := 0 }
    (∀ m ∈ [LMsg.retire 0 4 1 e, .version 1, .flip 0 1 true, .newVersion 0 1 2#32, .leafQuiet 0 1, .aggQuiet 0 1, .freed 0 1 2#32,
        .park 0 1 1 0 0 1, .parkAck 0 1 1 0 1 (some 0), .holdDec (.leaf 0) 1 false, .holdDec (.parked 0) 1 false, .stale 0, .gpstat 0 4 1 0 2,
        .chorePulse 0], (lodgeState m).takeL 0 = some (m, event crewState 0 0)) ∧ crewState.takeL 0 = none := by decide +kernel

theorem witness_ReaderEvents_periods :
    let e : Retired := { ticket := 1#32, base := 0x10000#64, size := 4096#32, kind := 0 }
    let g : Retired := { e with kind := 2, region := some 5 }
    let s := fun (x : Dom) (bcnt : Nat) => event { crewState with
      lodge := { crewState.lodge with doms := [(1, x)], regions := [(5, { state := 2, size := 1, bcnt := bcnt })] } } 1 0
    let x : Dom := { en := true, run := true, quiet := [0, 1, 2, 3], covered := [e] }
    (s x 0).periodOver 1 = true ∧ (s { x with quiet := [] } 0).periodOver 1 = false ∧
    (let slot : Spot := { a := 0x10000 * 64 + 32 * (0 % 4096), n := 32 }
     let word : Spot := { a := 0x10008, n := 8 }
     let f : Dom := { flist := 0x10000#64, freeing := [e] }
     let y : Dom := { f with freeing := [g] }
     let w : Dom := { f with step := 1, cword := 0x10008#64 }
     ((s f 0).dom 1).freeing = e :: [] ∧ (s f 0).settled lodgePort (domSeq 1) = true ∧ f.step = 0 ∧ e.region = none ∧
     ((holding (s f 0) [slot]).access true slot).2 = true ∧ ((s f 0).access true slot).2 = false ∧ ((s y 0).dom 1).freeing = g :: [] ∧
     mfind (s y 0).lodge.regions 5 = some { state := 2, size := 1 } ∧
     mfind (s y 1).lodge.regions 5 = some { state := 2, size := 1, bcnt := 1 } ∧ f.cword = 0#64 ∧
     ((s { f with step := 1 } 0).dom 1).step = 1 ∧ ((s w 0).dom 1).step = 1 ∧ w.cword ≠ 0#64 ∧
     w.cword.toNat = word.a ∧ ((holding (s w 0) [word]).access true word).2 = true ∧ ((s w 0).access true word).2 = false ∧ ((s { w with step := 2 } 0).dom 1).step = 2) := by decide +kernel

theorem mfind_listed {α : Type} (p : α) (n a j : Nat) (h : a ≤ j) (k : j < a + n) :
    mfind ((List.range' a n).map (fun i => (i, p))) j ≠ none := by
  induction n generalizing a with
  | zero => omega
  | succ n ih =>
    simp only [List.range'_succ, List.map_cons, mfind]
    split
    · simp
    · rw [if_neg (by omega)]
      exact ih (a + 1) (by omega) (by omega)

theorem witness_ReaderEvents_full :
    let full : SMap Parked := (List.range 4096).map (fun i => (i, { dom := 1, part := 0, cnt1 := 0, cnt0 := 1 }))
    ∀ j < 4096, mfind full j ≠ none := by
  intro full j h
  simp only [full, List.range_eq_range']
  exact mfind_listed _ 4096 0 j (by omega) (by omega)

theorem witness_ReaderEvents_parking :
    let t := fun (n : Nat) => crewState.modCrew 0 1 (fun w => { w with parking := n })
    (∀ i < 4096, mfind crewState.lodge.parked i = none) ∧ ((t 1).crew 0 1).parking = 1 ∧ ((t 0).crew 0 1).parking ≠ 1 ∧
    ((lodgeState (.parkAck 0 1 1 0 1 none)).takeL 0).isSome = true ∧
    mfind [(0, ({ dom := 1, part := 0, cnt1 := 0, cnt0 := 1 } : Parked))] 0 = some { dom := 1, part := 0, cnt1 := 0, cnt0 := 1 } :=
  ⟨fun _ _ => rfl, by decide +kernel, by decide +kernel, by decide +kernel, by decide⟩

/-! ### Pergola -/

/-- Memory that holds some blocks of bytes, given in the order of their addresses. -/
def memOf (blocks : List (Nat × List (BitVec 8))) : List Host.Cell :=
  blocks.flatMap (fun b => ((List.range b.2.length).zip b.2).filterMap (fun p => if p.2 = 0#8 then none else some (b.1 + p.1, p.2)))

def zeros (n : Nat) : List (BitVec 8) := List.replicate n 0#8

/-- A page table at 0x20000 that maps the first GiB of partition 0 to itself, and the second to itself for reads only, and a block
header at 0x100C0 with F set. -/
def tables : List (Nat × List (BitVec 8)) :=
  [(0x100C3, [0x40#8]), (0x20000, [1#8, 0x10#8, 2#8]), (0x21000, [1#8, 0x20#8, 2#8]),
    (0x22000, [0x0F#8] ++ zeros 7 ++ [3#8, 0#8, 0#8, 0x40#8])]

def packet (ty f24 f32 f40 : Nat) : List (BitVec 8) :=
  leBytes 1 ty ++ zeros 23 ++ leBytes 8 f24 ++ leBytes 8 f32 ++ leBytes 8 f40 ++ zeros 16

/-- A launch header: one crew of one gang of 32 lanes, whose entry is block 3 of 0x10000. -/
def header : List (BitVec 8) :=
  leBytes 8 0x10000 ++ leBytes 4 3 ++ [1#8, 1#8, 1#8, 0x80#8] ++ [5#8] ++ zeros 7 ++ leBytes 4 32 ++ zeros 20 ++ [1#8, 1#8] ++
    zeros 26 ++ [0xFF#8, 0xFF#8] ++ zeros 50

def node (ty f24 f32 f40 : Nat) : List (BitVec 8) :=
  leBytes 1 ty ++ zeros 3 ++ List.replicate 12 0xFF#8 ++ zeros 8 ++ leBytes 8 f24 ++ leBytes 8 f32 ++ leBytes 8 f40 ++ zeros 16

/-- Queue 3, mapped, with one packet in its ring at 0x30000; a header at 0x40000, a graph of one SIGNAL node at 0x41000, a pair at
0x42000; the slices hold their lines, and the line that holds the queue's descriptor. -/
def queueState (q : Queue) (p : List (BitVec 8)) : State :=
  holding
    { mem := memOf (tables ++ [(0x30000, p), (0x40000, header), (0x41000, leBytes 8 1 ++ zeros 56 ++ node 3 0x42000 1 0),
      (0x42000, leBytes 8 0x40000 ++ leBytes 8 7)])
      lodge := { stage := 3, roots := [(0, 0x20001#64)], parts := [(0, { en := true, cmask := 1, power := 100, hbmsh := 256, cores := 160 })] }
      pergola := { queues := [(3, q)] }, arg := { a := 3 } }
    [{ a := 192, n := 64 }, { a := 0x100C0, n := 16 }, { a := 0x20000, n := 8 }, { a := 0x21000, n := 8 }, { a := 0x22000, n := 24 },
      { a := 0x30000, n := 64 }, { a := 0x40000, n := 128 }, { a := 0x41000, n := 128 }, { a := 0x42000, n := 384 }, { a := 0x43000, n := 16 }]

def queue : Queue := { state := 1, slot := some 0, ring := 0x30000, wrx := 1 }

/-- The state in which a queue's packet starts. -/
def startOf (s : State) : State :=
  match s.nextPacket 3 with
  | some (t, .got p, _) =>
    (((t.access true { a := t.descAt 3, n := 64 }).1.won 3).pergTables (s.queue 3).part (packetRanges p)).1.bump
  | some _ => s
  | none => s

/-- The packet of queue 3 starts as one of a type. -/
def starts (s : State) (ty : Nat) : Bool :=
  match s.nextPacket 3 with
  | some (t, .got p, _) => decide ((s.queue 3).state = 1) && (s.queue 3).park.isNone && s.worksFrom 3 && decide (fieldAt p 0 1 = ty) &&
      s.mayStartPacket 3 p && decide (s.offerWinner (s.queue 3).die = some 3) && (t.access true { a := t.descAt 3, n := 64 }).2 && (packetBad p).isNone &&
      (let u := ((t.access true { a := t.descAt 3, n := 64 }).1.won 3).pergTables (s.queue 3).part (packetRanges p)
       decide (u.2 = .ready) && (u.1.packetLost (s.queue 3).part p).isNone)
  | _ => false

theorem packet_starts {s : State} {ty : Nat} (h : starts s ty = true) : ∃ p va t u r, PacketStarts s 3 ty p va t u (startOf s) r := by
  unfold starts at h
  split at h
  · rename_i t p va hn
    simp only [Bool.and_eq_true, decide_eq_true_eq, Option.isNone_iff_eq_none] at h
    obtain ⟨⟨⟨⟨⟨⟨⟨⟨h1, h2⟩, h3⟩, h4⟩, h5⟩, h6⟩, h7⟩, h8⟩, h9, h10⟩ := h
    exact ⟨p, va, t, _, _, ⟨h1, h2, h3, hn, h4, h5, h6, h7, h8, Prod.ext rfl h9, h10, by simp only [startOf, hn], rfl⟩⟩
  · cases h

theorem witness_PacketsStart :
    starts (queueState queue (packet 1 0x40000 0 0)) 1 = true ∧ starts (queueState queue (packet 2 0x41000 0 0)) 2 = true ∧
    starts (queueState queue (packet 3 0x42000 1 0)) 3 = true ∧ starts (queueState queue (packet 4 0x42000 1 0)) 4 = true ∧
    starts (queueState queue (packet 5 0x42000 0x42100 16)) 5 = true ∧ starts (queueState queue (packet 6 0x41000 1 0)) 6 = true ∧
    starts (queueState queue (packet 7 5 0 0)) 7 = true := by decide +kernel

theorem witness_PacketsStart_launch :
    let w := startOf (queueState queue (packet 1 0x40000 0 0))
    (w.launch 3 1 none 0x40000#64 0#64 0#64 none).2 = .ok ∧ ((blocked w 0x40000).launch 3 1 none 0x40000#64 0#64 0#64 none).2 = .wait ∧
    ((startOf (queueState queue (packet 1 0x41000 0 0))).launch 3 1 none 0x41000#64 0#64 0#64 none).2 = .refused 1 := by decide +kernel

theorem witness_PacketsStart_graph :
    ((startOf (queueState queue (packet 2 0x41000 0 0))).readGraph 0 0x41000#64 false).2 = .got [node 3 0x42000 1 0] ∧
    ((startOf (queueState queue (packet 2 0x42000 0 0))).readGraph 0 0x42000#64 false).2 = .bad 0 := by decide +kernel

theorem witness_PacketsStart_wait :
    (let w := startOf (queueState queue (packet 3 0x42000 1 0))
     (w.pergSpots 0 .load 0x42000#64 8).toOption = some [{ a := 0x42000, n := 8 }] ∧
     (w.readSpots 0 [{ a := 0x42000, n := 8 }]).2 = .got (leBytes 8 0x40000) ∧
     ((blocked w 0x42000).readSpots 0 [{ a := 0x42000, n := 8 }]).2 = .wait ∧
     (({ w with bad := [(0x42000 / 32, 1#32)] } : State).readSpots 0 [{ a := 0x42000, n := 8 }]).2 = .lost ∧ (1#64).toNat ≤ leNat (leBytes 8 0x40000) ∧ leNat (leBytes 8 0x40000) < (0x50000#64).toNat) := by decide +kernel

theorem witness_PacketsStart_others :
    (let w := startOf (queueState queue (packet 5 0x42000 0x42100 16))
     w.arg.b = 0 ∧ (w.pergSpots 0 .asyncRead 0x42000#64 16).isOk = true ∧ (w.pergSpots 0 .asyncWrite 0x42100#64 16).isOk = true ∧
     (match w.pergSpots 0 .asyncWrite 0x40000000#64 16 with | .error .access => true | _ => false) = true ∧
     starts (queueState queue (packet 5 0x42000 0x40000000 16)) 5 = true) ∧
    queue.open_.length < 4 ∧
    4 ≤ ({ queue with frames := List.replicate 4 { base := 0x41000#64, pos := 0, count := 1, owner := 1 } } : Queue).open_.length := by
  decide +kernel

/-- Queue 3 with a packet that has started and has its effect still to make. -/
def runState (ty f24 f32 f40 : Nat) : State :=
  { queueState { queue with runs := [{ id := 1, ty := ty, index := 0, addr := 0x30000#64, bytes := packet ty f24 f32 f40, stage := 1 }] }
      (packet ty f24 f32 f40) with arg := { a := 3, b := 1 } }

theorem witness_PacketsStart_resumes :
    (∀ ty ∈ [4, 5], ((runState ty 0x42000 0x42100 16).queue 3).runs.find? (fun r => r.id = 1 && r.ty = ty && r.stage < 2) =
      some { id := 1, ty := ty, index := 0, addr := 0x30000#64, bytes := packet ty 0x42000 0x42100 16, stage := 1 }) ∧
    (let s := runState 4 0x42000 1 0
     s.arg.b ≠ 0 ∧ (s.pergAdd 3 0x42000#64 1#64).2 = .made s.nextId ∧ ((blocked s 0x42000).pergAdd 3 0x42000#64 1#64).2 = .wait ∧
     (s.pergAdd 3 0x80000000#64 1#64).2 = .fault) ∧
    (let s := runState 5 0x42000 0x42100 16
     (s.pergCopy 3 0 0x42000#64 0x42100#64 16).2 = .made ∧ ((blocked s 0x42100).pergCopy 3 0 0x42000#64 0x42100#64 16).2 = .wait ∧
     (s.pergCopy 3 0 0x42000#64 0x80000000#64 16).2 = .fault ∧ (s.pergCopy 3 0 0x42000#64 0x40000000#64 16).2 = .denied) := by
  decide +kernel

/-- Module 1024, with a window on the page at 0x42000 and a port to the modules 1024 to 1087. -/
def linked (xoff : BitVec 8) : State :=
  let s := queueState queue (packet 4 0x42000 1 0)
  { s with
    fabric := { ports := [(0, { up := true, peerXoff := xoff })] }
    lodge := { s.lodge with
      nodeid := 0x80000400#32, routes := [(16, 1#64)]
      windows := [(0, { base := 0x42000#64, size := 0x1000#64, part := 0, atomics := true, write := true, en := true })] } }

theorem witness_PacketsStart_adds :
    let s := linked 0#8
    let here := BitVec.ofNat 64 (1024 * 2 ^ 46)
    let there := BitVec.ofNat 64 (1025 * 2 ^ 46)
    let far := BitVec.ofNat 64 (2000 * 2 ^ 46)
    let word : Spot := { a := 0x42000, n := 8 }
    let bad := fun (n : Nat) => ({ s with bad := [(n, 1#32)] } : State)
    canonical 0x42000#64 = true ∧ (s.pergTables 0 [(0x42000#64, 8)]).2 = .ready ∧
    ((blocked s 0x22000).pergTables 0 [(0x42000#64, 8)]).2 = .wait ∧ ((bad 0x1100).pergTables 0 [(0x42000#64, 8)]).2 = .bad 0x1100 ∧
    (match s.pergSpots 0 .asyncWrite 0x80000000#64 8 with | .error .page => true | _ => false) = true ∧
    (match s.pergSpots 0 .asyncWrite 0x40000000#64 8 with | .error .access => true | _ => false) = true ∧
    (s.pergSpots 0 .asyncWrite 0x42000#64 8).toOption = some [word] ∧ (s.accessBoth word).2 = true ∧
    (s.accessBoth word).1.spotBad [word] = none ∧ ((bad 0x2100).accessBoth word).1.spotBad [word] = some 0x2100 ∧
    ((blocked s 0x42000).accessBoth word).2 = false ∧
    canonical here = false ∧ canonical there = false ∧ canonical far = false ∧ s.worksFrom 3 = true ∧ s.ownNode here = true ∧
    ((blocked s 0x42000).bump.windowAtomic (pergolaPort 0) s.nextId .asyncWrite (globalOff here) 0 6 1#64 0#64).2 = none ∧
    (s.bump.windowAtomic (pergolaPort 0) s.nextId .asyncWrite (globalOff here) 0 6 1#64 0#64).2 = some (0, leBytes 8 0x40000) ∧
    s.ownNode there = false ∧ s.ownNode far = false ∧ s.route (globalNode far) 160 3 = none ∧ s.route (globalNode there) 160 3 = some 0 ∧
    (s.port 0).peerXoff.getLsbD 2 = false ∧ (linked 4#8).route (globalNode there) 160 3 = some 0 ∧
    ((linked 4#8).port 0).peerXoff.getLsbD 2 = true := by decide +kernel

/-- A queue with a graph of one node in progress. -/
def graphState (b : List (BitVec 8)) (st : NodeSt) : State :=
  let s := queueState queue (packet 7 5 0 0)
  { s with arg := { a := 2, b := 0 }
           pergola := { s.pergola with graphs := [(2, { id := 2, queue := 3, run := 1, karg := 0#64, nodes := [b], st := [st] })] } }

theorem witness_GraphNodes :
    (∀ b ∈ [node 1 0x40000 0 0, node 2 0x42000 0x42100 16, node 3 0x42000 1 0, node 4 0x42000 1 0, node 5 0x41000 0x42000 1, node 6 0x42000 0 0],
      let s := graphState b .waiting
      s.graph? 2 = some { id := 2, queue := 3, run := 1, karg := 0#64, nodes := [b], st := [.waiting] } ∧ (s.queue 3).state = 1 ∧
      s.worksFrom 3 = true ∧ ({ id := 2, queue := 3, run := 1, karg := 0#64, nodes := [b], st := [.waiting] } : GraphRun).mayStart 0 = true) ∧
    (let s := graphState (node 1 0x40000 0 0) .waiting
     (s.launch 3 1 (some (2, 0)) 0x40000#64 0#64 0#64 none).2 = .ok ∧ (s.launch 3 1 (some (2, 0)) 0x41000#64 0#64 0#64 none).2 = .refused 1 ∧
     (s.pergCopy 3 s.nextId 0x42000#64 0x42100#64 16).2 = .made ∧
     ((blocked s 0x42000).pergCopy 3 s.nextId 0x42000#64 0x42100#64 16).2 = .wait ∧
     (s.pergCopy 3 s.nextId 0x42000#64 0x40000000#64 16).2 = .denied ∧ (s.pergCopy 3 s.nextId 0x80000000#64 0x42100#64 16).2 = .fault ∧
     (s.pergAdd 3 0x42000#64 1#64).2 = .made s.nextId ∧ ((blocked s 0x42000).pergAdd 3 0x42000#64 1#64).2 = .wait ∧
     (s.pergAdd 3 0x80000000#64 1#64).2 = .fault ∧
     (s.pergRead 0 0x42000#64 8).2 = .got (leBytes 8 0x40000) ∧ (s.pergRead 0 0x42000#64 16).2 = .got (leBytes 8 0x40000 ++ leBytes 8 7) ∧
     (s.readGraph 0 0x41000#64 true).2 = .got [node 3 0x42000 1 0]) := by decide +kernel

/-- Words, pairs, headers and bodies that have to be awaited, that fail their check, that lie on no page, and a body that is malformed. -/
theorem witness_GraphNodes_reads :
    let s := graphState (node 6 0x42000 0 0) .waiting
    let bad := fun (n : Nat) => ({ s with bad := [(n, 1#32)] } : State)
    let fails := fun (r : PRead) => (match r with | .fail _ => true | _ => false)
    (∀ n ∈ [4, 8, 16], ((blocked s 0x42000).pergRead 0 0x42000#64 n).2 = .wait ∧ ((bad 0x2100).pergRead 0 0x42000#64 n).2 = .lost ∧
      fails (s.pergRead 0 0x80000000#64 n).2 = true) ∧ (s.pergRead 0 0x42000#64 4).2 = .got (leBytes 4 0x40000) ∧
    ((blocked s 0x40000).launch 3 1 (some (2, 0)) 0x40000#64 0#64 0#64 none).2 = .wait ∧
    ((bad 0x2000).launch 3 1 (some (2, 0)) 0x40000#64 0#64 0#64 none).2 = .lost ∧
    ((blocked s 0x41000).readGraph 0 0x41000#64 true).2 = .wait ∧ ((bad 0x2080).readGraph 0 0x41000#64 true).2 = .lost ∧
    (s.readGraph 0 0x80000000#64 true).2 = .fail ∧ (s.readGraph 0 0x42000#64 true).2 = .bad 0 ∧
    ((blocked s 0x41000).readGraph 0 0x41000#64 false).2 = .wait ∧ ((bad 0x2080).readGraph 0 0x41000#64 false).2 = .lost ∧
    (s.readGraph 0 0x80000000#64 false).2 = .fail := by decide +kernel

theorem witness_GraphNodes_running :
    let s := graphState (node 2 0x42000 0x42100 16) (.running 9)
    let o := fun (s : State) => ({ s with ops := [{ id := 1, core := pergolaPort 0, seq := 9, kind := .bytes, spans := [] }] } : State)
    let l := graphState (node 5 0x41000 0x42000 1) (.running 0)
    let body := fun (x : NodeSt) => ({ id := 4, queue := 3, run := 1, karg := 0#64, nodes := [node 3 0x42000 1 0], st := [x], iter := 1
                                       parent := some (2, 0) } : GraphRun)
    let t := fun (x : NodeSt) => l.addGraph (body x)
    (s.graph? 2).map (fun g => g.st[0]?) = some (some (.running 9)) ∧ (l.graph? 2).map (fun g => g.st[0]?) = some (some (.running 0)) ∧
    s.settled (pergolaPort 0) 9 = true ∧ (o s).settled (pergolaPort 0) 9 = false ∧ s.addDone 3 9 = true ∧ (o s).addDone 3 9 = false ∧
    (t .complete).bodyOf 2 0 = some (body .complete) ∧ (body .complete).st.all (fun x => decide (x = .complete)) = true ∧
    (t .waiting).bodyOf 2 0 = some (body .waiting) ∧ (body .waiting).st.all (fun x => decide (x = .complete)) = false := by decide +kernel

/-- A descriptor of queue 3, whose ring has 2^n packets at 0x30000, with a status. -/
def descriptor (n st : Nat) : List (BitVec 8) := leBytes 8 0x30000 ++ leBytes 1 n ++ zeros 23 ++ leBytes 4 st

/-- Queue 3 as a doorbell finds it: its descriptor, and the check values that do not match. -/
def doorState (qs : SMap Queue) (d : List (BitVec 8)) (bad : SMap (BitVec 32)) : State :=
  { (queueState queue (packet 7 5 0 0)) with mem := memOf ([(192, d)] ++ tables), pergola := { queues := qs }, bad := bad }

theorem witness_QueueEvents_doorbell :
    let m := doorState [(3, queue)] (descriptor 4 0) []
    let s := fun (n st : Nat) => doorState [] (descriptor n st) []
    m.worksFrom 3 = true ∧ State.reset.worksFrom 3 = false ∧ (mfind m.pergola.queues 3).isSome = true ∧ (m.queue 3).state = 1 ∧
    (m.readAll 64 [{ a := 192 + 24, n := 8 }]).2 = .ready ∧ ((blocked m 192).readAll 64 [{ a := 192 + 24, n := 8 }]).2 = .wait ∧
    ((doorState [(3, queue)] (descriptor 4 0) [(6, 1#32)]).readAll 64 [{ a := 192 + 24, n := 8 }]).2 = .bad 6 ∧
    (mfind (s 4 0).pergola.queues 3).isSome = false ∧ ((s 4 0).readAll 64 [{ a := 192, n := 64 }]).2 = .ready ∧
    ((blocked (s 4 0) 192).readAll 64 [{ a := 192, n := 64 }]).2 = .wait ∧
    ((doorState [] (descriptor 4 0) [(7, 1#32)]).readAll 64 [{ a := 192, n := 64 }]).2 = .bad 7 ∧ (s 4 6).word32 (192 + 32) ≠ 0#32 ∧ (s 4 0).word32 (192 + 32) = 0#32 ∧
    3 ∈ mget [] ({ (s 4 0).pergola with pendq := [(0, [3])] } : Pergola).pendq 0 ∧ 3 ∉ mget [] (s 4 0).pergola.pendq 0 ∧
    (∀ n ∈ [3, 17], fieldAt ((s n 0).bytes 192 64) 8 1 = n ∧ (n < 4 ∨ 16 < n)) ∧
    (∀ n ∈ [4, 16], ¬ (fieldAt ((s n 0).bytes 192 64) 8 1 < 4 ∨ 16 < fieldAt ((s n 0).bytes 192 64) 8 1 ∨
      fieldAt ((s n 0).bytes 192 64) 0 8 % 64 ≠ 0 ∨ 3 < fieldAt ((s n 0).bytes 192 64) 10 1 ∨
      fieldAt ((s n 0).bytes 192 64) 48 16 ≠ 0)) := by decide +kernel

theorem witness_QueueEvents_slots :
    let s := queueState queue (packet 7 5 0 0)
    let p : State := { s with
      pergola := { queues := [(3, { queue with state := 0, slot := none }), (4, { queue with prio := 1 })], pendq := [(0, [3])] }, arg := { a := 0 } }
    let full : State := { s with pergola := { queues := (List.range 128).map (fun i => (i, { queue with slot := some i })) } }
    let taken := fun (s : State) (i : Nat) => s.pergola.queues.any (fun e => e.2.die = 0 && e.2.slot = some i)
    mget [] p.pergola.pendq 0 = [] ++ 3 :: [] ∧ taken p 1 = false ∧ (∀ j < 1, taken p j = true) ∧
    (p.accessBoth { a := p.descAt 3, n := 64 }).2 = true ∧ ((blocked p 192).accessBoth { a := p.descAt 3, n := 64 }).2 = false ∧
    p.firstBad [(192 + 24, 8)] = none ∧ ({ p with bad := [(6, 1#32)] } : State).firstBad [(192 + 24, 8)] = some 6 ∧
    mget [] s.pergola.pendq 0 = [] ∧ (List.range 128).all (taken full) = true := by decide +kernel

theorem witness_QueueEvents_unmap :
    let s := queueState queue (packet 7 5 0 0)
    let e := fun (n : Nat) => ({ s with clock := n, pergola := { queues := [(3, { queue with rdx := 1 })] } } : State)
    let x := (e 65536).queue 3
    x.state = 1 ∧ x.wrx ≤ x.rdx ∧ x.runs = [] ∧ x.frames = [] ∧ (e 65536).pergola.grids = [] ∧ x.idleSince + 65536 ≤ (e 65536).clock ∧
    ((e 65536).access true { a := (e 65536).descAt 3, n := 64 }).2 = true ∧
    ((blocked (e 65536) 192).access true { a := (e 65536).descAt 3, n := 64 }).2 = false ∧
    s.queueEmpty 3 = false ∧ (e 65535).clock < ((e 65535).queue 3).idleSince + 65536 := by decide +kernel

theorem witness_QueueEvents_stop :
    let r : PRun := { id := 1, ty := 4, index := 0, addr := 0x30000#64, bytes := packet 4 0x42000 1 0 }
    let x : Queue := { queue with runs := [r, { r with id := 2 }], frames := [{ base := 0x41000#64, pos := 0, count := 1, owner := 2 }] }
    r ∈ x.runs ∧ (∀ y ∈ x.runs, y.id = r.id → decide (y.id = 2) = false ∧ ∀ f ∈ x.open_, f.owner ≠ y.id) ∧ x.open_ ≠ [] := by decide +kernel

theorem witness_QueueEvents_packets :
    let r : PRun := { id := 1, ty := 3, index := 0, addr := 0x30000#64, bytes := packet 3 0x42000 1 0, finished := true }
    let d : PRun := { r with bytes := (packet 3 0x42000 1 0).take 8 ++ leBytes 8 0x42000 ++ (packet 3 0x42000 1 0).drop 16 }
    let s := fun (r : PRun) => { queueState { queue with runs := [r] } r.bytes with arg := { a := 3, b := 1 } }
    let word : Spot := { a := 0x42000, n := 8 }
    let fence : PRun := { r with ty := 7, bytes := packet 7 5 0 0 }
    let w : State := { queueState { queue with park := some (word, 1#64) } r.bytes with arg := { a := 0 } }
    let w : State := { w with pergola := { w.pergola with signals := [3] } }
    ((s r).queue 3).runs.find? (fun y => y.id = 1) = some r ∧ (s r).packetOver 3 r = true ∧ addrAt r.bytes 8 = 0#64 ∧
    (s { r with finished := false }).packetOver 3 { r with finished := false } = false ∧
    (s d).packetOver 3 d = true ∧ addrAt d.bytes 8 ≠ 0#64 ∧ ((s d).pergAdd 3 (addrAt d.bytes 8) (addrAt d.bytes 16)).2 = .made (s d).nextId ∧
    ((blocked (s d) 0x42000).pergAdd 3 (addrAt d.bytes 8) (addrAt d.bytes 16)).2 = .wait ∧
    takeAt w.pergola.signals 0 = some (3, []) ∧ (w.queue 3).park = some (word, 1#64) ∧ (w.waitMet 64 word 1#64).2 = true ∧
    (w.waitMet 64 word 0x40000#64).2 = true ∧ (w.waitMet 64 word 0x40001#64).2 = false ∧
    fieldAt fence.bytes 24 1 = 5 ∧ (s fence).packetOver 3 fence = true := by decide +kernel

/-- Queue 3 with a grid of one crew, on a module with core 0, and a slot that another queue may hold. -/
def gridState (g : Grid) (runs : List PRun) : State :=
  let s := queueState { queue with runs := runs } (packet 7 5 0 0)
  { s with pergola := { s.pergola with grids := [(5, g)] }, cores := [(0, { online := true })], arg := { a := 0 } }

def gridOfTests : Grid := { id := 5, queue := 3, run := 1, hdr := header, karg := 0#64, snap := [] }

theorem witness_QueueEvents_offers :
    let g := gridOfTests
    let s := gridState g []
    let two : State := { s with pergola := { s.pergola with grids := [], queues := [(3, queue), (4, { queue with slot := some 1 })] } }
    let idle : State := { s with pergola := { queues := [(3, { queue with rdx := 1 })] } }
    let rank := fun (s : State) (r : Nat) => min 7 ((s.queue r).prio + (s.clock - (s.queue r).lastWin) / 65536)
    let after := fun (s : State) (r : Nat) => ((s.queue r).slot.getD 0 + 127 - mget 127 s.pergola.lastSlot 0) % 128
    (s.offering 3).isSome = true ∧ s.offerWinner 0 = some 3 ∧ s.offering 3 = some g ∧
    two.packetReady 3 = true ∧ two.packetReady 4 = true ∧ rank two 4 = rank two 3 ∧ after two 3 < after two 4 ∧
    two.offerWinner 0 = some 3 ∧ two.offering 3 = none ∧ idle.packetReady 3 = false ∧ (idle.offering 3).isSome = false ∧
    idle.offerWinner 0 = none ∧ s.offerOrder g = [] ++ 0 :: (s.offerOrder g).drop 1 ∧ (s.part 0).en = true ∧ s.worksFrom 3 = true ∧
    s.budgetOk 0 0 = true ∧ ((s.core 0).fits (hdrDemand g.hdr)).isSome = true ∧
    (let full : State := { s with cores := [(0, { online := true, crews := [(1, { crew with slots := List.range 64 })] })] }
     full.offerOrder g = [0] ∧ (full.core 0).fits (hdrDemand g.hdr) = none) := by decide +kernel

theorem witness_QueueEvents_grids :
    let g := gridOfTests
    let s := gridState
    let r : PRun := { id := 1, ty := 1, index := 0, addr := 0x30000#64, bytes := [] }
    let spent : Grid := { g with next := 1 }
    let tail : Grid := { spent with tailbuf := 0x42000#64 }
    mfind (s spent []).pergola.grids 5 = some spent ∧ (s g []).gridOver g = false ∧ (s spent []).gridOver spent = true ∧ spent.tailbuf = 0#64 ∧
    ((s tail [r]).queue 3).runs.any (fun r => r.id = tail.run) = true ∧ (s tail [r]).gridOver tail = true ∧
    ((s tail [r]).pergRead 0 tail.tailbuf 16).2 = .got (leBytes 8 0x40000 ++ leBytes 8 7) ∧ addrAt (leBytes 8 0x40000 ++ leBytes 8 7) 0 ≠ 0#64 ∧
    (((s tail [r]).dropGrid tail).launch 3 1 none 0x40000#64 7#64 tail.tailbuf (some 5)).2 = .ok ∧
    ((blocked (s tail [r]) 0x40000).pergRead 0 tail.tailbuf 16).2 = .got (leBytes 8 0x40000 ++ leBytes 8 7) ∧
    (((blocked (s tail [r]) 0x40000).dropGrid tail).launch 3 1 none 0x40000#64 7#64 tail.tailbuf (some 5)).2 = .wait ∧
    ((s tail [r]).pergRead 0 0x43000#64 16).2 = .got (zeros 16) ∧ addrAt (zeros 16) 0 = 0#64 := by decide +kernel

/-! ### Budgets, containment, host, fabric, start, management -/

theorem witness_BudgetAndContainmentEvents :
    (lodgeState (.totals 0 true [])).takeL 0 = some (.totals 0 true [], event crewState 0 0) ∧ 63 < 64 ∧ 6 < 7 ∧
    (∀ x ∈ (List.range 5).map (hottest (List.replicate 80 114)), x < 115) ∧ (∃ x ∈ (List.range 5).map (hottest (List.replicate 80 115)), 115 ≤ x) ∧
    (let s := fun (n : Nat) =>
       event { crewState with lodge := { crewState.lodge with contain := [2], reported := if n = 0 then [] else [(2, [])] } } 2 0
     2 ∈ (s 0).lodge.contain ∧ (s 0).contained 2 = false ∧ (s 1).contained 2 = true ∧ 2 ∉ crewState.lodge.contain) ∧
    (lodgeState (.contain 0 2)).takeL 0 = some (.contain 0 2, event crewState 0 0) ∧ crewState.allReported 2 = false ∧
    (let s := doorState [] (descriptor 4 0) []
     3 < 65536 ∧ mfind s.pergola.queues 3 = none ∧ s.rangeOk (s.descAt 3) 64 = true ∧ descBad (s.bytes (s.descAt 3) 64) = false ∧
     fieldAt (s.bytes (s.descAt 3) 64) 11 1 = 0) ∧
    (3, queue) ∈ (doorState [(3, queue)] (descriptor 4 0) []).pergola.queues ∧ queue.part = 0 := by decide +kernel

theorem witness_BudgetAndContainmentEvents_complete :
    let s : State := { lodge := { stage := 3, reported := [(2, [0])] }, cores := [(0, { online := true })] }
    let word : Spot := { a := containWord 2, n := 8 }
    s.allReported 2 = true ∧ (s.accessBoth word).2 = false ∧ ((holding s [word]).accessBoth word).2 = true := by decide +kernel

/-- What a containment reads: its word, and the descriptor of a queue that memory alone lists; either may have to be awaited. -/
theorem witness_BudgetAndContainmentEvents_reads :
    let word : Spot := { a := containWord 2, n := 8 }
    let s := { doorState [] (descriptor 4 0) [] with arg := { a := 2 }, dir := [], mem := memOf [(192, descriptor 4 0)] }
    let raised := { s with lodge := { s.lodge with contain := [2] } }
    raised.listedQueues = [3] ∧ 2 ∈ raised.lodge.contain ∧ raised.contained 2 = false ∧ (raised.containReads 2).2 = false ∧
    ((holding raised [word]).containReads 2).2 = false ∧
    ((holding raised [word, { a := 192, n := 64 }]).containReads 2).2 = true := by decide +kernel

theorem witness_BudgetAndContainmentEvents_upsets :
    let u := fun (o : UpsetOwner) => ({ unit := 0, cls := 2, corrected := false, owner := o } : Upset)
    (upsetState { unit := 0, cls := 2 }).upsets = [{ unit := 0, cls := 2 }] ∧ ({ unit := 0, cls := 2 } : Upset).corrected = true ∧
    (u (.crew 0)).corrected = false ∧ ((upsetState (u (.record 0x01000000#32))).record? 0x01000000#32).isSome = true ∧
    ((upsetState (u (.record 0x02000000#32))).record? 0x02000000#32).isSome = false ∧
    (match step (upsetState (u (.crew 3))) with
      | .next t => decide (t.lodge.contain = [3] ∧ t.upsets = [])
      | _ => false) = true := by decide +kernel

theorem witness_HostEvents :
    let h := fun (x : HostLink) => event { crewState with host := x } 5 0
    let grant : State := { h { asked := [(5, true)] } with arg := { a := 5, flag := true } }
    State.reset.lodge.stage < 2 ∧ 2 ≤ crewState.lodge.stage ∧ (5, false) ∈ (h { asked := [(5, false)] }).host.asked ∧
    ((5, true) ∈ grant.host.asked ∧ grant.arg.flag = true) ∧ ((5, false) ∉ (h {}).host.asked ∧ (5, true) ∉ (h {}).host.asked) ∧
    (h {}).host.victims.find? (fun v => v.1 = 5 && ! v.2.2) = none ∧
    (h { victims := [(5, [], false)] }).host.victims.find? (fun v => v.1 = 5 && ! v.2.2) = some (5, [], false) ∧
    (h { victims := [(5, [], true)] }).host.victims.find? (fun v => v.1 = 5) = some (5, [], true) ∧
    crewState.firstBad [(0x10000, 64)] = none ∧ ({ crewState with bad := [(0x801, 1#32)] } : State).firstBad [(0x10000, 64)] = some 0x801 := by
  decide +kernel

/-- A module in CXL mode, with an event that names a page or an address. -/
def cxlState (x : HostLink) (dir : SMap DirEntry) (a : Nat) : State :=
  { crewState with lodge := { stage := 3, cxl := true }, host := x, dir := dir, arg := { a := a } }

theorem witness_HostEvents_flips :
    let s := fun (x : HostLink) => cxlState x [] 0x10
    let f : Flip := { page := 0x10, toHost := true }
    (s {}).worksFrom 2 = true ∧ State.reset.worksFrom 2 = false ∧ (s {}).lodge.cxl = true ∧ crewState.lodge.cxl = false ∧ 0x10 < 2 ^ 27 ∧
    2 ^ 27 ≤ (cxlState {} [] (2 ^ 27)).arg.a ∧ 0x10 ∉ (s {}).host.hostBias ∧ (s {}).host.flips = [] ∧
    0x10 ∈ (s { hostBias := [0x10] }).host.hostBias ∧ f ∈ (s { flips := [f] }).host.flips ∧ f.page = (s { flips := [f] }).arg.a := by
  decide +kernel

theorem witness_HostEvents_bias :
    let s := cxlState
    let e : DirEntry := { st := .evicting, dirty := [halfOf 0x10000] }
    let f : Flip := { page := 0x10, toHost := true }
    let last : Flip := { f with line := 32 }
    let again := (s { flips := [last] } [(dirKey 0x10000 128, { ptrs := [0], st := .ptrs, dirty := [halfOf 0x10000] })] 0x10).releaseHeld 0x10
    let d := [(dirKey 0x10000 128, e)]
    (s {} [] 0x10000).worksFrom 2 = true ∧ biasPage (pageOf 0x10000) = true ∧ pageOf 0x10000 ∈ (s { hostBias := [0x10] } [] 0x10000).host.hostBias ∧
    pageOf 0x10000 ∉ (s {} d 0x10000).host.hostBias ∧ ((s {} d 0x10000).flipToHost 0x10).halfDirty (halfOf 0x10000) = true ∧
    ((s {} [] 0x10000).flipToHost 0x10).halfDirty (halfOf 0x10000) = false ∧
    ((s { flips := [f] } [] 0x10).releaseHeld 0x10).flipOf 0x10 = some f ∧ f.line < 32 ∧
    ((s { flips := [last] } [] 0x10).releaseHeld 0x10).flipOf 0x10 = some last ∧
    (∀ i < 64, ((s { flips := [last] } [] 0x10).releaseHeld 0x10).halfDirty (64 * 0x10 + i) = false) ∧
    again.flipOf 0x10 = some last ∧ (∃ i < 64, again.halfDirty (64 * 0x10 + i) = true) ∧
    ((s { flips := [f] } [] 0x10).releaseHeld 0x10).heldEntry (32 * 0x10) = none ∧
    ((s { flips := [f] } d 0x10).releaseHeld 0x10).heldEntry (32 * 0x10) = some (dirKey 0x10000 128, e) ∧
    e.fetching = false ∧ e.writeBack = false ∧ e.waitInv = [] ∧ e.dirty = halfOf 0x10000 :: [] ∧
    (0x400, false) ∈ (s { snoops := [(0x400, false)] } [] 0x400).host.snoops ∧ (0x400, false) ∉ (s {} [] 0x400).host.snoops := by decide +kernel

theorem witness_HostEvents_writes :
    let s := fun (a n : Nat) => ({ crewState with arg := { a := a, bytes := List.replicate n 0#8 } } : State)
    (s 0x10001 3).hostOwns (2 ^ 51) 4 = true ∧ (s 0x10001 3).hostOwns 0x10001 3 = false ∧ (s 0x10001 3).lodge.cxl = false ∧
    (s 0x10001 3).worksFrom 2 = true ∧ bar2Range 0x10001 3 = true ∧ bar2Range (0x8000000000 - 4) 4 = true ∧
    ((holding (s 0x10001 3) [{ a := 0x10000, n := 4 }]).access true { a := 0x10001, n := 4 - 0x10001 % 4 }).2 = true ∧
    ((s 0x10001 3).access true { a := 0x10001, n := 4 - 0x10001 % 4 }).2 = false ∧
    0x10020 % 32 = 0 ∧ 32 ≤ (s 0x10020 32).arg.bytes.length ∧ ¬ 32 ≤ (s 0x10020 31).arg.bytes.length ∧
    ((holding (s 0x10020 32) [{ a := 0x10020, n := 32 }]).access true { a := 0x10020, n := 32 }).2 = true ∧
    (s 0x10001 3).arg.bytes.length ≤ 4 - 0x10001 % 4 ∧ 4 - 0x10001 % 4 < (s 0x10001 4).arg.bytes.length := by decide +kernel

theorem witness_FabricEvents :
    let s := linked 0#8
    let b := blocked s 0x42000
    (s.port 0).up = true ∧ (State.reset.port 0).up = false ∧ (List.replicate 256 0#8).length = 256 ∧ s.fabricOn = true ∧ State.reset.fabricOn = false ∧
    (s.bump.windowPut linkPort s.nextId 0 [1#8]).2 = some (0, []) ∧ (b.bump.windowPut linkPort s.nextId 0 [1#8]).2 = none ∧
    (s.bump.windowGet 0 8).2 = some (0, leBytes 8 0x40000) ∧ (b.bump.windowGet 0 8).2 = none ∧
    (s.bump.windowAtomic linkPort s.nextId .update 0 0 4 1#64 0#64).2 = some (0, leBytes 4 0x40000) ∧
    (b.bump.windowAtomic linkPort s.nextId .update 0 0 4 1#64 0#64).2 = none ∧
    (s.bump.windowAtomic linkPort s.nextId .asyncWrite 0 0 6 1#64 0#64).2 = some (0, leBytes 8 0x40000) ∧
    (b.bump.windowAtomic linkPort s.nextId .asyncWrite 0 0 6 1#64 0#64).2 = none := by decide +kernel

theorem witness_FabricEvents_flits :
    let x : Port := { up := true, sendSeq := 300, sent := [(172, []), (299, [])] }
    (List.replicate 222 0#8).length = 222 ∧ (299, []) ∈ x.sent ∧ (172, []) ∈ x.sent ∧ 172 < 299 ∧ 299 ≤ 172 + 127 ∧ 127 ≤ 127 := by decide +kernel

theorem witness_FabricEvents_transmit :
    let m : RemoteOut := { port := 0, node := 1025, vl := 2, core := 0, queue := 1, bytes := [] }
    let w : RemoteOut := { m with after := 9 }
    let s := fun (xoff : BitVec 8) (out : List RemoteOut) => ({ linked xoff with
      fabric := { (linked xoff).fabric with out := out }, ops := [{ id := 1, core := linkPort, seq := 9, kind := .bytes, spans := [] }] } : State)
    (s 0#8 [w, m]).fabric.out = [w] ++ m :: [] ∧ w.after ≠ 0 ∧ (s 0#8 [w, m]).settled linkPort w.after = false ∧ m.after = 0 ∧
    ((s 0#8 [w, m]).port m.port).peerXoff.getLsbD m.vl = false ∧ (s 4#8 [m]).fabric.out = [m] ∧
    ((s 4#8 [m]).port m.port).peerXoff.getLsbD m.vl = true := by decide +kernel

/-- Ports that have an acknowledgement or a change of their buffers to tell, one that has not, and one whose peer holds lane 7 off. -/
theorem witness_FabricEvents_control :
    let s := fun (p : Port) => ({ crewState with fabric := { ports := [(0, p)] } } : State)
    let p : Port := { up := true }
    (s { p with owes := true }).control.isSome = true ∧ (s { p with xoff := 1#8 }).control.isSome = true ∧
    (s { p with replay := true }).control.isSome = true ∧ (s p).control = none ∧ (s { p with owes := true, peerXoff := 0x80#8 }).control = none ∧
    (s p).forward = none := by decide +kernel

theorem witness_StartAndRegisterEvents :
    let at_ := fun (n a : Nat) => ({ lodge := { stage := n }, arg := { a := a } } : State)
    State.reset.lodge.fail = false ∧ State.reset.lodge.stage = 0 ∧ (at_ 1 0).lodge.stage = 1 ∧ (at_ 2 4).lodge.stage = 2 ∧
    (∀ d < 4, (at_ 2 4).arg.a ≠ d ∧ (at_ 2 4).lodge.lacksSpares d = false) ∧ (∀ e < 1, (at_ 2 1).arg.a ≠ e ∧ (at_ 2 1).lodge.lacksSpares e = false) ∧
    (at_ 2 1).arg.a = 1 := by decide +kernel

theorem witness_StartAndRegisterEvents_writes :
    let s := fun (n a b : Nat) => ({ lodge := { stage := n }, arg := { a := a, b := b } } : State)
    regAccess 0x1004 8 = false ∧ regAccess 0x1008 8 = true ∧ regAccess 0x1002 4 = false ∧ (s 3 0x0FFC 4).regAt 0x0FFC = none ∧
    ((s 3 0x1008 8).regAt 0x1008).map (fun r => (r.base, r.bytes)) = some (0x1008, 8) ∧
    ((s 3 0x1008 8).regAt 0x1008).map (fun r => (s 0 0x1008 8).worksFrom r.stage) = some false ∧
    ((s 3 0x1008 8).regAt 0x1008).map (fun r => (s 3 0x1008 8).worksFrom r.stage) = some true ∧
    ((s 3 0x10018 8).regAt 0x10018).map (fun r => (r.base, r.bytes)) = some (0x10000, 32) ∧
    ((s 3 0x10010 8).regAt 0x10010).map (fun r => (r.base, r.bytes)) = some (0x10000, 32) := by decide +kernel

theorem witness_StartAndRegisterEvents_fields :
    let s : State := { lodge := { stage := 3, parts := [(1, { cmask := 1#160 })], reported := [(2, [])] } }
    let part := fun (v : Nat) => ({ cmask := BitVec.ofNat 160 (v / 2 ^ 96), power := v / 2 ^ 80 % 2 ^ 16, hbmsh := v / 2 ^ 64 % 2 ^ 9
                                    cores := v / 2 ^ 56 % 2 ^ 8, en := decide (v % 2 = 1) } : Part)
    let away := fun (i v : Nat) => decide ((List.range 64).any (fun j => j ≠ i && (mget {} s.lodge.parts j).cmask &&& (part v).cmask ≠ 0#160) ∨
      256 < (part v).hbmsh ∨ ((part v).en = true ∧ s.contained i = true))
    away 0 (2 ^ 96) = true ∧ away 0 (257 * 2 ^ 64) = true ∧ away 2 1 = true ∧ away 63 (2 ^ 97 + 256 * 2 ^ 64 + 1) = false ∧
    (let x := s.dom 0
     let covered := fun (a : Nat) => targetOf a = .hbm ∨ targetOf a = .host
     x.occ = 0 ∧ covered (64 * 0x400) ∧ ¬ covered 0x8000000000 ∧ covered (0x8000000000 - 64) ∧ (12 : Nat) % 8 ≠ 0) ∧
    (let new := fun (v : Nat) => ({ state := v / 2 ^ 50 % 4, die := v / 2 ^ 48 % 4, size := v / 2 ^ 32 % 2 ^ 13, base := v / 2 ^ 16 % 2 ^ 13 } : Region)
     (new (3 * 2 ^ 50)).state = 3 ∧ 6144 < (new (6145 * 2 ^ 32)).base + (new (6145 * 2 ^ 32)).size ∧
     (new (6144 * 2 ^ 32 + 2 ^ 50)).base + (new (6144 * 2 ^ 32 + 2 ^ 50)).size = 6144 ∧ (mget {} s.lodge.regions 1023).bcnt = 0 ∧
     (mget {} s.lodge.regions 1023).state ≠ 2 ∧ s.lodge.regions = []) := by decide +kernel

theorem witness_StartAndRegisterEvents_requests :
    let report := leBytes 4 1 ++ List.replicate 68 0#8
    let handed := leBytes 4 2 ++ List.replicate 4 0#8 ++ leBytes 8 0x10000 ++ leBytes 4 64
    let s := fun (bs : List (BitVec 8)) (hoip : Bool) => ({ lodge := { stage := 3, requests := [(false, bs)], hoip := hoip } } : State)
    let image : Spot := { a := 0x10000, n := 64 }
    (s report false).lodge.requests = (false, report) :: [] ∧ requestOp report = 1 ∧ 72 ≤ report.length ∧
    requestOp (leBytes 4 7) ≠ 1 ∧ requestOp (leBytes 4 7) ≠ 2 ∧ requestOp handed = 2 ∧ 20 ≤ handed.length ∧
    leNat ((handed.drop 8).take 8) + leNat ((handed.drop 16).take 4) ≤ 0x8000000000 ∧ (s handed true).lodge.hoip = true ∧
    (s handed false).worksFrom 2 = true ∧ 0 < leNat ((handed.drop 16).take 4) ∧ ((s handed false).readAll 64 [image]).2 = .wait ∧
    ((holding (s handed false) [image]).readAll 64 [image]).2 = .ready ∧
    ((holding { s handed false with bad := [(0x800, 1#32)] } [image]).readAll 64 [image]).2 = .bad 0x800 ∧
    ({ s handed false with lodge := { (s handed false).lodge with stage := 1 } } : State).worksFrom 2 = false ∧ requestOp (leBytes 4 2) = 2 ∧ (leBytes 4 2).length < 20 ∧
    bar2Range 0x10000 8 = true := by decide +kernel

theorem witness_StartAndRegisterEvents_busy :
    let object := leBytes 2 0x1E57 ++ leBytes 2 0x01 ++ leBytes 4 3 ++ leBytes 4 1
    let s := fun (bs : List (BitVec 8)) (doe : Bool) =>
      ({ lodge := { stage := 3, engine := some (doe, 0, []) }, arg := { flag := true, bytes := bs } } : State)
    (s object true).arg.flag = true ∧ (s object true).lodge.engine.isSome = true ∧ leNat (object.take 2) = 0x1E57 ∧
    leNat ((object.drop 2).take 1) = 0x01 ∧ leNat ((leBytes 4 1).take 2) ≠ 0x1E57 ∧
    (s object true).lodge.engine = some (true, 0, []) ∧ (s object false).lodge.engine = some (false, 0, []) := by decide +kernel

theorem witness_StartAndRegisterEvents_reads :
    let s := fun (n a b : Nat) (flag : Bool) => ({ lodge := { stage := n }, arg := { a := a, b := b, flag := flag } } : State)
    (s 3 0x1004 8 true).arg.flag = true ∧ regAccess 0x1004 8 = false ∧ regAccess 0x0FFC 4 = true ∧ (s 3 0x0FFC 4 true).regAt 0x0FFC = none ∧
    regAccess 0x1008 8 = true ∧ ((s 3 0x1008 8 true).regAt 0x1008).map (fun r => (r.wo, (s 3 0x1008 8 true).worksFrom r.stage)) = some (false, true) ∧
    ((s 0 0x1008 8 true).regAt 0x1008).map (fun r => (s 0 0x1008 8 true).worksFrom r.stage) = some false ∧
    ((s 3 0x1000 8 true).regAt 0x1000).map (fun r => r.wo) = some true ∧
    (s 1 0x10000 64 false).worksFrom 2 = false ∧ (s 2 0x10000 64 false).worksFrom 2 = true ∧ bar2Range 0x10000 64 = true ∧
    ((holding (s 2 0x10000 64 false) [{ a := 0x10000, n := 64 }]).access false { a := 0x10000, n := 64 }).2 = true ∧
    ((s 2 0x10000 64 false).access false { a := 0x10000, n := 64 }).2 = false := by
  decide +kernel

theorem witness_ManagementRings :
    let s := fun (op : Nat) (bad : Bool) (r : Ring) =>
      event { lodge := { stage := 3, rings := [(1, r)], asks := [1] }
              mem := mputs 0#8 (mputs 0#8 [] [(ringEntry 1 0, BitVec.ofNat 8 op)]) [(requestWord 1, 1#8)]
              cores := [(1, { online := true })]
              bad := if bad then [(ringEntry 1 0 / 32, 1#32)] else [] } 1 0
    let entry : Spot := { a := ringEntry 1 0, n := 32 }
    let word : Spot := { a := requestWord 1, n := 8 }
    let heard : State := { s 1 false {} with lodge := { stage := 3 } }
    let due := fun (s : State) => s.ringDue (mfrom s.mem (requestWord 0)) 1
    (∀ op ∈ [1, 2, 3, 4, 5, 6, 0], (mget {} (s op false {}).lodge.rings 1).after = none ∧ (s op false {}).lodge.asks.head? = some 1 ∧
      leNat (((s op false {}).bytes (ringEntry 1 0) 32).take 4) = op ∧ ((s op false {}).readAll 64 [entry]).2 = .wait ∧
      ((holding (s op false {}) [entry]).readAll 64 [entry]).2 = .ready) ∧
    ((holding (s 1 true {}) [entry]).readAll 64 [entry]).2 = .bad (ringEntry 1 0 / 32) ∧ (s 1 false { after := some 9 }).settled lodgePort 9 = true ∧
    ({ s 1 false { after := some 9 } with ops := [{ id := 1, core := lodgePort, seq := 9, kind := .bytes, spans := [] }] } : State).settled
      lodgePort 9 = false ∧
    msorted (s 1 false {}).cores = true ∧ due (s 1 false {}) = 1 ∧ (mget {} (s 1 false { stopped := true }).lodge.rings 1).stopped = true ∧
    leNat (mrange 0#8 (mfrom (s 1 false {}).mem (requestWord 0)) (requestWord 1) 8) = 1 ∧
    (s 1 false {}).rangeOk (requestWord 1) 8 = true ∧ due (s 1 false { served := 1 }) = 0 ∧
    (s 1 false {}).asksNow = (s 1 false {}).lodge.asks ∧
    heard.asksNow = [1] ∧ heard.lodge.asks = [] ∧ ((holding heard [word]).readAll 64 [word]).2 = .ready ∧
    (heard.readAll 64 [word]).2 = .wait ∧ (heard.readAll 64 [word]).1.dir ≠ heard.dir := by decide +kernel

end Sys2Proof.Tests
end

