-- ==== Sys2Proof/Tests/Slice0.lean ====
section
/-! SUPPORT. Decoding, ill-formed terms, and single instructions. The words are written out from the encodings of R76 to R80 and
the opcode map, or are those of the worked programs; expected results are worked out by hand from the rules that each
comment names. -/

namespace Sys2Proof.Tests

open Sys2Proof.Machine

set_option Elab.async false

/-! ### Words (R76 to R81): D is v3, A is v1, B is g2, other fields 5, 6, 7 -/

/-- Each word stands for the instruction beside it. -/
def reads (ps : List (BitVec 32 × Instr)) : Bool :=
  ps.all (fun p => match decode [p.1] with
    | .ok x => decide (x = (p.2, 1))
    | .error _ => false)

/-- The same with the literal behind the word. -/
def readsLit (ps : List (BitVec 32 × BitVec 32 × Instr)) : Bool :=
  ps.all (fun p => match decode [p.1, p.2.1] with
    | .ok x => decide (x = (p.2.2, 2))
    | .error _ => false)

theorem test_decode_control : reads [
    (0x00123456#32, .nop 0x123456#24), (0x01000100#32, .setm (.vec 1)), (0x02030000#32, .getm (.vec 3)),
    (0x03123456#32, .bra 0x123456#24), (0x04000100#32, .brx (.vec 1)), (0x05058004#32, .brp 0x5#8 0x8004#16),
    (0x06000000#32, .meet), (0x07038004#32, .call (.vec 3) 0x8004#16), (0x08030100#32, .callx (.vec 3) (.vec 1)),
    (0x09000100#32, .ret (.vec 1)), (0x0A000000#32, .exit), (0x0B000000#32, .done), (0x0C000000#32, .yield),
    (0x0D123456#32, .regroup 0x123456#24), (0x0E030000#32, .getexm (.vec 3)), (0x0F000100#32, .setexm (.vec 1)),
    (0x10000007#32, .trap 0x7#8), (0x11000007#32, .bkpt 0x7#8), (0x12030600#32, .rdsr (.vec 3) 0x6#8),
    (0x13050100#32, .wrsr 0x5#8 (.vec 1))] = true := by decide +kernel

theorem test_decode_integer : reads [
    (0x140301C2#32, .iadd (.vec 3) (.vec 1) (.uni 2)), (0x150301C2#32, .isub (.vec 3) (.vec 1) (.uni 2)),
    (0x160301C2#32, .iaddc (.vec 3) (.vec 1) (.uni 2)), (0x170301C2#32, .isubb (.vec 3) (.vec 1) (.uni 2)),
    (0x180301C2#32, .imul (.vec 3) (.vec 1) (.uni 2)), (0x190301C2#32, .imulh (.vec 3) (.vec 1) (.uni 2)),
    (0x1A0301C2#32, .imad (.vec 3) (.vec 1) (.uni 2)), (0x1B0301C2#32, .imin (.vec 3) (.vec 1) (.uni 2)),
    (0x1C0301C2#32, .imax (.vec 3) (.vec 1) (.uni 2)), (0x1D030100#32, .iabs (.vec 3) (.vec 1)),
    (0x1E030100#32, .ineg (.vec 3) (.vec 1)), (0x200301C2#32, .and (.vec 3) (.vec 1) (.uni 2)),
    (0x210301C2#32, .or (.vec 3) (.vec 1) (.uni 2)), (0x220301C2#32, .xor (.vec 3) (.vec 1) (.uni 2)),
    (0x23030100#32, .not (.vec 3) (.vec 1)), (0x240301C2#32, .andn (.vec 3) (.vec 1) (.uni 2)),
    (0x250301C2#32, .shl (.vec 3) (.vec 1) (.uni 2)), (0x260301C2#32, .shr (.vec 3) (.vec 1) (.uni 2)),
    (0x270301C2#32, .sar (.vec 3) (.vec 1) (.uni 2)), (0x280301C2#32, .rotl (.vec 3) (.vec 1) (.uni 2)),
    (0x29030100#32, .popc (.vec 3) (.vec 1)), (0x2A030100#32, .clz (.vec 3) (.vec 1)), (0x2B030100#32, .brev (.vec 3) (.vec 1)),
    (0x2C0301C2#32, .bfx (.vec 3) (.vec 1) (.uni 2)), (0x2D0301C2#32, .bfi (.vec 3) (.vec 1) (.uni 2)),
    (0x2E0301C2#32, .lea (.vec 3) (.vec 1) (.uni 2)), (0x2F0301C2#32, .lea64 (.vec 3) (.vec 1) (.uni 2))] = true := by decide +kernel

theorem test_decode_move_compare : reads [
    (0x30030100#32, .mov (.vec 3) (.vec 1)), (0x31030100#32, .movl (.vec 3) (.vec 1)),
    (0x320301C2#32, .sel (.vec 3) (.vec 1) (.uni 2)), (0x33030107#32, .cvti (.vec 3) (.vec 1) 0x7#8),
    (0x340501C2#32, .icmpeq 0x5#8 (.vec 1) (.uni 2)), (0x350501C2#32, .icmpne 0x5#8 (.vec 1) (.uni 2)),
    (0x360501C2#32, .icmplt 0x5#8 (.vec 1) (.uni 2)), (0x370501C2#32, .icmple 0x5#8 (.vec 1) (.uni 2)),
    (0x380501C2#32, .icmpltn 0x5#8 (.vec 1) (.uni 2)), (0x390501C2#32, .icmplen 0x5#8 (.vec 1) (.uni 2)),
    (0x3A0501C2#32, .fcmpeq 0x5#8 (.vec 1) (.uni 2)), (0x3B0501C2#32, .fcmpne 0x5#8 (.vec 1) (.uni 2)),
    (0x3C0501C2#32, .fcmplt 0x5#8 (.vec 1) (.uni 2)), (0x3D0501C2#32, .fcmple 0x5#8 (.vec 1) (.uni 2)),
    (0x3E0501C2#32, .fcmpun 0x5#8 (.vec 1) (.uni 2)), (0x3F0501C2#32, .fcmpord 0x5#8 (.vec 1) (.uni 2))] = true := by decide +kernel

theorem test_decode_predicate_lane : reads [
    (0x40050607#32, .pand 0x5#8 0x6#8 0x7#8), (0x41050607#32, .por 0x5#8 0x6#8 0x7#8), (0x42050607#32, .pxor 0x5#8 0x6#8 0x7#8),
    (0x43050600#32, .pnot 0x5#8 0x6#8), (0x44050600#32, .pmov 0x5#8 0x6#8), (0x45030600#32, .ptov (.vec 3) 0x6#8),
    (0x46050100#32, .vtop 0x5#8 (.vec 1)), (0x48050600#32, .voteall 0x5#8 0x6#8), (0x49050600#32, .voteany 0x5#8 0x6#8),
    (0x4A030600#32, .votebal (.vec 3) 0x6#8), (0x4C0301C2#32, .shfl (.vec 3) (.vec 1) (.uni 2)),
    (0x4D0301C2#32, .shflup (.vec 3) (.vec 1) (.uni 2)), (0x4E0301C2#32, .shfldn (.vec 3) (.vec 1) (.uni 2)),
    (0x4F0301C2#32, .shflx (.vec 3) (.vec 1) (.uni 2)), (0x500301C2#32, .bcast (.vec 3) (.vec 1) (.uni 2)),
    (0x510301C2#32, .movvg (.vec 3) (.vec 1) (.uni 2)), (0x520301C2#32, .movgv (.vec 3) (.vec 1) (.uni 2))] = true := by decide +kernel

theorem test_decode_reduction : reads [
    (0x54030100#32, .gredadd (.vec 3) (.vec 1)), (0x55030100#32, .gredmin (.vec 3) (.vec 1)),
    (0x56030100#32, .gredmax (.vec 3) (.vec 1)), (0x57030107#32, .gscanadd (.vec 3) (.vec 1) 0x7#8),
    (0x580301C2#32, .gcntgt (.vec 3) (.vec 1) (.uni 2)), (0x590301C2#32, .gsumgt (.vec 3) (.vec 1) (.uni 2)),
    (0x5A030100#32, .gmaxred (.vec 3) (.vec 1)), (0x5C030000#32, .rng (.vec 3)), (0x5D030000#32, .rngf (.vec 3)),
    (0x5E030107#32, .gmask (.vec 3) (.vec 1) 0x7#8)] = true := by decide +kernel

theorem test_decode_float : reads [
    (0x600301C2#32, .fadd (.vec 3) (.vec 1) (.uni 2)), (0x610301C2#32, .fsub (.vec 3) (.vec 1) (.uni 2)),
    (0x620301C2#32, .fmul (.vec 3) (.vec 1) (.uni 2)), (0x630301C2#32, .ffma (.vec 3) (.vec 1) (.uni 2)),
    (0x640301C2#32, .ffms (.vec 3) (.vec 1) (.uni 2)), (0x650301C2#32, .fmin (.vec 3) (.vec 1) (.uni 2)),
    (0x660301C2#32, .fmax (.vec 3) (.vec 1) (.uni 2)), (0x67030100#32, .fabs (.vec 3) (.vec 1)),
    (0x68030100#32, .fneg (.vec 3) (.vec 1)), (0x69030100#32, .fclass (.vec 3) (.vec 1)),
    (0x6A0301C2#32, .fscale (.vec 3) (.vec 1) (.uni 2)), (0x6B030100#32, .ffract (.vec 3) (.vec 1)),
    (0x6C030100#32, .ffloor (.vec 3) (.vec 1)), (0x6D030100#32, .fround (.vec 3) (.vec 1)),
    (0x70030100#32, .frcp (.vec 3) (.vec 1)), (0x71030100#32, .frsq (.vec 3) (.vec 1)), (0x72030100#32, .fsqrt (.vec 3) (.vec 1)),
    (0x73030100#32, .fexp2 (.vec 3) (.vec 1)), (0x74030100#32, .flog2 (.vec 3) (.vec 1)), (0x75030100#32, .fsin (.vec 3) (.vec 1)),
    (0x76030100#32, .fcos (.vec 3) (.vec 1)), (0x77030100#32, .ftanh (.vec 3) (.vec 1)),
    (0x78030107#32, .cvtf (.vec 3) (.vec 1) 0x7#8), (0x79030107#32, .cvtfi (.vec 3) (.vec 1) 0x7#8),
    (0x7A030107#32, .cvtif (.vec 3) (.vec 1) 0x7#8), (0x7B0301C2#32, .pack (.vec 3) (.vec 1) (.uni 2)),
    (0x7C030107#32, .unpack (.vec 3) (.vec 1) 0x7#8), (0x800301C2#32, .hadd2 (.vec 3) (.vec 1) (.uni 2)),
    (0x810301C2#32, .hmul2 (.vec 3) (.vec 1) (.uni 2)), (0x820301C2#32, .hfma2 (.vec 3) (.vec 1) (.uni 2)),
    (0x830301C2#32, .fdot2 (.vec 3) (.vec 1) (.uni 2)), (0x840301C2#32, .fdot4 (.vec 3) (.vec 1) (.uni 2))] = true := by decide +kernel

theorem test_decode_memory : reads [
    (0x900301C2#32, .ld (.vec 3) (.vec 1) (.uni 2)), (0x910301C2#32, .st (.vec 3) (.vec 1) (.uni 2)),
    (0x920306C2#32, .lda (.vec 3) 0x6#8 (.uni 2)), (0x930306C2#32, .stl (.vec 3) 0x6#8 (.uni 2)),
    (0x940301C2#32, .ldr (.vec 3) (.vec 1) (.uni 2)), (0x950501C2#32, .stc 0x5#8 (.vec 1) (.uni 2)),
    (0x960301C2#32, .ldg (.vec 3) (.vec 1) (.uni 2)), (0x980301C2#32, .lds (.vec 3) (.vec 1) (.uni 2)),
    (0x990301C2#32, .sts (.vec 3) (.vec 1) (.uni 2)), (0x9A030107#32, .ldw (.vec 3) (.vec 1) 0x7#8),
    (0x9B030100#32, .ldrow (.vec 3) (.vec 1)), (0x9C000107#32, .pref (.vec 1) 0x7#8), (0x9D000100#32, .cctlEvictL1 (.vec 1)),
    (0x9D000101#32, .cctlWriteBack (.vec 1)), (0x9E000600#32, .fence 0x6#8)] = true := by decide +kernel

theorem test_decode_atomic : reads [
    (0xA00301C2#32, .atadd (.vec 3) (.vec 1) (.uni 2)), (0xA10301C2#32, .atmin (.vec 3) (.vec 1) (.uni 2)),
    (0xA20301C2#32, .atmax (.vec 3) (.vec 1) (.uni 2)), (0xA30301C2#32, .atand (.vec 3) (.vec 1) (.uni 2)),
    (0xA40301C2#32, .ator (.vec 3) (.vec 1) (.uni 2)), (0xA50301C2#32, .atxor (.vec 3) (.vec 1) (.uni 2)),
    (0xA60301C2#32, .atxch (.vec 3) (.vec 1) (.uni 2)), (0xA70301C2#32, .atcas (.vec 3) (.vec 1) (.uni 2)),
    (0xA80001C2#32, .redadd (.vec 1) (.uni 2)), (0xA90001C2#32, .redmin (.vec 1) (.uni 2)),
    (0xAA0001C2#32, .redmax (.vec 1) (.uni 2)), (0xAB0001C2#32, .redand (.vec 1) (.uni 2)),
    (0xAC0001C2#32, .redor (.vec 1) (.uni 2)), (0xAD0001C2#32, .redxor (.vec 1) (.uni 2)),
    (0xAE030107#32, .vradd (.vec 3) (.vec 1) 0x7#8), (0xAF030107#32, .vrmax (.vec 3) (.vec 1) 0x7#8)] = true := by decide +kernel

theorem test_decode_queue : reads [
    (0xB0050607#32, .acpy 0x5#8 0x6#8 0x7#8), (0xB1050607#32, .acpys 0x5#8 0x6#8 0x7#8),
    (0xB20506C2#32, .agath 0x5#8 0x6#8 (.uni 2)), (0xB30506C2#32, .ascat 0x5#8 0x6#8 (.uni 2)),
    (0xB4050607#32, .rput 0x5#8 0x6#8 0x7#8), (0xB5050607#32, .rget 0x5#8 0x6#8 0x7#8), (0xB6050607#32, .ratom 0x5#8 0x6#8 0x7#8),
    (0xB7050600#32, .aqfence 0x5#8 0x6#8), (0xB8050100#32, .waitc 0x5#8 (.vec 1)), (0xB9050607#32, .wsig 0x5#8 0x6#8 0x7#8),
    (0xBA050607#32, .sigadd 0x5#8 0x6#8 0x7#8), (0xBB0501C2#32, .sigwait 0x5#8 (.vec 1) (.uni 2))] = true := by decide +kernel

theorem test_decode_tile : reads [
    (0xC0050100#32, .tset 0x5#8 (.vec 1)), (0xC1030600#32, .tget (.vec 3) 0x6#8), (0xC20306C2#32, .tldsc (.vec 3) 0x6#8 (.uni 2)),
    (0xC30306C2#32, .tstsc (.vec 3) 0x6#8 (.uni 2)), (0xC40506C2#32, .mma 0x5#8 0x6#8 (.uni 2)),
    (0xC50506C2#32, .mma2 0x5#8 0x6#8 (.uni 2)), (0xC60506C2#32, .mmat 0x5#8 0x6#8 (.uni 2)), (0xC7050600#32, .ttrans 0x5#8 0x6#8),
    (0xC80506C2#32, .tperm 0x5#8 0x6#8 (.uni 2)), (0xC9050607#32, .trsum 0x5#8 0x6#8 0x7#8), (0xCA050007#32, .aclr 0x5#8 0x7#8),
    (0xCB050607#32, .ald 0x5#8 0x6#8 0x7#8), (0xCC050607#32, .ast 0x5#8 0x6#8 0x7#8), (0xCD0306C2#32, .ard (.vec 3) 0x6#8 (.uni 2)),
    (0xCE0501C2#32, .awr 0x5#8 (.vec 1) (.uni 2)), (0xCF050607#32, .adrain 0x5#8 0x6#8 0x7#8),
    (0xD0050107#32, .acqa 0x5#8 (.vec 1) 0x7#8), (0xD1050007#32, .rela 0x5#8 0x7#8)] = true := by decide +kernel

theorem test_decode_trellis : reads [
    (0xD8030107#32, .sxopen (.vec 3) (.vec 1) 0x7#8), (0xD90501C2#32, .sxappend 0x5#8 (.vec 1) (.uni 2)),
    (0xDA0301C2#32, .sxmatch (.vec 3) (.vec 1) (.uni 2)), (0xDB030007#32, .sxstat (.vec 3) 0x7#8),
    (0xDC000100#32, .sxsave (.vec 1)), (0xDD030100#32, .sxload (.vec 3) (.vec 1)), (0xDE000007#32, .sxclose 0x7#8),
    (0xDF030100#32, .sxdepth (.vec 3) (.vec 1))] = true := by decide +kernel

theorem test_decode_reader_barrier : reads [
    (0xE0000000#32, .rsenter), (0xE1000000#32, .rsleave), (0xE2030100#32, .publish (.vec 3) (.vec 1)),
    (0xE3030600#32, .retire (.vec 3) 0x6#8), (0xE4000100#32, .gpwait (.vec 1)), (0xE5030007#32, .gpstat (.vec 3) 0x7#8),
    (0xE8000007#32, .bararr 0x7#8), (0xE9000007#32, .barwait 0x7#8), (0xEA000007#32, .barsync 0x7#8),
    (0xEB000107#32, .pbarr (.vec 1) 0x7#8), (0xEC0001C2#32, .pbwait (.vec 1) (.uni 2)), (0xED050607#32, .evroute 0x5#8 0x6#8 0x7#8),
    (0xEE000007#32, .evpost 0x7#8), (0xEF000007#32, .evwait 0x7#8)] = true := by decide +kernel

theorem test_decode_privileged : reads [
    (0xF0000100#32, .eret (.vec 1)), (0xF1000107#32, .tlbinv (.vec 1) 0x7#8), (0xF20301C2#32, .ctxst (.vec 3) (.vec 1) (.uni 2)),
    (0xF3030100#32, .ctxld (.vec 3) (.vec 1)), (0xF4000000#32, .haltcWaitTrapLine), (0xF4000001#32, .haltcHaltCrews),
    (0xF4000002#32, .haltcResumeCrews), (0xF5000100#32, .slotcfgResume (.vec 1)), (0xF5000101#32, .slotcfgSkipResume (.vec 1)),
    (0xF5000102#32, .slotcfgKill (.vec 1)), (0xF5000103#32, .slotcfgRingBase (.vec 1)),
    (0xF5000104#32, .slotcfgTrapVector (.vec 1)), (0xF5000105#32, .slotcfgStopCrew (.vec 1))] = true := by decide +kernel

/-- Words of the worked programs, beside their assembly text there. -/
theorem test_decode_worked_programs : reads [
    (0x05030001#32, .brp 3#8 1#16), (0x03000004#32, .bra 4#24), (0x30020100#32, .mov (.vec 2) (.vec 1)),
    (0x12C80D00#32, .rdsr (.uni 8) 13#8), (0x96CAC8FC#32, .ldg (.uni 10) (.uni 8) .zero), (0xB800FC00#32, .waitc 0#8 .zero),
    (0x2F04CA02#32, .lea64 (.vec 4) (.uni 10) (.vec 2)), (0x900104FC#32, .ld (.vec 1) (.vec 4) .zero),
    (0x3704FC01#32, .icmple 4#8 .zero (.vec 1)), (0x4AD00400#32, .votebal (.uni 16) 4#8), (0x29D1D000#32, .popc (.uni 17) (.uni 16)),
    (0x0D000002#32, .regroup 2#24), (0x18030101#32, .imul (.vec 3) (.vec 1) (.vec 1)), (0x910304FC#32, .st (.vec 3) (.vec 4) .zero),
    (0xC000C800#32, .tset 0#8 (.uni 8)), (0xCF000208#32, .adrain 0#8 2#8 8#8), (0xB900CE00#32, .wsig 0#8 0xCE#8 0#8),
    (0x07E80005#32, .call (.uni 40) 5#16), (0x0900E800#32, .ret (.uni 40)), (0x9E000500#32, .fence 5#8),
    (0x600B0B0C#32, .fadd (.vec 11) (.vec 11) (.vec 12)), (0x9D00CA00#32, .cctlEvictL1 (.uni 10)), (0xBA00D200#32, .sigadd 0#8 0xD2#8 0#8)] = true := by
  decide +kernel

theorem test_decode_worked_literals : readsLit [
    (0x360300FF#32, 0x10#32, .icmplt 3#8 (.vec 0) (.lit 0x10#32)), (0x0100FF00#32, 0x600#32, .setm (.lit 0x600#32)),
    (0x3603FF01#32, 0x3F#32, .icmplt 3#8 (.lit 0x3F#32) (.vec 1)), (0x91FD04FF#32, 4#32, .st .lane (.vec 4) (.lit 4#32)),
    (0xC40000FF#32, 0x0D797000#32, .mma 0#8 0#8 (.lit 0x0D797000#32)), (0xBB05D8FF#32, 1#32, .sigwait 5#8 (.uni 24) (.lit 1#32)),
    (0xA800DAFF#32, 1#32, .redadd (.uni 26) (.lit 1#32)), (0x900B08FF#32, 0xFFFFFFFC#32, .ld (.vec 11) (.vec 8) (.lit 0xFFFFFFFC#32)),
    (0x630B0AFF#32, 0xC0C00000#32, .ffma (.vec 11) (.vec 10) (.lit 0xC0C00000#32))] = true := by decide +kernel

/-- R80 and R81: unassigned codes, and fixed fields that are broken, take no literal of their own. -/
theorem test_decode_illegal : reads [
    (0x1F0000FF#32, .illegalInstruction 0x1F0000FF#32), (0xF6000000#32, .illegalInstruction 0xF6000000#32),
    (0xE1000100#32, .illegalOperand 0xE1000100#32 []), (0xF4000003#32, .illegalOperand 0xF4000003#32 [])] = true := by decide +kernel

/-- Where the words end before the literal, nothing decodes. -/
theorem test_decode_short : (decode []).isOk = false ∧ (decode [0x0100FF00#32]).isOk = false := by decide +kernel

/-! ### Terms that no words encode -/

theorem test_ill_formed_registers :
    (Instr.iadd (.vec 192) .zero .zero).wf = false ∧ (Instr.iadd (.uni 60) .zero .zero).wf = false ∧ (Instr.iadd (.bad 0xFC) .zero .zero).wf = false ∧
    (Instr.iadd (.bad 0x100) .zero .zero).wf = false ∧ (Instr.iadd .none (.vec 192) .zero).wf = false ∧
    (Instr.iadd .none .zero (.uni 60)).wf = false ∧ (Instr.st (.vec 1) (.uni 4) (.vec 192)).wf = false := by decide +kernel

theorem test_ill_formed_illegal :
    (Instr.illegalInstruction 0x14030102#32).wf = false ∧ (Instr.illegalOperand 0xE0000000#32 []).wf = false ∧
    (Instr.illegalOperand 0xE1000100#32 [1#32]).wf = false := by decide +kernel

theorem test_well_formed_edges :
    (Instr.iadd (.vec 191) (.uni 59) (.lit 1#32)).wf = true ∧ (Instr.iadd (.bad 0xFD) .zero .lane).wf = true ∧
    (Instr.illegalInstruction 0x1F000000#32).wf = true := by decide +kernel

/-! ### Instructions -/

/-- The gang after an instruction, with every result landed. -/
def after (s : State) (i : Instr) : Gang :=
  match exec i s with
  | .next t => ((t.gang? 0 s.cur.slot).getD {}).landAll
  | _ => {}

/-- The state after an instruction. -/
def left (s : State) (i : Instr) : State :=
  match exec i s with
  | .next t => t
  | _ => s

/-- The causes of the trap records that wait for the ring of core 0. -/
def causes (s : State) : List Nat := (s.core 0).trapQ.map (·.cause)

def int32 : State := stateOf (typed 4)

/-- R104: 5 + 3, and 0xFFFFFFFF + 1 wraps to 0. -/
theorem test_iadd : (after int32 (.iadd (.vec 3) (.vec 1) (.vec 2))).v 3 0 = 8#32 ∧
    (after int32 (.iadd (.vec 3) (.vec 1) (.vec 2))).v 3 1 = 0#32 := by decide +kernel

/-- R101: a source that is also the destination is read before it is written: 5 + 5, and 1 - 0xFFFFFFFF. -/
theorem test_iadd_source_is_destination :
    (after int32 (.iadd (.vec 1) (.vec 1) (.vec 1))).v 1 0 = 10#32 ∧ (after int32 (.isub (.vec 1) (.vec 2) (.vec 1))).v 1 1 = 2#32 := by
  decide +kernel

/-- R105: the carry out of 0xFFFFFFFF + 1 stands in p95, that of 5 + 3 does not. -/
theorem test_iaddc : (after int32 (.iaddc (.vec 3) (.vec 1) (.vec 2))).pred 95 1 = true ∧
    (after int32 (.iaddc (.vec 3) (.vec 1) (.vec 2))).pred 95 0 = false := by decide +kernel

/-- R104: the high half of -1 times 1 is -1. -/
theorem test_imulh : (after int32 (.imulh (.vec 3) (.vec 1) (.vec 2))).v 3 1 = 0xFFFFFFFF#32 := by decide +kernel

/-- R106: a count of 32 leaves nothing of SHL and SHR, and the sign of SAR. -/
theorem test_shift_by_width : (after int32 (.shl (.vec 3) (.vec 1) (.lit 32#32))).v 3 1 = 0#32 ∧
    (after int32 (.shr (.vec 3) (.vec 1) (.lit 32#32))).v 3 1 = 0#32 ∧
    (after int32 (.sar (.vec 3) (.vec 1) (.lit 32#32))).v 3 1 = 0xFFFFFFFF#32 := by decide +kernel

/-- R106: 5 has two ones; the first one of 5 stands behind 29 zeros. -/
theorem test_bit_counts : (after int32 (.popc (.vec 3) (.vec 1))).v 3 0 = 2#32 ∧ (after int32 (.clz (.vec 3) (.vec 1))).v 3 0 = 29#32 := by
  decide +kernel

/-- R110: as signed numbers, -1 < 1 and not 5 < 3. -/
theorem test_icmplt : (after int32 (.icmplt 3#8 (.vec 1) (.vec 2))).pred 3 1 = true ∧
    (after int32 (.icmplt 3#8 (.vec 1) (.vec 2))).pred 3 0 = false := by decide +kernel

/-- R23: a write to p0 is discarded. -/
theorem test_p0 : (after int32 (.icmplt 0#8 (.vec 2) (.vec 1))).pred 0 1 = true := by decide +kernel

/-- R137: 1 + 1 = 2 in FP32 (0x3F800000 is 1, 0x40000000 is 2). -/
theorem test_fadd : (after crewState (.fadd (.vec 3) (.lit 0x3F800000#32) (.lit 0x3F800000#32))).v 3 0 = 0x40000000#32 := by decide +kernel

/-- R139 and R50: FNEG turns the sign of 1, and gives the canonical NaN for a NaN. -/
theorem test_fneg : (after crewState (.fneg (.vec 3) (.lit 0x3F800000#32))).v 3 0 = 0xBF800000#32 ∧
    (after crewState (.fneg (.vec 3) (.lit 0xFFC00001#32))).v 3 1 = 0x7FC00000#32 := by decide +kernel

/-- Two lanes differ in v1, so VOTEALL of p0 is true and VOTEBAL of it counts both. -/
theorem test_vote : (after crewState (.voteall 2#8 0#8)).pred 2 1 = true ∧ (after crewState (.votebal (.uni 8) 0#8)).u 8 = 3#32 := by
  decide +kernel

/-- R161: ST sends each lane's four bytes, low byte first, to the address in g4 and g5. -/
theorem test_st : ((left crewState (.st (.vec 1) (.uni 4) .zero)).ops.map (fun o => o.spans.map (fun x => (x.addr, x.data)))) =
    [[(0x10000, [5#8, 0#8, 0#8, 0#8])], [(0x10000, [0xFF#8, 0xFF#8, 0xFF#8, 0xFF#8])]] := by decide +kernel

/-- R158: an FP32 store at an odd address traps with cause 0x12, and nothing is sent. -/
theorem test_st_misaligned : causes (left crewState (.st (.vec 1) (.uni 4) (.lit 1#32))) = [0x12] ∧
    (left crewState (.st (.vec 1) (.uni 4) (.lit 1#32))).ops = [] := by decide +kernel

/-- R163, R164: STS writes the crew's scratchpad, lane 1 over lane 0. -/
theorem test_sts : ((left crewState (.sts (.vec 1) (.lit 64#32) .zero)).crew 0 1).spadBytes 64 4 = [0xFF#8, 0xFF#8, 0xFF#8, 0xFF#8] := by
  decide +kernel

/-- R170, R171: an integer add at the home wraps, and memory that reads as zero again is not listed. -/
theorem test_home_add :
    let s : State := { mem := [(0x10000, 0xFF#8), (0x10001, 0xFF#8), (0x10002, 0xFF#8), (0x10003, 0xFF#8)] }
    (s.applyOp { id := 1, core := 0, kind := .atomic 0 4 0#64, spans := [{ addr := 0x10000, data := [1#8, 0#8, 0#8, 0#8] }] }).mem = [] := by
  decide +kernel

/-- R133: TRAP 7 stops the gang with cause 0x40 and INFO 7. -/
theorem test_trap : causes (left crewState (.trap 7#8)) = [0x40] ∧ ((left crewState (.trap 7#8)).core 0).trapQ.map (·.info) = [7] ∧
    ((left crewState (.trap 7#8)).gang? 0 0).map (·.stopped) = some true := by decide +kernel

/-- R82: a crew gang may not halt the crews of its core; the privileged slot may. -/
theorem test_privilege : causes (left crewState .haltcHaltCrews) = [0x05] ∧ (left crewState .haltcHaltCrews |>.core 0).halted = false ∧
    ((left privState .haltcHaltCrews).core 0).halted = true := by decide +kernel

/-- R232: a trap in the privileged slot goes on at the trap vector in the handler state. -/
theorem test_privileged_trap :
    let s := privState.modCore 0 (fun x => { x with trapVec := 9 })
    ((left s (.trap 1#8)).gang? 0 64).map (·.block) = some 9 ∧ ((left s (.trap 1#8)).core 0).handler = true := by decide +kernel

/-- R113: ETYPE 14 is no type, so SETM traps with cause 0x02; ETYPE 4 is int32. -/
theorem test_setm : causes (left crewState (.setm (.lit 0xE00#32))) = [0x02] ∧ (after crewState (.setm (.lit 0x400#32))).mode = 0x400#32 := by
  decide +kernel

/-- R227: an arrival of two lanes at a barrier that expects two completes it: its count starts again and its phase turns. -/
theorem test_bararr : mfind ((left crewState (.bararr 1#8)).crew 0 1).bars 1 = some { cnt := 0, exp := 2, ph := true } := by decide +kernel

/-- R220: RSENTER of two lanes takes two holds of the domain in the leaf. -/
theorem test_rsenter : ((left crewState .rsenter).core 0).leafs = [(0, { cnt0 := 2, quiet := true })] := by decide +kernel

/-- R190: TSET keeps the four words of a legal descriptor. -/
theorem test_tset :
    let g : Gang := { gang with uregs := [(8, 1#32), (9, 2#32), (10, 32#32), (11, BitVec.ofNat 32 (1 * 2 ^ 29 + 12 * 2 ^ 24 + 4 * 2 ^ 12 + 8))] }
    (after (stateOf g) (.tset 0#8 (.uni 8))).t 0 = tensor 1 0 12 4 8 32 0x200000001 := by decide +kernel

end Sys2Proof.Tests
end

