-- ==== Sys2Proof/Tests/Examples.lean ====
section
/-! SUPPORT. Worked examples of the manual: the expected values are the ones it prints beside the rules named here. -/

namespace Sys2Proof.Tests

open Sys2Proof.Machine

/-- The MODE of a literal, after SETM. -/
def setMode (w : BitVec 32) : BitVec 32 := (after crewState (.setm (.lit w))).mode

/-- R32: #mode(bf16, sr, sat, guard=p3, neg) is 0x0000DA83: ETYPE 10, RND 5, SAT, guard p3, negated. -/
theorem example_setm : let g : Gang := { gang with mode := setMode 0xDA83#32 }
    g.etype = 10 ∧ g.rnd = 5 ∧ g.sat = true ∧ g.mode.toNat % 64 = 3 ∧ g.mode.getLsbD 7 = true := by decide +kernel

/-- R63, R64: byte 0x4C under S = 0x7A, re[3] = +2 and ce[17] = -3 is 6·2^-6, and the transposed record gives the same. -/
theorem example_scaled_decode :
    (roundToFP32 (decodeScaled 7 0x4C (0x7A + 2 * 2 ^ 17 + 5 * 2 ^ 155) 3 17 true).1 0).1 = 0x3DC00000 ∧
    (roundToFP32 (decodeScaled 7 0x4C (0x7A + 5 * 2 ^ 59 + 2 * 2 ^ 113) 17 3 true).1 0).1 = 0x3DC00000 := by decide +kernel

/-- R65: the largest magnitude 100 gives s = -2; the rows' 100 and 3 give 0 and -4, the columns' 100 and 12 give 0 and -3. -/
theorem example_quantise_scales :
    smallestScale 448 (fmtFP32.value 0x42C80000).units = -2 ∧
    [0x42C80000, 0x40400000, 0, 0x41400000].map (fun x => fitScale 448 (fmtFP32.value x).units (-2)) = [0, -4, -4, -3] := by
  decide +kernel

/-- R65: 100, 0.5, 3 and -0.75 under E = -2, -5, -6 and -9 are 0x7C (a tie to even), 0x58, 0x74 and 0xFC; the first is inexact. -/
theorem example_quantise_elements :
    let q := fun (x : Nat) (e : Int) => convertTo 7 ((fmtFP32.value x).shift (-e)) (.mode 0) true
    [(q 0x42C80000 (-2)).1, (q 0x3F000000 (-5)).1, (q 0x40400000 (-6)).1, (q 0xBF400000 (-9)).1] = [0x7C, 0x58, 0x74, 0xFC] ∧
    [(q 0x42C80000 (-2)).2, (q 0x3F000000 (-5)).2, (q 0x40400000 (-6)).2, (q 0xBF400000 (-9)).2] = [flagNX, 0, 0, 0] := by
  decide +kernel

/-- Blocks of K products of one value accumulated over 1.0. -/
def accDepth (rnd depth : Nat) (p : FVal) : Option Nat :=
  ((List.range (32 / depth)).foldl (fun (a : Option Nat × Flags) _ => accBlock rnd a.1 (List.replicate depth (p, false)))
    (some 0x3F800000, 0)).1

/-- R66, R69: 32 products of 2^-25 add 2^-20 in one block or in two; products of 2^-28 add 2^-23 in one block, and are lost
in two. -/
theorem example_block_depth :
    accDepth 0 32 (.fin false 1 (-25) false) = some 0x3F800008 ∧ accDepth 1 16 (.fin false 1 (-25) false) = some 0x3F800008 ∧
    accDepth 0 32 (.fin false 1 (-28) false) = some 0x3F800001 ∧ accDepth 1 16 (.fin false 1 (-28) false) = some 0x3F800000 := by
  decide +kernel

/-- The gang of the cross-lane example. -/
def crossGang : Gang :=
  { gang with
    lanes := [(0, { st := .run }), (1, { st := .run }), (2, { st := .run }), (3, { st := .run }), (4, { st := .held }),
      (5, { st := .gone }), (6, { st := .empty }), (7, { st := .wait })]
    vregs := [(33, 10#32), (34, 20#32), (35, 30#32), (36, 40#32), (37, 55#32), (39, 70#32), (68, 9#32)] }

/-- R102, R130: SHFLX v2, v1, #4 gives lanes 0 to 3 the values 40, 55, 0 and 70, and leaves lane 4. -/
theorem example_shflx :
    let g := after (stateOf crossGang) (.shflx (.vec 2) (.vec 1) (.lit 4#32))
    [0, 1, 2, 3, 4].map (g.v 2) = [40#32, 55#32, 0#32, 70#32, 9#32] := by decide +kernel

/-- R146: PACK v6, v0, v2 under FP8E4. -/
def packed (mode : Nat) : BitVec 32 :=
  let g : Gang := { gang with
    mode := BitVec.ofNat 32 mode
    vregs := [(0, 0x3F800000#32), (32, 0xBF400000#32), (64, 0x43FA0000#32), (96, 0x7FC00000#32)] }
  (after (stateOf g) (.pack (.vec 6) (.vec 0) (.vec 2))).v 6 0

/-- R146, R53: 1.0, -0.75, 500 and a NaN pack to 0x7F7FB438, and to 0x7F7EB438 where results saturate. -/
theorem example_pack : packed 0x700 = 0x7F7FB438#32 ∧ packed 0x8700 = 0x7F7EB438#32 := by decide +kernel

/-- The scores of the pivot example. -/
def scores : List (BitVec 32) :=
  [0x40800000#32, 0x40000000#32, 0x40A00000#32, 0x3F000000#32, 0x40400000#32, 0x40C00000#32, 0x3F800000#32, 0x40E00000#32,
   0x40200000#32, 0x40400000#32, 0x41100000#32, 0xBF800000#32]

/-- A gang of 32 lanes with the scores in v8 and the mask word in g4, and then masked. -/
def pivotGang : Gang :=
  { gang with
    lanes := allLanes.map (fun i => (i, { st := .run }))
    vregs := scores.mapIdx (fun i x => (256 + i, x)), uregs := [(4, 0xA5A#32)] }

def masked : Gang := after (stateOf pivotGang) (.gmask (.vec 8) (.uni 4) 5#8)

/-- An instruction of the example after GMASK has landed. -/
def pivot (i : Instr) : Gang := after (stateOf { masked with pend := [] }) i

/-- R152: the six allowed tokens keep their scores, and p5 marks them. -/
theorem example_gmask : allLanes.filter (masked.pred 5) = [1, 3, 4, 6, 9, 11] ∧
    [0, 1, 2, 3, 10, 12].map (masked.v 8) =
      [0xFF800000#32, 0x40000000#32, 0xFF800000#32, 0x3F000000#32, 0xFF800000#32, 0xFF800000#32] := by decide +kernel

/-- R151: the largest is 3.0 in token 4; three pass 1.5 and sum to 8.0; six pass minus infinity. -/
theorem example_pivot :
    let m := pivot (.gmaxred (.vec 10) (.vec 8))
    m.v 10 31 = 0x40400000#32 ∧ m.v 11 31 = 4#32 ∧ (pivot (.gcntgt (.vec 12) (.vec 8) (.lit 0x3FC00000#32))).v 12 0 = 3#32 ∧
    (pivot (.gsumgt (.vec 13) (.vec 8) (.lit 0x3FC00000#32))).v 13 0 = 0x41000000#32 ∧
    (pivot (.gcntgt (.vec 14) (.vec 8) (.lit 0xFF800000#32))).v 14 0 = 6#32 := by decide +kernel

/-- The record of the Trellis example: 5, 9, 2, 7, 5, 9, 2. -/
def trellisExample : TRec :=
  ([5, 9, 2, 7, 5, 9, 2].foldl (fun (r : TRec × Nat) t => ((r.1.append (BitVec.ofNat 32 t) (BitVec.ofNat 32 r.2)).2, r.2 + 1))
    ({ gen := 0, part := 0, cap := 64, minl := 2, seed := 0#64, dtab := 0#32 }, 0)).1

/-- R215: the match has length 3 and drafts 7, 5, 9. -/
theorem example_sxmatch : trellisExample.findMatch 3 = (3, 3, [7#32, 5#32, 9#32]) := by decide +kernel

/-- R214: 7 and 5 join as positions 7 and 8; the replay succeeds and changes nothing; a 4 at position 8 fails. -/
theorem example_sxappend :
    let r := ((trellisExample.append 7#32 7#32).2.append 5#32 8#32).2
    r.n = 9 ∧ r.append 7#32 7#32 = (true, r) ∧ r.append 5#32 8#32 = (true, r) ∧ r.append 4#32 8#32 = (false, r) := by
  decide +kernel

/-- R273: the granule of DPA 0x0123456400 is homed at slice 3 of die 0. -/
theorem example_home : homeOf 0x0123456400 = (0, 3) ∧ homeOf 0x0123456600 = (0, 3) := by decide +kernel

/-- The latest totals of partition 3 in the budget example, with so many HBM transfers. -/
def budgetState (hbm : Nat) : State :=
  { power := { latest := [(0, [(48, 40000), (49, hbm), (53, 1000000), (54, 60000000), (55, 40)])] }
    lodge := { parts := [(3, { power := 900, hbmsh := 64, cores := 40, en := true })] } }

/-- R320, R321: the energy is 1,626,240,000 pJ; 400,000 transfers refuse the offer and 380,000 admit it. -/
theorem example_budget : (budgetState 400000).energy 0 3 = 1626240000 ∧ (budgetState 400000).powerSum 3 = 30898560000 ∧
    (budgetState 400000).budgetOk 3 50 = false ∧ (budgetState 380000).budgetOk 3 50 = true := by decide +kernel

/-- R346: the offsets of Program 1 saved with one half-filled bin; four registers are live. -/
theorem example_area_offsets : (AreaShape.mk [16, 16, 16, 16, 16] 0 1 4 0 0 0).offsets =
    [256, 10496, 20736, 20736, 20800, 24960, 24960, 24960] ∧ (AreaShape.mk [16, 16, 16, 16, 16] 0 1 4 0 0 0).size = 24960 := by
  decide +kernel

end Sys2Proof.Tests
end

