-- ==== Sys2Proof/Tests/Instructions.lean ====
section
/-! SUPPORT. States and operands that meet the hypotheses of the statements about steps and instructions, one theorem or more for
each statement, named after it. -/

namespace Sys2Proof.Tests

set_option Elab.async false

open Sys2Proof.Machine

/-! ### Steps, decoding, what every step keeps -/

/-- A turn that issues from a slot does so from some state, with some gangs ready. -/
def issuesFrom (k : Nat) : Turn → Bool
  | .issues _ j _ => decide (j = k)
  | _ => false

theorem issues {t : Turn} {k : Nat} (h : issuesFrom k t = true) : ∃ u r, t = .issues u k r := by
  cases t with
  | issues u j r => exact ⟨u, r, congrArg (Turn.issues u · r) (of_decide_eq_true h)⟩
  | idle => exact Bool.noConfusion h
  | passes _ => exact Bool.noConfusion h

/-- The words of a block from a slot on decode to an instruction of so many words; the block opens with F = 0, and no stall code
stands on a literal of the instruction. -/
def opens (code : List (BitVec 32)) (slot : Nat) (i : Instr) (len : Nat) : Bool :=
  ! (code.headD 0).getLsbD 31 && decide ((decode (code.drop slot)).toOption = some (i, len)) &&
    (List.range (len - 1)).all (fun j => stallOf (code.headD 0) (slot + 1 + j) = 0)

def Turn.state : Turn → Option State
  | .issues u _ _ => some u
  | _ => none

/-- The gang of slot k, whose scheduler n has its turn, issues an instruction. -/
def issuesAs (s : State) (n k : Nat) (i : Instr) (len : Nat) : Bool :=
  (Turn.state (s.turnOf (n / 4) (n % 4))).any (fun u =>
    let v : State := { u with turn := n + 1 }
    (v.gang? (n / 4) k).any (fun g => (v.block (n / 4) k g.block).toOption.any (fun code => opens code g.slot i len)))

/-- The state of a step that opens an event turn. -/
def turned (s : State) : State := { s with clock := s.clock + 1, turnEv := true }

/-- The test gang about to issue MOVL v3, #7, which takes two words. -/
def placedLit : State := State.reset.withFetchWord 64 (0x3103FF00 + 7 * 2 ^ 32)

theorem witness_StepRunsDecodedInstruction :
    placed.turnEv = false ∧ placed.upsets = [] ∧ placed.agenda = [] ∧ (turned placed).schedulers = [] ++ 0 :: [1, 2, 3] ∧
    (∃ u r, (turned placed).turnOf 0 0 = .issues u 0 r) ∧ issuesAs (turned placed) 0 0 (.iadd (.vec 3) (.vec 1) (.vec 2)) 1 = true ∧
    (turned placedLit).schedulers = [] ++ 0 :: [1, 2, 3] ∧ issuesAs (turned placedLit) 0 0 (.movl (.vec 3) (.lit 7#32)) 2 = true :=
  ⟨by decide, by decide, by decide, by decide, issues (by decide +kernel), by decide +kernel, by decide +kernel, by decide +kernel⟩

/-- Schedulers whose turn goes by with nothing to do come before the one that issues. -/
theorem witness_StepRunsDecodedInstruction_idle :
    let s : State := { placed with turn := 1 }
    (turned s).schedulers = [1, 2, 3] ++ 0 :: [] ∧ (∀ m ∈ [1, 2, 3], (turned s).turnOf (m / 4) (m % 4) = .idle) := by
  decide +kernel

theorem witness_StepRunsDecodedInstruction_agenda :
    let s : State := { crewState with agenda := [(.gangReady, { b := 1 }), (.iabs .none .zero, {})] }
    s.turnEv = false ∧ s.upsets = [] ∧ encode .gangReady = [] ∧ encode (.iabs .none .zero) ≠ [] := by decide

/-- A core with an instruction of a crew gang and one of the privileged slot to issue; last: the privileged slot issued last. -/
def bothState (last : Bool) : State :=
  (placed.withFetchWord 32 0xF1000000).modCore 0 (fun x => { x with privLast := last })

theorem witness_SchedulersTakeGangsInTurn_both :
    (∀ l, (bothState l).privReady 0 = true ∧ (bothState l).readySlots 0 0 = [0] ∧ ((bothState l).core 0).privLast = l) ∧
    (∃ u r, (bothState true).turnOf 0 0 = .issues u 0 r) ∧ (∃ u r, (bothState false).turnOf 0 0 = .issues u 64 r) := by
  and_intros <;> first
    | decide +kernel
    | exact issues (by decide +kernel)

theorem witness_SchedulersTakeGangsInTurn :
    (∃ u r, placed.turnOf 0 0 = .issues u 0 r) ∧ placed.readySlots 0 0 = [0] ∧ placed.privReady 0 = false ∧
    (∃ u r, (State.reset.withFetchWord 32 0xF1000000).turnOf 0 0 = .issues u 64 r) ∧
    (State.reset.withFetchWord 32 0xF1000000).privReady 0 = true ∧
    (State.reset.withFetchWord 32 0xF1000000).readySlots 0 0 = [] ∧ placed.readySlots 0 1 = [] ∧ placed.turnOf 0 1 = .idle := by
  and_intros <;> first
    | decide +kernel
    | exact issues (by decide +kernel)

theorem witness_DecodeOfEncode :
    (Instr.iadd (.uni 3) (.lit 7#32) (.vec 1)).wf = true ∧ encode (.iadd (.uni 3) (.lit 7#32) (.vec 1)) ≠ [] := by decide

theorem witness_EncodeOfDecode : decode [0x14C3FF01#32, 7#32, 0#32] = .ok (.iadd (.uni 3) (.lit 7#32) (.vec 1), 2) := rfl

theorem witness_UnassignedAndPrivilegedWords :
    crewState.issuing = some now ∧ crewState.gang? crewState.cur.core crewState.cur.slot = some gang ∧ crewState.cur.slot ≠ privSlot ∧
    crewState.seesHeads now { ok := true } = true ∧ (0x1F000000#32).extractLsb' 24 8 = 0x1F#8 ∧ (0xF4000000#32).extractLsb' 24 8 = 0xF4#8 ∧
    (decode [0xF4000000#32]).isOk = true := by decide +kernel

theorem crewState_inv : crewState.Inv := by
  refine ⟨?_, ?_⟩ <;> decide

theorem witness_StepKeepsInv : crewState.Inv ∧ ∃ t, step crewState = .next t := ⟨crewState_inv, goes (by decide +kernel)⟩

theorem gang_ordered : gang.Ordered := by
  constructor <;> first | decide | exact .nil

theorem witness_StepKeepsOrder : State.reset.Ordered ∧ ∃ t, step State.reset = .next t := by
  refine ⟨⟨?_, ?_, ?_⟩, goes (by decide +kernel)⟩ <;> intros <;> simp_all [State.reset]

theorem witness_StartNeverGoesBack :
    let s : State := { crewState with lodge := { stage := 1, fail := true } }
    s.lodge.fail = true ∧ ∃ t, step s = .next t := ⟨rfl, goes (by decide +kernel)⟩

theorem witness_StepsAlwaysGoOn :
    crewState.issuing = some now ∧ encode (.iadd .none .zero .zero) ≠ [] ∧ State.reset.issuing = none := by decide +kernel

/-! ### Memory, registers, traps, flow -/

/-- A sector of the tests' page fails its check. -/
def badState : State := { crewState with bad := [(0x800, 1#32)] }

theorem witness_HomeWritesReadBack :
    Memory.wf crewState.mem = true ∧ mcanon 0 crewState.stamps = true ∧
    (crewState.homeWrite 160 1 0x10000 [1#8, 2#8]).2 = true ∧ (badState.homeWrite 160 1 0x10000 [1#8, 2#8]).2 = false ∧
    (badState.homeWrite 160 1 0x10000 (List.replicate 32 7#8)).2 = true := by decide +kernel

/-- An operation of a kind on four bytes of the tests' page. -/
def opOf (k : OpKind) : MemOp := { id := 9, core := 0, slot := 0, kind := k, spans := [{ addr := 0x10000, data := [1#8, 2#8, 3#8, 4#8] }] }

theorem witness_OperationsAtTheirHome :
    (∀ k ∈ [OpKind.store, .bytes, .publish 1, .read [0], .block false [0], .cctl 0, .row false, .row true, .stc] ++
        (List.range 8).flatMap (fun op => [OpKind.atomic op 4 7#64, .atomic op 12 7#64]),
      crewState.siblings (opOf k) = [opOf k] ∧ (opOf k).lost = false ∧
      (opOf k).spans = [{ addr := 0x10000, data := [1#8, 2#8, 3#8, 4#8] }] ∧ crewState.rangeOk 0x10000 4 = true) ∧
    (let o := { opOf .stc with expect := some ((crewState.stamped 0x10000 4).map Prod.snd) }
     o.expect = some ((crewState.stamped 0x10000 4).map Prod.snd) ∧ (opOf .stc).expect ≠ some ((crewState.stamped 0x10000 4).map Prod.snd)) ∧
    (let o := { opOf (.row false) with spans := [{ addr := 0x10000, data := [1#8, 2#8, 3#8, 4#8], mask := [true, true, false, false] }] }
     crewState.siblings o = [o] ∧ 2 * 0 + 1 < 4) ∧ ({ opOf .store with lost := true } : MemOp).lost = true := by decide +kernel

/-- A lane that holds a reservation on the four bytes writes the first two of them, with a store conditional of it in flight. -/
def ownState : State :=
  let r : Resv := { pa := 0x10000, z := 4, stamps := [0, 0, 5, 0] }
  { stateOf { gang with lanes := [(0, { st := .run, resv := some r }), (1, { st := .run })] } with
    ops := [{ opOf .stc with id := 8, seq := 1, expect := some [0, 0, 5, 0] }], stamps := [(0x10002, 5)] }

theorem witness_OperationsAtTheirHome_own :
    let o : MemOp := { opOf .store with seq := 2, spans := [{ addr := 0x10000, data := [1#8, 2#8] }] }
    Memory.wf ownState.mem = true ∧ mcanon 0 ownState.stamps = true ∧ o.lost = false ∧ ownState.siblings o = [o] ∧
    ownState.rangeOk 0x10000 2 = true ∧ (ownState.gang? 0 0).isSome = true ∧ o.lane < 32 ∧
    (∃ x ∈ o.writes ownState, x.1 = 0x10000) ∧ mget 0 ownState.stamps 0x10000 = 0 ∧ (∀ x ∈ o.writes ownState, x.1 ≠ 0x10002) ∧
    (∃ p ∈ ownState.ops, p.kind = .stc ∧ p.core = 0 ∧ p.slot = 0 ∧ p.applied = false ∧ p.id ≠ o.id ∧
      p.expect = some [0, 0, 5, 0]) := by decide +kernel

theorem witness_CrewSlotsWriteNothingAtIssue :
    crewState.Inv ∧ encode (.st (.vec 1) (.uni 4) .zero) ≠ [] ∧ crewState.cur.slot ≠ privSlot ∧
    ∃ t, exec (.st (.vec 1) (.uni 4) .zero) crewState = .next t :=
  ⟨crewState_inv, by decide, by decide, goes (by decide +kernel)⟩

/-- A store to a Glasshouse bank arrives there. -/
theorem witness_CrewSlotsWriteNothingAtIssue_glass :
    let o : MemOp := { id := 9, core := 0, slot := 0, kind := .store, slice := 256, spans := [{ addr := 2 ^ 39, data := [1#8, 2#8, 3#8, 4#8] }] }
    let m : Msg := { kind := .store, core := 0, slice := 256, unit := 2 ^ 39, usize := 128, op := 9 }
    let s : State := { crewState with ops := [o], net := [m] }
    s.deliver s.arg.a [.store] = some (m, { s with net := [] }) ∧ s.ops.find? (fun p => p.id = m.op) = some o ∧
    (∀ x ∈ o.spans, targetOf x.addr = .glass) ∧ targetOf (2 ^ 39) = .glass ∧
    ([{ lane := 0, dpa := 2 ^ 39, tlb := page 0 }, { lane := 1, dpa := 2 ^ 39 + 2, tlb := page 0 }] : List Ref)[1]? =
      some { lane := 1, dpa := 2 ^ 39 + 2, tlb := page 0 } := by decide +kernel

/-- A gang with an earlier result on its way to v3. -/
def busyGang : Gang := { gang with pend := [{ land := 3, seq := 0, loc := .v 3 0, val := 9#128 }] }

theorem busyGang_ordered : busyGang.Ordered := by
  constructor <;> first | decide | simp [busyGang]

theorem witness_RegisterInstructionFrame :
    (stateOf busyGang).issuing = some busyGang.begin ∧ busyGang.begin.pend ≠ [] := by decide +kernel

theorem witness_ResultsLand :
    let w : Loc × BitVec 128 := (.v 3 0, 7#128)
    (∀ z ∈ [(Loc.v 3 1, 1#128)], ∀ y l, z.1 = .v y l → 32 * y + l ≠ 32 * 3 + 0) ∧ w.1 = .v 3 0 ∧
    (∀ z ∈ [(Loc.v 3 1, 1#128)], z.1 ≠ .g 5) ∧ (∀ z ∈ [(Loc.v 3 1, 1#128)], z.1 ≠ .t 2) ∧
    (∀ z ∈ [(Loc.v 3 1, 1#128)], z.1 ≠ .p 1 31) := by
  simp

theorem witness_PredicateZero :
    predOk 2#8 = true ∧ crewState.canIssue now
      { ok := predOk 0#8 && predOk 2#8 && predOk 2#8, reads := [predReg 2#8, predReg 2#8], writes := [predReg 0#8], lat := some 4 } = true := by
  decide +kernel

theorem witness_TrapsOfCrewGangs :
    crewState.cur.slot ≠ privSlot ∧ crewState.gang? crewState.cur.core crewState.cur.slot = some gang ∧
    (let s := crewState.modCore 0 (fun x => { x with slots := x.slots ++ [(1, { gang with slot := 2 })] })
     s.gang? 0 0 = some gang ∧ s.gang? 0 1 = some { gang with slot := 2 }) ∧
    ({ cause := 0x10 } : Trap).cause = 0x10 ∧ ({ cause := 0x02 } : Trap).cause ≠ 0x10 := by decide +kernel

/-- The privileged slot in its handler. -/
def handlerState : State := privState.modCore 0 (fun x => { x with handler := true })

theorem privGang_ordered : privGang.Ordered := by
  constructor <;> first | decide +kernel | exact .nil

theorem witness_TrapsOfThePrivilegedSlot :
    privState.cur.slot = privSlot ∧ privState.gang? privState.cur.core privSlot = some privGang ∧ (privState.core 0).handler = false ∧
    handlerState.cur.slot = privSlot ∧ handlerState.gang? handlerState.cur.core privSlot = some privGang ∧
    (handlerState.core 0).handler = true ∧ handlerState.lodge.hoip = false ∧
    (handlerState.access true { a := 0x7FFFFC1000, n := 32 }).2 = false ∧
    ((holding handlerState [{ a := 0x7FFFFC1000, n := 32 }]).access true { a := 0x7FFFFC1000, n := 32 }).2 = true ∧
    Memory.wf handlerState.mem = true ∧ mcanon 0 handlerState.stamps = true ∧
    (∃ e ∈ (handlerState.core 0).crews, e.1 ≠ 0 ∧ e.2.part < 64) := by decide +kernel

/-- The gang of the tests in the last slot of block 2, before block 3, which is a frontier block. -/
def lastGang : Gang := { gang with block := 2, slot := 15 }

/-- The same with a third lane that waits at block 1. -/
def splitGang : Gang := { lastGang with lanes := lastGang.lanes ++ [(2, { st := .wait, fblock := 1 })] }

theorem witness_SequentialFlow :
    let b := lastGang.block + 1
    let r := fun (g : Gang) => (g.park (fun _ => b)).frontier g.block g.exm (g.lanesIn .wait) false
    (stateOf gang).gang? 0 0 = some gang ∧ gang.slot + 2 ≤ 15 ∧ { gang with slot := 14 }.slot + 1 ≤ 15 ∧
    (stateOf lastGang).gang? 0 0 = some lastGang ∧ 15 < lastGang.slot + 1 ∧ (stateOf lastGang).isFrontier 0 0 b = true ∧
    (r lastGang).2 = .to b 1 false ∧ (stateOf { lastGang with block := 1 }).isFrontier 0 0 2 = false ∧
    (stateOf splitGang).gang? 0 0 = some splitGang ∧ (stateOf splitGang).isFrontier 0 0 b = true ∧ (r splitGang).2 = .to 1 1 true ∧
    (stateOf { lastGang with block := 2 ^ 24 - 1 }).isFrontier 0 0 (2 ^ 24) = false := by
  decide +kernel

theorem witness_FrontierStepPicksTheLowestBlock :
    splitGang.resume = none ∧ splitGang.fc < 4096 ∧ splitGang.lanesIn .wait ≠ [] ∧
    msorted splitGang.lanes = true ∧ msorted splitGang.vregs = true ∧ splitGang.pend = [] := by decide +kernel

/-! ### Register instructions, modes, flow -/

theorem witness_IntegerResults :
    mayAs 4 (fun g => regSig g (.vec 3) g.wide [(.vec 1, g.wide), (.vec 2, g.wide)] [] 4) = true ∧
    mayAs 4 (fun g => regSig g (.vec 3) g.wide [(.vec 1, g.wide), (.vec 2, g.wide)] (dstRegs g.wide (.vec 3)) 4) = true ∧
    mayAs 4 (fun g => regSig g (.vec 3) g.wide [(.vec 1, g.wide), (.zero, g.wide)] [] 4) = true ∧
    mayAs 4 (fun g => { regSig g (.vec 3) g.wide [(.vec 1, g.wide), (.vec 2, g.wide)] [512 + 95] 4 with
      writes := (512 + 95) :: dstRegs g.wide (.vec 3) }) = true := by decide

theorem witness_LogicAndShiftResults :
    mayAs 3 (fun g => regSig g (.vec 3) g.wide [(.vec 1, g.wide), (.zero, g.wide)] [] 4) = true ∧
    mayAs 3 (fun g => regSig g (.vec 3) g.wide [(.vec 1, g.wide), (.zero, false)] [] 4) = true ∧
    mayAs 6 (fun g => regSig g (.vec 6) g.wide [(.vec 2, g.wide), (.uni 4, false)] [] 4) = true ∧
    mayAs 3 (fun g => regSig g (.vec 3) g.wide [(.vec 1, g.wide), (.vec 2, false)] (dstRegs g.wide (.vec 3)) 4) = true := by decide

theorem witness_MoveResults :
    may (fun g => regSig g (.vec 3) false [(.vec 1, false), (.vec 2, false)] [] 4) = true ∧
    may (fun g => regSig g (.vec 4) true [(.uni 4, true), (.vec 2, false)] [] 4) = true ∧
    may (fun g => regSig g (.vec 3) false [(.vec 1, false)] [] 4) = true ∧
    may (fun g => regSig g (.vec 4) true [(.uni 4, true)] [] 4) = true ∧
    may (fun g => regSig g (.vec 3) false [(.vec 1, false), (.vec 2, false)] [512 + 94] 4) = true ∧
    mayAs 4 (fun g => { regSig g (.vec 3) (g.etype = 6) [(.vec 1, (2#8).toNat = 6)] [] 6 with
      ok := (regSig g (.vec 3) (g.etype = 6) [(.vec 1, (2#8).toNat = 6)] [] 6).ok && (2#8).toNat ≤ 6 && g.etype ≤ 6 }) = true ∧
    may (fun g => { regSig g (.vec 3) false [(.vec 1, false), (.vec 2, false)] [] 6 with
      ok := (regSig g (.vec 3) false [(.vec 1, false), (.vec 2, false)] [] 6).ok && dstVec (.vec 3) }) = true ∧
    may (fun g => { regSig g (.vec 3) false [(.vec 1, false), (.uni 4, false)] [] 6 with
      ok := (regSig g (.vec 3) false [(.vec 1, false), (.uni 4, false)] [] 6).ok && dstVec (.vec 3) && uniOnly (.uni 4) }) = true ∧
    may (fun g => { ok := g.dstOk (.uni 3) && dstUni (.uni 3) && g.srcOk (.vec 1) && g.srcOk (.uni 4) && uniOnly (.uni 4)
                    reads := srcRegs false (.vec 1) ++ srcRegs false (.uni 4), writes := dstRegs false (.uni 3), lat := some 6 }) = true ∧
    may (fun g => { regSig g (.vec 3) false [(.uni 4, false), (.uni 5, false)] [] 6 with
      ok := (regSig g (.vec 3) false [(.uni 4, false), (.uni 5, false)] [] 6).ok && dstVec (.vec 3) && uniOnly (.uni 4) &&
        uniOnly (.uni 5) }) = true := by decide

theorem witness_CompareAndPredicateResults :
    mayAs 4 (fun g => predSig g 1#8 [(.vec 1, g.wide), (.vec 2, g.wide)] 4) = true ∧
    may (fun g => { predSig g 1#8 [(.vec 1, false), (.vec 2, false)] 4 with
      ok := (predSig g 1#8 [(.vec 1, false), (.vec 2, false)] 4).ok && fcmpType g.etype }) = true ∧
    may (fun _ => { ok := predOk 1#8 && predOk 2#8 && predOk 3#8, reads := [predReg 2#8, predReg 3#8], writes := [predReg 1#8], lat := some 4 }) = true ∧
    may (fun _ => { ok := predOk 0#8 && predOk 2#8 && predOk 2#8, reads := [predReg 2#8, predReg 2#8], writes := [predReg 0#8], lat := some 4 }) = true ∧
    may (fun g => { ok := g.dstOk (.vec 3) && dstVec (.vec 3) && predOk 2#8, reads := [predReg 2#8], writes := dstRegs false (.vec 3), lat := some 4 }) = true ∧
    may (fun g => predSig g 1#8 [(.vec 1, false)] 4) = true ∧
    may (fun _ => { ok := predOk 1#8 && predOk 2#8, reads := [predReg 2#8], writes := [predReg 1#8], lat := some 6 }) = true ∧
    may (fun g => { ok := g.dstOk (.uni 3) && predOk 2#8, reads := [predReg 2#8], writes := dstRegs false (.uni 3), lat := some 6 }) = true := by
  decide

theorem witness_FloatResults :
    may (fun g => { regSig g (.vec 3) false [(.vec 1, false), (.vec 2, false)] [] 4 with
      ok := (regSig g (.vec 3) false [(.vec 1, false), (.vec 2, false)] [] 4).ok && floatType g.etype }) = true ∧
    may (fun g => { regSig g (.vec 3) false [(.vec 1, false), (.vec 2, false)] (dstRegs false (.vec 3)) 4 with
      ok := (regSig g (.vec 3) false [(.vec 1, false), (.vec 2, false)] (dstRegs false (.vec 3)) 4).ok && floatType g.etype }) = true ∧
    may (fun g => { regSig g (.vec 3) false [(.vec 1, false)] [] 4 with
      ok := (regSig g (.vec 3) false [(.vec 1, false)] [] 4).ok && floatType g.etype }) = true ∧
    may (fun g => { regSig g (.vec 3) false [(.vec 1, false)] [] 14 with
      ok := (regSig g (.vec 3) false [(.vec 1, false)] [] 14).ok && floatType g.etype }) = true ∧
    may (fun g => { regSig g (.vec 3) false [(.vec 1, false)] [] 18 with
      ok := (regSig g (.vec 3) false [(.vec 1, false)] [] 18).ok && floatType g.etype }) = true ∧
    mayAs 11 (fun g => { regSig g (.vec 3) false [(.vec 1, false), (.vec 2, false)] [] 4 with
      ok := (regSig g (.vec 3) false [(.vec 1, false), (.vec 2, false)] [] 4).ok && (g.etype = 10 || g.etype = 11) }) = true ∧
    mayAs 10 (fun g => { regSig g (.vec 3) false [(.vec 1, false), (.vec 2, false)] (dstRegs false (.vec 3)) 4 with
      ok := (regSig g (.vec 3) false [(.vec 1, false), (.vec 2, false)] (dstRegs false (.vec 3)) 4).ok && (g.etype = 10 || g.etype = 11) }) = true ∧
    mayAs 0 (fun g => { regSig g (.vec 3) false [(.vec 1, false), (.vec 2, false)] (dstRegs false (.vec 3)) 6 with
      ok := (regSig g (.vec 3) false [(.vec 1, false), (.vec 2, false)] (dstRegs false (.vec 3)) 6).ok &&
        (g.etype ≤ 1 || g.etype = 7 || g.etype = 8 || g.etype = 9) }) = true := by decide

theorem witness_FloatSignResults :
    may (fun g => { regSig g (.vec 3) false [(.vec 1, false)] [] 4 with
      ok := (regSig g (.vec 3) false [(.vec 1, false)] [] 4).ok && floatType g.etype }) = true ∧
    mayAs 8 (fun g => { regSig g (.vec 3) false [(.vec 1, false)] [] 4 with
      ok := (regSig g (.vec 3) false [(.vec 1, false)] [] 4).ok && fcmpType g.etype }) = true := by decide

theorem witness_ConversionResults :
    mayAs 12 (fun g => { regSig g (.vec 4) (g.etype = 6) [(.vec 1, (12#8).toNat = 6)] [] 6 with
      ok := (regSig g (.vec 4) (g.etype = 6) [(.vec 1, (12#8).toNat = 6)] [] 6).ok && 7 ≤ (12#8).toNat && (12#8).toNat ≤ 13 &&
        7 ≤ g.etype && g.etype ≤ 13 }) = true ∧
    mayAs 6 (fun g => { regSig g (.vec 4) (g.etype = 6) [(.vec 1, (12#8).toNat = 6)] [] 6 with
      ok := (regSig g (.vec 4) (g.etype = 6) [(.vec 1, (12#8).toNat = 6)] [] 6).ok && 7 ≤ (12#8).toNat && (12#8).toNat ≤ 12 &&
        0 ≤ g.etype && g.etype ≤ 6 }) = true ∧
    mayAs 12 (fun g => { regSig g (.vec 4) (g.etype = 6) [(.vec 2, (6#8).toNat = 6)] [] 6 with
      ok := (regSig g (.vec 4) (g.etype = 6) [(.vec 2, (6#8).toNat = 6)] [] 6).ok && 0 ≤ (6#8).toNat && (6#8).toNat ≤ 6 &&
        7 ≤ g.etype && g.etype ≤ 12 }) = true ∧
    mayAs 7 (fun g => { regSig g (.vec 4) false [(.vec 2, eightBit g.etype), (.vec 6, eightBit g.etype)] [] 6 with
      ok := (regSig g (.vec 4) false [(.vec 2, eightBit g.etype), (.vec 6, eightBit g.etype)] [] 6).ok &&
        (if eightBit g.etype then g.packPair (.vec 2) && g.packPair (.vec 6) else g.etype = 10 || g.etype = 11) }) = true ∧
    mayAs 10 (fun g => { regSig g (.vec 4) false [(.vec 1, false)] [] 6 with
      ok := (regSig g (.vec 4) false [(.vec 1, false)] [] 6).ok &&
        (if eightBit g.etype then (1#8).toNat ≤ 3 else (g.etype = 10 || g.etype = 11) && (1#8).toNat ≤ 1) }) = true := by decide

theorem witness_ReductionAndSamplingResults :
    now.active ≠ [] ∧
    mayAs 4 (fun g => { regSig g (.vec 3) (g.etype = 6) [(.vec 1, g.etype = 6)] [] 10 with
      ok := (if (g.etype = 6 : Bool) then g.dst64Ok (.vec 3) else g.dstOk (.vec 3)) &&
        (if (g.etype = 6 : Bool) then g.src64Ok (.vec 1) else g.srcOk (.vec 1)) && (g.etype ≤ 6 || floatType g.etype) }) = true ∧
    dstVec (.vec 3) = true ∧ (1#8).toNat ≤ 1 ∧
    may (fun g => pivotSig g (.vec 3) (.vec 1) (.uni 4)) = true ∧
    may (fun g => { ok := g.dst64Ok (.vec 4) && (Dst.vec 4) ≠ .none && g.srcOk (.vec 1) && floatType g.etype
                    reads := srcRegs false (.vec 1), writes := dstRegs true (.vec 4), lat := some 10 }) = true ∧
    may (fun g => { ok := g.dstOk (.vec 3) && dstVec (.vec 3) && g.srcOk (.vec 1) && predOk 1#8 && floatType g.etype
                    reads := srcRegs false (.vec 1), writes := predReg 1#8 :: dstRegs false (.vec 3), lat := some 6 }) = true ∧
    may (fun g => { ok := g.dstOk (.vec 3) && dstVec (.vec 3), writes := dstRegs false (.vec 3), lat := some 6 }) = true := by decide

theorem witness_ModeAndMaskInstructions :
    may (fun _ => { ok := true, lat := some 1, guarded := false }) = true ∧
    may (fun g => { ok := g.srcOk (.lit 0x400#32) && uniOnly (.lit 0x400#32), reads := srcRegs false (.lit 0x400#32), lat := some 1, guarded := false }) = true ∧
    modeOk (now.rd (.lit 0x400#32) 0) = true ∧ modeOk (now.rd (.lit 0xE00#32) 0) = false ∧
    (now.writeExm (now.rd (.lit 1#32) 0)).exm ≠ [] ∧ (now.writeExm (now.rd (.lit 0#32) 0)).exm = [] ∧
    may (fun g => { ok := g.dstOk (.vec 3), writes := dstRegs false (.vec 3), lat := some 4, guarded := false }) = true ∧
    (1 < 32 ∧ msorted now.lanes = true) := by decide +kernel

theorem witness_SpecialRegisterInstructions :
    (∀ r ∈ [0x05#8, 0x08#8, 0x16#8],
      may (fun g => { ok := g.dstOk (.vec 3) && r.toNat ≤ 0x16, writes := dstRegs false (.vec 3), lat := some 6 }) = true) ∧
    now.active ≠ [] ∧ crewState.flagsOwed = false ∧ crewState.issuing = some now ∧ 0x16 < (0x17#8).toNat ∧
    mayIdle (fun g => { ok := g.dstOk (.vec 3) && (0x05#8).toNat ≤ 0x16, writes := dstRegs false (.vec 3), lat := some 6 }) = true := by
  decide +kernel

/-- The phase of a bank inside and outside its refresh, at the ends of both. -/
theorem witness_SpecialRegisterInstructions_phase :
    (∀ ph ∈ [0, 47, 256, 303, 7936], ph % 256 < 48) ∧ (∀ ph ∈ [48, 255, 304, 8191], 48 ≤ ph % 256) ∧ 0x16 < 0x17 := by decide

theorem witness_SpecialRegisterInstructions_wrsr :
    (∀ n ∈ [0x08#8, 0x0F#8, 0x10#8, 0x11#8, 0x00#8, 0x15#8],
      may (fun g => { ok := n.toNat ≤ 0x16 && g.srcOk (.uni 4), reads := srcRegs false (.uni 4), priv := n = 0x16#8 }) = true ∧
      mayPriv (fun g => { ok := n.toNat ≤ 0x16 && g.srcOk (.uni 4), reads := srcRegs false (.uni 4), priv := n = 0x16#8 }) = true ∧
      mayIdle (fun g => { ok := n.toNat ≤ 0x16 && g.srcOk (.uni 4), reads := srcRegs false (.uni 4), priv := n = 0x16#8 }) = true) := by
  decide +kernel

theorem witness_SpecialRegisterInstructions_sctl :
    mayPriv (fun g => { ok := (0x16#8).toNat ≤ 0x16 && g.srcOk (.uni 4), reads := srcRegs false (.uni 4), priv := 0x16#8 = 0x16#8 }) = true := by
  decide

/-- Blocks 3 and 5 may be entered; block 4 may not; the last block is followed by none, and 0x41 names no first slot. -/
theorem witness_TransferInstructions :
    let s := crewState
    let all := fun (x : Goal) => now.exm.map (fun l => (l, x))
    let near := fun (d : BitVec 16) => dispGoal (s.codeBase now) now.block d
    let reg := fun (x : BitVec 32) => regGoal (s.codeBase now) (now.rd (.lit x) 0)
    (∀ x ∈ [Goal.block 3, near 5#16, reg 0xC0#32],
      closedLane s (all x) = none ∧ goalTrap s (all x) = none ∧
      s.canIssue now (({ ok := true, lat := some 1, guarded := false } : Sig).toward s (all x)) = true) ∧
    (∀ x ∈ [Goal.block 4, near 4#16, reg 0x100#32], closedLane s (all x) = some 0 ∧
      s.seesHeads now (({ ok := true, lat := some 1, guarded := false } : Sig).toward s (all x)) = true) ∧
    (∀ x ∈ [near 0xFFFF#16, reg 0xC1#32], closedLane s (all x) = none ∧ (goalTrap s (all x)).isSome = true) ∧
    may (fun g => targetSig g .none (.uni 4)) = true ∧ may (fun g => targetSig g (.vec 3) .zero) = true ∧
    may (fun g => targetSig g (.vec 3) (.uni 4)) = true ∧ s.issuing = some now ∧
    (targetSig now .none (.uni 4)).waits now = false := by decide +kernel

theorem witness_LaneFlowInstructions :
    let s := crewState
    let taken := now.active.filter (fun l => now.pred (0#8).toNat l)
    let goals := fun (d : BitVec 16) => taken.map (fun l => (l, dispGoal (s.codeBase now) now.block d))
    let sg := fun (p : BitVec 8) (d : BitVec 16) =>
      ({ ok := predOk p, reads := [predReg p], lat := some 1, seeks := true } : Sig).toward s
        ((now.active.filter (fun l => now.pred p.toNat l)).map (fun l => (l, dispGoal (s.codeBase now) now.block d)))
    s.issuing = some now ∧ s.canIssue now (sg 0#8 5#16) = true ∧ s.canIssue now (sg 1#8 4#16) = true ∧
    (sg 0#8 4#16).waits now = false ∧ (sg 0#8 4#16).closed = some 0 ∧ s.seesHeads now (sg 0#8 4#16) = true ∧
    now.active.filter (fun l => now.pred (1#8).toNat l) = [] ∧ taken ≠ [] ∧ goalTrap s (goals 5#16) = none ∧
    s.canIssue now (sg 0#8 0xFFFF#16) = true ∧ (goalTrap s (goals 0xFFFF#16)).isSome = true ∧
    may (fun _ => { ok := true, lat := some 1, guarded := false }) = true ∧ may (fun _ => { ok := true, lat := some 1 }) = true ∧
    now.active ≠ [] ∧ ((s.put now).exitLanes 0 0 now.active .gone).gang? 0 0 ≠ none ∧
    mayIdle (fun _ => { ok := true, lat := some 1 }) = true := by decide +kernel

/-- The bin of block 3 and role 0, with so many lanes whose fill has run so long. -/
def binsOf (n base : Nat) : SMap Bin :=
  let l : BinLane := { lane := { st := .run }, preds := 0, live := [], uregs := [], tdescs := [] }
  [(binKey 3 0, { block := 3, role := 0, vcount := 64, lanes := List.replicate n l, base := base })]

theorem witness_LaneFlowInstructions_regroup :
    let sg := fun (g : Gang) (t : Nat) =>
      ({ ok := true, lat := some 1, seeks := true } : Sig).toward crewState (g.active.map (fun l => (l, Goal.block t)))
    let old := fun (bs : SMap Bin) => (mfind bs (binKey 3 0)).map (fun b => if b.overdue crew.rgto crewState.clock then b.expire else b)
    may (fun g => sg g 3) = true ∧ mayIdle (fun g => sg g 4) = true ∧ now.active ≠ [] ∧ now.active.length = 2 ∧
    now.count 0 = 0 ∧ now.count 1 = 0 ∧ now.count 10 = 0 ∧ now.claims = [] ∧
    (old [] = none ∧ ([] : SMap Bin).length < 4) ∧ old (binsOf 62 0) ≠ none ∧
    ((old (binsOf 62 0)).map (·.lanes.length)).getD 0 + 2 ≤ 64 ∧ ¬ ((old (binsOf 63 0)).map (·.lanes.length)).getD 0 + 2 ≤ 64 ∧
    (mfind (binsOf 20 9) (binKey 3 0)).map (fun b => (b.overdue 8 0, b.overdue 9 0)) = some (true, false) ∧
    crewState.mayEnter 0 0 4 = false ∧ crewState.issuing = some now ∧ (sg now 4).waits now = false ∧
    crewState.seesHeads now (sg now 4) = true := by decide +kernel

/-- An instruction that looks at a block whose header its core has not fetched sees it once the slices hold its line, and not if that
fails its check; at the end of a block one looks at the next. -/
theorem witness_LaneFlowInstructions_heads :
    let s := crewState.modCore 0 (fun x => { x with l1i := [] })
    let at_ : Spot := { a := 0x10100, n := 64 }
    let sg := ({ ok := true, lat := some 1, seeks := true } : Sig).toward s [(0, Goal.block 4)]
    let last := { stateOf lastGang with cores := ((stateOf lastGang).modCore 0 (fun x => { x with l1i := [] })).cores }
    s.seesHeads now sg = false ∧ (holding s [at_]).seesHeads now sg = true ∧
    ({ holding s [at_] with bad := [(0x10100 / 32, 1#32)] } : State).seesHeads now sg = false ∧
    last.seesHeads lastGang.begin { ok := true } = false ∧
    (holding last [{ a := 0x100C0, n := 64 }]).seesHeads lastGang.begin { ok := true } = true := by decide +kernel

/-! ### Traps, memory access -/

theorem witness_TrapsOnRequest :
    crewState.issuing = some now ∧ crewState.cur.slot ≠ privSlot ∧
    may (fun _ => { ok := true, lat := some 1, guarded := false }) = true ∧ may (fun _ => { ok := true, lat := some 1 }) = true ∧
    now.active ≠ [] ∧ mayIdle (fun _ => { ok := true, lat := some 1 }) = true ∧
    (fieldOp 0xE1000100#32).toNat ∉ [0x04, 0x08, 0x09, 0xF0] ∧ (illegalSig crewState 0x04FFFF01#32 [0x100#32] now).waits now = false ∧
    crewState.seesHeads now { ok := true } = true ∧ crewState.seesHeads now (illegalSig crewState 0x04FFFF01#32 [0x100#32] now) = true := by
  decide +kernel

/-- The checks of an issue, each where the ones before it pass. -/
theorem witness_TrapsOnRequest_checks :
    let g : Gang := { busyGang with seq := 1 }
    let s := (stateOf { g with seq := 0 }).modCore 0 (fun x => { x with sctl := 1#32 })
    let sg : Sig := { ok := true, reads := [3], lat := some 4 }
    (crewState.issuing = some now ∧ ({ ok := false } : Sig).ok = false ∧ ({ ok := true, tiles := false } : Sig).tiles = false) ∧
    (s.issuing = some g ∧ sg.waits g = false ∧ (s.core s.cur.core).schk = true ∧ sg.late g = true) := by decide +kernel

theorem witness_LoadsGoOut :
    let d : Dst := .vec 3
    let vas := now.active.map (fun l => (l, now.globalAddr (.uni 4) .zero l))
    now.mayAccess = true ∧ now.active ≠ [] ∧ now.count 0 < 63 ∧
    may (fun g => loadSig g d (dstVec d && g.src64Ok (.uni 4) && g.srcOk .zero) (srcRegs true (.uni 4) ++ srcRegs false .zero)) = true ∧
    may (fun g => loadSig g (.uni 8) (dstUni (.uni 8) && g.src64Ok (.uni 4) && uniOnly (.uni 4) && g.srcOk .zero && uniOnly .zero)
      (srcRegs true (.uni 4) ++ srcRegs false .zero)) = true ∧
    may (fun g => loadSig g d (dstVec d && scopeOk 3#8 7 && g.src64Ok (.uni 4)) (srcRegs true (.uni 4))) = true ∧
    (∃ refs, crewState.resolve .load now.z vas = .ok refs) ∧ (∃ refs, crewState.resolve .loadHbm now.z vas = .ok refs) ∧
    (∃ refs, crewState.resolve .load now.z (vas.take 1) = .ok refs) ∧
    crewState.walksTo (vas.map (·.2)) crewState ∧ crewState.walksTo ((vas.take 1).map (·.2)) crewState := by
  and_intros <;> first
    | decide +kernel
    | exact okay (by decide +kernel)
    | exact walksHere (by decide +kernel)

theorem witness_LoadsGoOut_row :
    may (fun g => { ok := 8 % 4 = 0 && decide (8 + 3 < g.vcount) && g.src64Ok (.uni 4) && uniOnly (.uni 4)
                    reads := srcRegs true (.uni 4), writes := [8, 8 + 1, 8 + 2, 8 + 3] }) = true ∧
    (match crewState.resolve .loadHbm 512 [(now.active.headD 0, now.rd64 (.uni 4) 0)] with
     | .ok (_ :: _) => true
     | _ => false) = true ∧ crewState.walksTo [now.rd64 (.uni 4) 0] crewState :=
  ⟨by decide +kernel, by decide +kernel, walksHere (by decide +kernel)⟩

/-- The gang of the tests under int32, and the same without an active lane or with an LDA out. -/
def asInt (m : BitVec 32) : Gang := { gang with mode := m }

/-- The signatures of the instructions that access memory by global addresses, with the address in b. -/
def accessSigs (g : Gang) (b : Src) : List Sig :=
  let row := 8 % 4 = 0 && decide (8 + 3 < g.vcount) && g.src64Ok b && uniOnly b
  [loadSig g (.vec 3) (dstVec (.vec 3) && g.src64Ok (.uni 4) && g.srcOk b) (srcRegs true (.uni 4) ++ srcRegs false b),
   loadSig g (.uni 8) (dstUni (.uni 8) && g.src64Ok (.uni 4) && uniOnly (.uni 4) && g.srcOk b && uniOnly b)
     (srcRegs true (.uni 4) ++ srcRegs false b),
   loadSig g (.vec 3) (dstVec (.vec 3) && scopeOk 7#8 7 && g.src64Ok b) (srcRegs true b),
   { ok := row, reads := srcRegs true b, writes := [8, 8 + 1, 8 + 2, 8 + 3] },
   { ok := g.elemOk (.vec 2) && g.src64Ok (.uni 4) && g.srcOk b, reads := srcRegs g.pair (.vec 2) ++ srcRegs true (.uni 4) ++ srcRegs false b },
   { ok := g.elemOk (.vec 2) && scopeOk 1#8 7 && g.src64Ok b, reads := srcRegs g.pair (.vec 2) ++ srcRegs true b },
   { ok := predOk 1#8 && g.src64Ok b && g.elemOk (.vec 2), reads := srcRegs true b ++ srcRegs g.pair (.vec 2), writes := [predReg 1#8] },
   { ok := row, reads := srcRegs true b ++ [8, 8 + 1, 8 + 2, 8 + 3] }] ++
  (List.range 8).map (fun op =>
    { ok := g.delemOk (.vec 3) && dstVec (.vec 3) && atomicOk g op b (.vec 2)
      reads := srcRegs true b ++ srcRegs g.pair (.vec 2) ++ (if op = 7 then dstRegs g.pair (.vec 3) else [])
      writes := dstRegs g.pair (.vec 3) }) ++
  (List.range 6).map (fun op => { ok := atomicOk g op b (.vec 2), reads := srcRegs true b ++ srcRegs g.pair (.vec 2) })

/-- Every one of them may issue, with good and bad addresses, with and without active lanes. -/
theorem witness_LoadsGoOut_trap :
    ([0x400#32, 0x401#32].all (fun m => [Src.uni 4, .lit 1#32, .zero].all (fun b =>
      (accessSigs (asInt m).begin b).all (fun sg => (stateOf (asInt m)).canIssue (asInt m).begin sg)))) = true ∧
    (asInt 0x400#32).begin.active ≠ [] ∧ (asInt 0x401#32).begin.active = [] ∧ (asInt 0x400#32).mayAccess = true ∧
    ({ asInt 0x400#32 with acquiring := [0] } : Gang).mayAccess = false := by decide +kernel

/-- The gang of the tests with no translation at hand and a root whose table stands at 0x40000; its first line held, and that failed. -/
def walkState : State :=
  (stateOf (asInt 0x400#32)).modCore 0 (fun x => { x with tlb := [], roots := [(0, 0x40001#64)] })

theorem witness_LoadsGoOut_walks :
    let held := holding walkState [{ a := 0x40000, n := 8 }]
    let bad : State := { held with bad := [(0x40000 / 32, 1#32)] }
    (∀ s ∈ [walkState, held, bad], (accessSigs (asInt 0x400#32).begin (.uni 4)).all (fun sg => s.canIssue (asInt 0x400#32).begin sg) = true) ∧
    (walkState.walked 0 0 [0x10000#64]).2 = .wait ∧ (held.walked 0 0 [0x10000#64]).2 = .ready ∧
    (held.resolve .load 4 [(0, 0x10000#64)]).isOk = false ∧ (bad.walked 0 0 [0x10000#64]).2 = .bad (0x40000 / 32) := by decide +kernel

/-- At 0x10001 every access is misaligned; 0x20000 is in no page; a load at 0x10000 passes. -/
theorem witness_LoadsGoOut_conditions :
    (∀ x ∈ [Access.load, .loadHbm, .store, .update], ∀ n ∈ [4, 512],
      (crewState.resolve x n [(0, 0x10001#64)]).isOk = false ∧ (crewState.resolve x n [(0, 0x20000#64)]).isOk = false ∧
      (crewState.resolve x n [(0, 0x10000#64), (1, 0x10001#64)]).isOk = false ∧ (crewState.resolve x n [(0, 0x10000#64)]).isOk = true) := by
  decide +kernel

theorem witness_StoresGoOut :
    let vas := now.active.map (fun l => (l, now.globalAddr (.uni 4) .zero l))
    crewState.storesOut < 64 ∧
    may (fun g => { ok := g.elemOk (.vec 1) && g.src64Ok (.uni 4) && g.srcOk .zero
                    reads := srcRegs g.pair (.vec 1) ++ srcRegs true (.uni 4) ++ srcRegs false .zero }) = true ∧
    may (fun g => { ok := g.elemOk (.vec 1) && scopeOk 5#8 7 && g.src64Ok (.uni 4)
                    reads := srcRegs g.pair (.vec 1) ++ srcRegs true (.uni 4) }) = true ∧
    crewState.earlierDone now (5#8).toNat = true ∧
    may (fun g => { ok := predOk 1#8 && g.src64Ok (.uni 4) && g.elemOk (.vec 2)
                    reads := srcRegs true (.uni 4) ++ srcRegs g.pair (.vec 2), writes := [predReg 1#8] }) = true ∧
    (∀ l ∈ now.active, (now.lane l).resv = none) ∧
    (∃ refs, crewState.resolve .store now.z vas = .ok refs) ∧ (∃ refs, crewState.resolve .update now.z vas = .ok refs) ∧
    crewState.walksTo (vas.map (·.2)) crewState := by
  and_intros <;> first
    | decide +kernel
    | exact okay (by decide +kernel)
    | exact walksHere (by decide +kernel)

/-- A gang of which a lane holds a reservation that its LDR has left, or, with no stamps, has still to leave. -/
def outGang (st : List Nat) : Gang := { gang with lanes := [(0, { st := .run, resv := some { pa := 0x10000, z := 4, stamps := st } }), (1, { st := .run })] }

/-- The tests' gang with an atomic out. -/
def outState : State := { crewState with ops := [{ id := 1, core := 0, slot := 0, seq := 0, kind := .atomic 0 4 0#64, spans := [] }] }

theorem witness_StoresGoOut_waits :
    outState.earlierDone now 1 = false ∧ crewState.earlierDone now 1 = true ∧
    outState.canIssue now { ok := now.elemOk (.vec 1) && scopeOk 1#8 7 && now.src64Ok (.uni 4)
                            reads := srcRegs now.pair (.vec 1) ++ srcRegs true (.uni 4) } = true ∧
    (∃ l ∈ (outGang []).active, ∃ r, ((outGang []).lane l).resv = some r ∧ r.stamps = []) ∧
    (∀ l ∈ (outGang [0, 0, 0, 0]).active, ((outGang [0, 0, 0, 0]).lane l).resv.map (·.stamps) ≠ some []) ∧
    (outGang []).mayAccess = true ∧ (stateOf (outGang [])).canIssue (outGang []).begin
      { ok := predOk 1#8 && (outGang []).begin.src64Ok (.uni 4) && (outGang []).begin.elemOk (.vec 2)
        reads := srcRegs true (.uni 4) ++ srcRegs (outGang []).begin.pair (.vec 2), writes := [predReg 1#8] } = true :=
  ⟨by decide +kernel, by decide +kernel, by decide +kernel, ⟨0, by decide +kernel, _, rfl, rfl⟩, by decide +kernel, by decide +kernel,
    by decide +kernel⟩

theorem witness_AtomicsGoOut :
    let sg := fun (op : Nat) (g : Gang) => ({ ok := g.delemOk (.vec 3) && dstVec (.vec 3) && atomicOk g op (.uni 4) (.vec 2)
                                              reads := srcRegs true (.uni 4) ++ srcRegs g.pair (.vec 2) ++
                                                (if op = 7 then dstRegs g.pair (.vec 3) else [])
                                              writes := dstRegs g.pair (.vec 3) } : Sig)
    let row : Sig := { ok := 8 % 4 = 0 && decide (8 + 3 < now.vcount) && now.src64Ok (.uni 4) && uniOnly (.uni 4)
                       reads := srcRegs true (.uni 4) ++ [8, 8 + 1, 8 + 2, 8 + 3] }
    (∀ op ∈ List.range 8, mayAs 4 (sg op) = true) ∧
    (∀ op ∈ List.range 6, mayAs 4 (fun g =>
      { ok := atomicOk g op (.uni 4) (.vec 2), reads := srcRegs true (.uni 4) ++ srcRegs g.pair (.vec 2) }) = true) ∧
    (now.claims.filter (·.slot)).length < 8 ∧ crewState.canIssue now row = true ∧
    (∃ refs, crewState.resolve .update 512 [(now.active.headD 0, now.rd64 (.uni 4) 0)] = .ok refs) ∧
    (∃ refs, crewState.resolve .update 4 (now.active.map (fun l => (l, now.rd64 (.uni 4) l))) = .ok refs) ∧
    crewState.walksTo [now.rd64 (.uni 4) 0] crewState ∧ crewState.walksTo (now.active.map (now.rd64 (.uni 4))) crewState := by
  and_intros <;> first
    | decide +kernel
    | exact okay (by decide +kernel)
    | exact walksHere (by decide +kernel)

theorem witness_ScratchpadAndGlasshouse :
    may (fun g => loadSig g (.vec 3) (dstVec (.vec 3) && g.srcOk (.lit 64#32) && g.srcOk .zero) (srcRegs false (.lit 64#32) ++ srcRegs false .zero)) = true ∧
    spadTrap now.z (crewState.myCrew now).sc (now.active.map (fun l => (l, (now.rd (.lit 64#32) l + now.rd .zero l).toNat))) = none ∧
    (∃ t, spadTrap now.z (crewState.myCrew now).sc (now.active.map (fun l => (l, (now.rd (.lit 4096#32) l + now.rd .zero l).toNat))) = some t) ∧
    may (fun g => { ok := g.elemOk (.vec 1) && g.srcOk (.lit 64#32) && g.srcOk .zero
                    reads := srcRegs g.pair (.vec 1) ++ srcRegs false (.lit 64#32) ++ srcRegs false .zero }) = true := by
  and_intros <;> first
    | decide +kernel
    | exact given (by decide +kernel)

/-- The crew of the tests with a Glasshouse region bound. -/
def boundState : State :=
  { crewState.modCrew 0 1 (fun w => { w with regions := [5] }) with
    lodge := { crewState.lodge with regions := [(5, { state := 2, size := 1, base := 0, bcnt := 1 })] } }

theorem witness_ScratchpadAndGlasshouse_idle :
    mayIdle (fun g => loadSig g (.vec 3) (dstVec (.vec 3) && g.srcOk (.lit 64#32) && g.srcOk .zero) (srcRegs false (.lit 64#32) ++ srcRegs false .zero)) = true ∧
    mayIdle (fun g => { ok := g.elemOk (.vec 1) && g.srcOk (.lit 64#32) && g.srcOk .zero
                        reads := srcRegs g.pair (.vec 1) ++ srcRegs false (.lit 64#32) ++ srcRegs false .zero }) = true ∧
    mayIdle (fun g => loadSig g (.vec 3) (dstVec (.vec 3) && g.srcOk .zero && (7#8).toNat < 8) (srcRegs false .zero)) = true ∧
    now.mayAccess = true ∧ idle.begin.mayAccess = true ∧ (now.claims.filter (·.slot)).length < 8 := by decide +kernel

theorem witness_ScratchpadAndGlasshouse_ldw :
    let sg := fun (a : Src) => loadSig now (.vec 3) (dstVec (.vec 3) && now.srcOk a && (0#8).toNat < 8) (srcRegs false a)
    let bad := fun (s : State) (a : Src) => now.active.filterMap (fun l =>
      let off := fun l => (now.rd a l).toNat
      if off l % now.z ≠ 0 then some (l, BitVec.ofNat 64 (off l), Cond.mk 1 0x12)
      else if ((s.boundRegion (s.myCrew now) 0).map (fun r => decide (off l + now.z ≤ r.size * 65536))).getD false then none
      else some (l, BitVec.ofNat 64 (off l), Cond.mk 4 0x11))
    boundState.canIssue now (sg .zero) = true ∧ boundState.canIssue now (sg (.lit 65532#32)) = true ∧ now.mayAccess = true ∧ now.count 1 < 63 ∧
    boundState.boundRegion (boundState.myCrew now) 0 = some { state := 2, size := 1, base := 0, bcnt := 1 } ∧
    firstCond (bad boundState .zero) = none ∧ firstCond (bad boundState (.lit 65532#32)) = none ∧
    (firstCond (bad boundState (.lit 65536#32))).isSome = true ∧ (firstCond (bad boundState (.lit 1#32))).isSome = true ∧
    (firstCond (bad crewState .zero)).isSome = true := by decide +kernel

theorem witness_FencesAndCacheControl :
    let s : State := crewState.bump
    let vas := now.active.map (fun l => (l, now.rd64 (.uni 4) l))
    (∀ n ∈ [0#8, 1#8, 5#8, 7#8],
      may (fun _ => { ok := scopeOk n 7 }) = true ∧ mayIdle (fun _ => { ok := scopeOk n 7 }) = true ∧ s.earlierDone now n.toNat = true ∧
      outState.canIssue now { ok := scopeOk n 7 } = true ∧ outState.earlierDone now n.toNat = false) ∧ now.active ≠ [] ∧
    (∀ n ∈ [0#8, 1#8], may (fun g => { ok := g.src64Ok (.uni 4) && n.toNat ≤ 1, reads := srcRegs true (.uni 4) }) = true ∧
      mayIdle (fun g => { ok := g.src64Ok (.uni 4) && n.toNat ≤ 1, reads := srcRegs true (.uni 4) }) = true) ∧
    (okRefs (vas.map (fun v => (v.1, v.2, s.checkAddr 0 0 .load v.2 now.z)))).length = 2 ∧
    may (fun g => { ok := g.src64Ok (.uni 4), reads := srcRegs true (.uni 4) }) = true ∧
    (∀ l ∈ now.active, canonical (now.rd64 (.uni 4) l) = true ∧
      (crewState.translate 0 (crewState.rootOf 0 0) (now.rd64 (.uni 4) l)).isOk = true) ∧ (crewState.core 0).fills = [] ∧
    canonical 0x0100000000000000#64 = false ∧ (crewState.translate 0 0 0x20000#64).isOk = false := by decide +kernel

theorem witness_FencesAndCacheControl_walks : crewState.walksTo (now.active.map (now.rd64 (.uni 4))) crewState :=
  walksHere (by decide +kernel)

/-! ### Waits, queues, tiles, Trellis, readers -/

theorem witness_WaitingInstructions :
    let n : BitVec 8 := 1#8
    let vas := [(now.active.headD 0, now.rd64 (.uni 4) 0)]
    may (fun g => { ok := n.toNat ≤ 11 && g.srcOk .zero && uniOnly .zero, reads := srcRegs false .zero, guarded := false }) = true ∧
    may (fun g => { ok := scopeOk n 7 && g.src64Ok (.uni 4) && uniOnly (.uni 4) && g.src64Ok .zero && uniOnly .zero
                    reads := srcRegs true (.uni 4) ++ srcRegs true .zero }) = true ∧
    may (fun _ => { ok := n.toNat < (crewState.myCrew now).nbars }) = true ∧
    may (fun g => { ok := g.srcOk .zero && uniOnly .zero && g.srcOk .zero && uniOnly .zero, reads := srcRegs false .zero ++ srcRegs false .zero }) = true ∧
    phaseTrap now (crewState.myCrew now).sc (now.rd .zero 0).toNat = none ∧
    may (fun g => { ok := g.srcOk .zero && uniOnly .zero, reads := srcRegs false .zero }) = true ∧
    (∀ l < 32, (now.lane l).st = .empty ∨ (now.lane l).nest = 0) ∧
    crewState.cur.slot ≠ privSlot ∧ may (fun _ => { ok := n.toNat ≤ 7 && (mget {} (crewState.myCrew now).events n.toNat).sink = 0 }) = true ∧
    privState.cur.slot = privSlot ∧ mayPriv (fun _ => { ok := (0#8).toNat = 0 }) = true ∧ mayPriv (fun _ => { ok := true, priv := true }) = true ∧
    (∃ refs, crewState.resolve .load 8 vas = .ok refs) ∧ crewState.walksTo [now.rd64 (.uni 4) 0] crewState := by
  and_intros <;> first
    | decide +kernel
    | exact okay (by decide +kernel)
    | exact walksHere (by decide +kernel)

/-- The privileged gang under a guard that no lane meets. -/
def idlePriv : Gang := { privGang with mode := 0x00000C01#32 }

def mayIdlePriv (sg : Gang → Sig) : Bool := idlePriv.begin.active = [] && (privOf idlePriv).canIssue idlePriv.begin (sg idlePriv.begin)

theorem witness_WaitingInstructions_idle :
    mayIdle (fun g => { ok := scopeOk 1#8 7 && g.src64Ok (.uni 4) && uniOnly (.uni 4) && g.src64Ok .zero && uniOnly .zero
                        reads := srcRegs true (.uni 4) ++ srcRegs true .zero }) = true ∧
    mayIdle (fun _ => { ok := (1#8).toNat < (crewState.myCrew now).nbars }) = true ∧
    mayIdle (fun g => { ok := g.srcOk .zero && uniOnly .zero && g.srcOk .zero && uniOnly .zero, reads := srcRegs false .zero ++ srcRegs false .zero }) = true ∧
    mayIdle (fun g => { ok := g.srcOk .zero && uniOnly .zero, reads := srcRegs false .zero }) = true ∧
    mayIdle (fun _ => { ok := (1#8).toNat ≤ 7 && (mget {} crew.events 1).sink = 0 }) = true ∧
    mayIdlePriv (fun _ => { ok := (0#8).toNat = 0 }) = true ∧ mayIdlePriv (fun _ => { ok := true, priv := true }) = true ∧
    idle.begin.mayAccess = true := by decide +kernel

/-- Failing addresses of SIGWAIT, and the first and last offsets of a phase word, with those beside them. -/
theorem witness_WaitingInstructions_traps :
    (crewState.resolve .load 8 [(0, 0x10001#64)]).isOk = false ∧ (crewState.resolve .load 8 [(0, 0x20000#64)]).isOk = false ∧
    (∀ off ∈ [1, 2, 4095, 4097], off % 4 ≠ 0) ∧ (∀ off ∈ [0, 4092], off % 4 = 0 ∧ off + 4 ≤ crew.sc) ∧
    (∀ off ∈ [4096], off % 4 = 0 ∧ crew.sc < off + 4) ∧ crewState.gang? 0 0 = some gang ∧ gang.held = none ∧ now.held = none := by
  decide +kernel

theorem witness_WaitingInstructions_section :
    let g : Gang := { gang with lanes := [(0, { st := .run }), (1, { st := .run, nest := 1 })] }
    (stateOf g).canIssue g.begin { ok := g.srcOk .zero && uniOnly .zero, reads := srcRegs false .zero } = true ∧ g.begin.active ≠ [] ∧
    (g.begin.lane 1).st ≠ .empty ∧ (g.begin.lane 1).nest ≠ 0 ∧ (∀ j < 1, (g.begin.lane j).st = .empty ∨ (g.begin.lane j).nest = 0) := by
  decide +kernel

/-- A gang whose BARSYNC at barrier 1 is issued again, some of its lanes having been abandoned in it when the phase was ph. -/
def againGang (ph : Bool) (lanes : Nat) : Gang :=
  { gang with resync := [{ block := 0, slot := 1, bar := 1, ph := ph, lanes := BitVec.ofNat 32 lanes }], barPend := 2#16 }

theorem witness_ArrivalsAndPosts :
    let again := fun (ph : Bool) (n : Nat) => (stateOf (againGang ph n)).lanesOver (againGang ph n).begin 1
    may (barSig crewState 1#8) = true ∧ crewState.earlierDone now 1 = true ∧ crewState.lanesOver now 1 = [] ∧ now.active ≠ [] ∧
    ((stateOf (againGang true 3)).canIssue (againGang true 3).begin (barSig (stateOf (againGang true 3)) 1#8 (againGang true 3).begin) = true ∧
      (againGang true 3).begin.active = [0, 1] ∧ again true 3 = [0, 1] ∧ again true 1 = [0] ∧ again false 3 = []) ∧
    (outState.canIssue now (barSig outState 1#8 now) = true ∧ outState.earlierDone now 1 = false) ∧
    (∃ h, (crewState.arriveBar (now.resynced 1) 1 (crewState.lanesOver now 1)).gang? 0 0 = some h) ∧
    may (fun g => { ok := g.srcOk .zero && uniOnly .zero && (0#8).toNat ≤ 1, reads := srcRegs false .zero }) = true ∧
    may (fun _ => { ok := crewState.cur.slot ≠ privSlot && (1#8).toNat ≤ 7 && (2#8).toNat ≤ 8 &&
      ((3#8).toNat ≤ 10 || (16 ≤ (3#8).toNat && (3#8).toNat < 16 + (crewState.myCrew now).nbars && (3#8).toNat ≤ 31)) }) = true ∧
    may (fun _ => { ok := (1#8).toNat ≤ 7 }) = true ∧ mayPriv (fun _ => { ok := (0#8).toNat = 0 }) = true ∧
    privState.earlierDone privGang.begin 1 = true := by
  and_intros <;> first
    | decide +kernel
    | exact given (by decide +kernel)

theorem witness_ArrivalsAndPosts_idle :
    mayIdle (barSig (stateOf idle) 1#8) = true ∧
    mayIdle (fun g => { ok := g.srcOk .zero && uniOnly .zero && (0#8).toNat ≤ 1, reads := srcRegs false .zero }) = true ∧
    mayIdle (fun _ => { ok := (stateOf idle).cur.slot ≠ privSlot && (1#8).toNat ≤ 7 && (2#8).toNat ≤ 8 && ((3#8).toNat ≤ 10 || false) }) = true ∧
    mayIdle (fun _ => { ok := (1#8).toNat ≤ 7 }) = true ∧ mayIdlePriv (fun _ => { ok := (0#8).toNat = 0 }) = true := by decide +kernel

/-- A pulse finds no gang that waits on its line, or one. -/
theorem witness_ArrivalsAndPosts_pulse :
    let waits := fun (y : Nat × Gang) => ! y.2.stopped && y.2.held.any (fun h => h.cond = .event 0 && ! h.met)
    let x := fun (g : Gang) => (stateOf g).core 0
    let g : Gang := { gang with held := some { cond := .event 0, len := 1, stall := 0, since := 0 } }
    mfind (x gang).crews 1 = some crew ∧ mfind (x g).crews 1 = some crew ∧ ((x gang).gangsOf 1).filter waits = [] ∧
    ((x g).gangsOf 1).filter waits = (0, g) :: [] := by decide +kernel

theorem witness_CommandsJoinTheirQueue :
    let g := (cmdGang [0x10000, 0, 0x10100, 0, 64] []).begin
    let s := stateAs g
    let x := command .copy 0 (g.descWords 0xC0#8 5)
    s.canIssue g (descSig 1#8 0xC0#8 5 (fun _ => (0#8).toNat ≤ 3) [] g) = true ∧
    firstCond (sideCheck ((0#8).getLsbD 0) crew.sc (g.descWords 0xC0#8 5) 0 64 ++ sideCheck ((0#8).getLsbD 1) crew.sc (g.descWords 0xC0#8 5) 2 64) = none ∧
    s.postWaits g 1 x.remote = false ∧
    s.canIssue g (descSig 1#8 0xC0#8 8 (fun _ => (3#8).toNat ≤ 3) [] g) = true ∧
    s.canIssue g (descSig 1#8 0xC0#8 5 (fun g => g.srcOk .zero) (srcRegs false .zero) g) = true ∧
    s.canIssue g { ok := (1#8).toNat ≤ 7 } = true ∧ firstCond [] = none := by decide +kernel

theorem witness_CommandsJoinTheirQueue_rows :
    let g := (cmdGang [0x10000, 0, 0x10800, 0, 2, 64, 64, 64] []).begin
    let s := stateAs g
    let ws := g.descWords 0xC0#8
    s.canIssue g (descSig 1#8 0xC0#8 8 (fun _ => (0#8).toNat ≤ 3) [] g) = true ∧
    firstCond (rowsCheck false crew.sc (ws 8) 0 6 ++ rowsCheck false crew.sc (ws 8) 2 7) = none ∧
    1 ≤ wordAt (ws 5) 4 ∧
    (let h := (cmdGang [0x10000, 0, 16, 64, 0] []).begin
     let vs := h.descWords 0xC0#8 5
     1 ≤ wordAt vs 2 ∧ wordAt vs 2 ≤ 65536 ∧ firstCond (canonCheck (pairAt vs 0) ++ h.active.flatMap (fun l =>
       (spadCheck crew.sc ((wordAt vs 4 + l * wordAt vs 2 : Nat) : Int) (wordAt vs 2)).map (fun x => (l, x.2)))) = none) := by decide +kernel

theorem witness_CommandsJoinTheirQueue_remote :
    let g := (cmdGang [0x10000, 0, 0x10100, 0, 64, 0, 0x10008, 0, 0x10010, 0] []).begin
    let s := stateAs g
    let ws := g.descWords 0xC0#8
    let h := (cmdGang [0x10000, 0, 1, 0, 0x10000, 0, 0x10008, 0] []).begin
    s.canIssue g (descSig 1#8 0xC0#8 8 (fun _ => (0#8).toNat ≤ 1) [] g) = true ∧ wordAt (ws 8) 5 = 0 ∧
    firstCond (sideCheck false crew.sc (ws 8) 0 (wordAt (ws 8) 4) ++ cellCheck (pairAt (ws 8) 6)) = none ∧
    s.canIssue g (descSig 1#8 0xC0#8 10 (fun g => (0#8).toNat ≤ 7 && atomicType (0#8).toNat g.etype) [] g) = true ∧
    firstCond (alignCheck (pairAt (ws 10) 0) g.z ++ cellCheck (pairAt (ws 10) 6) ++ cellCheck (pairAt (ws 10) 8)) = none ∧
    s.canIssue g (descSig 1#8 0xC0#8 10 (fun _ => (0#8).toNat ≤ 3) [] g) = true ∧
    firstCond (sideCheck false crew.sc (ws 10) 0 (wordAt (ws 10) 4) ++ cellCheck (pairAt (ws 10) 8) ++ alignCheck (pairAt (ws 10) 6) 8 ++
      (canonCheck (pairAt (ws 10) 2) ++ canonCheck (pairAt (ws 10) 6))) = none ∧
    (stateAs h).canIssue h (descSig 1#8 0xC0#8 6 (fun _ => 0#8 = 0#8 || 0#8 = 2#8) [] h) = true ∧
    firstCond (alignCheck (pairAt (h.descWords 0xC0#8 6) 0) 8 ++ canonCheck (pairAt (h.descWords 0xC0#8 6) 0) ++ cellCheck (pairAt (h.descWords 0xC0#8 6) 4)) = none ∧
    s.postWaits g 1 true = false := by decide +kernel

/-- Descriptors that fail: an address that is not canonical, a misaligned signal address, rows of no bytes and of more than
65,536; a full queue; and no active lane. -/
theorem witness_CommandsJoinTheirQueue_fails :
    let g := (cmdGang [0x10000, 0, 0x10100, 0, 0, 1] []).begin
    let ws := g.descWords 0xC0#8
    let h := (cmdGang [0x10004, 0, 1, 0, 0x10000, 0, 0x10008, 0] []).begin
    let full : State := (stateAs g).modCore 0 (fun x => { x with queues := [(1, List.replicate 32 (command .fence 0 []))] })
    let idleCmd := { g with mode := 0x00000C01#32 }
    (firstCond (sideCheck false crew.sc [0#32, 0x01000000#32] 0 64)).isSome = true ∧
    (decide (1 ≤ wordAt (ws 5) 2) && decide (wordAt (ws 5) 2 ≤ 65536)) = false ∧ decide (1 ≤ wordAt [0#32, 0#32, 0#32] 2) = false ∧
    decide (wordAt (ws 8) 5 = 0) = false ∧
    (firstCond (alignCheck (pairAt (h.descWords 0xC0#8 6) 0) 8)).isSome = true ∧
    (full.canIssue g (descSig 1#8 0xC0#8 5 (fun _ => (0#8).toNat ≤ 3) [] g) = true ∧ full.postWaits g 1 false = true) ∧
    (idleCmd.active = [] ∧ (stateAs idleCmd).canIssue idleCmd (descSig 1#8 0xC0#8 5 (fun _ => (0#8).toNat ≤ 3) [] idleCmd) = true) := by
  decide +kernel

/-- A strict gang with the descriptor of one scaled block at 0x10000, its record at 0x11000, over some memory. -/
def strictGang : Gang := (cmdGang [] [tensor 1 1 7 32 32 4 0x10000, tensor 1 0 12 4 8 32 0x10000, tensor 0 0 12 4 8 32 0x10000]).begin

def strictState (mem : List Host.Cell) : State :=
  { (stateAs { strictGang with mode := 0x00010C00#32 }).modCore 0 (fun x => { x with
      tlb := [page 0, { page 0 with va := 0x11000, dpa := 0x11000, spl := true, delta := 0x11000 / 32 - 0x10000 / 1024 }] }) with mem := mem }

theorem witness_CommandsJoinTheirQueue_tiles :
    let g := { strictGang with mode := 0x00010C00#32 }
    let s := holding (strictState []) (((strictState []).view { strictGang with mode := 0x00010C00#32 } (tdescOf (strictGang.t 0))).records)
    let use := fun (_ : TDesc) (x : Access) (part : List Nat) => ({ access := x, spaces := [1, 2], part := part } : TUse)
    let t := tdescOf (g.t 1)
    let b := tdescOf (g.t 0)
    let recs := (s.view g b).records
    g.strict = true ∧ g.active ≠ [] ∧ g.mayAccess = true ∧
    s.canIssue g (tileCmdSig s 0#8 0#8 ((2#8).toNat ≤ 7) g) = true ∧ s.canIssue g (tileCmdSig s 0#8 1#8 ((2#8).toNat / 32 = 0) g) = true ∧
    b.space ≠ 0 ∧ b.rows ≤ 128 ∧ b.cols ≤ 128 ∧ (tdescOf (g.t 2)).space = 0 ∧ t.fmt = 12 ∧ t.sc = false ∧ b.fmt ≠ 12 ∧
    s.tdescTrap crew 0 b { access := .asyncRead, spaces := [1, 2, 3], homes := false, part := b.whole } = none ∧
    s.tdescTrap crew 0 t (use t .asyncWrite (t.rowsOf g.active)) = none ∧ s.tdescTrap crew 0 t (use t .asyncWrite (t.drained g.active)) = none ∧
    (s.tdescTrap crew 0 { t with base := 0x20000#64 } (use t .asyncWrite (t.rowsOf g.active))).isSome = true ∧
    crew.tilesFree [0] = true ∧ s.postWaits g 2 false = false ∧ recs ≠ [] ∧ s.ownStoreIn g recs = false ∧
    (s.readAll crew.part recs).2 = .ready ∧ ((strictState []).readAll crew.part recs).2 = .wait ∧ s.strictBad (s.view g b) crew.nbv = false ∧
    s.walksTo (b.pages b.whole) s ∧ s.walksTo (t.pages (t.rowsOf g.active)) s := by
  refine ⟨by decide +kernel, by decide +kernel, by decide +kernel, by decide +kernel, by decide +kernel, by decide +kernel, by decide +kernel,
    by decide +kernel, by decide +kernel, by decide +kernel, by decide +kernel, by decide +kernel, by decide +kernel, by decide +kernel,
    by decide +kernel, by decide +kernel, by decide +kernel, by decide +kernel, by decide +kernel, by decide +kernel, by decide +kernel,
    by decide +kernel, by decide +kernel, walksHere (by decide +kernel), walksHere (by decide +kernel)⟩

/-- The same where the record's exponents leave the range, where its sector fails its check, and where a store to it is out. -/
theorem witness_CommandsJoinTheirQueue_strict :
    let g := { strictGang with mode := 0x00010C00#32 }
    let s := strictState ((List.range 32).map (fun i => (0x11000 + i, 0xFE#8)))
    let v := s.view g (tdescOf (g.t 0))
    let bad : State := { s with bad := [(0x11000 / 32, 1#32)] }
    let out : State := { s with ops := [{ id := 1, core := 0, slot := 0, seq := 0, kind := .store, spans := [{ addr := 0x11000, data := [1#8] }] }] }
    s.strictBad v crew.nbv = true ∧ (bad.spotBad v.records).isSome = true ∧ out.ownStoreIn { g with seq := 1 } v.records = true ∧
    (out.gang? 0 0).map (·.seq) = (s.gang? 0 0).map (·.seq) := by decide +kernel

theorem witness_TileAndMatrixInstructions_tset :
    let t := tensor 1 0 12 4 8 32 0x10000
    let g := { gang with uregs := (List.range 4).map (fun i => (8 + i, (t >>> (32 * i)).setWidth 32)) }.begin
    let x : BitVec 128 := g.u (8 + 3) ++ g.u (8 + 2) ++ g.u (8 + 1) ++ g.u 8
    let sg : Sig := { ok := g.tdescOk 2#8 && quadOk g 8, reads := uniRegs 8 4, writes := [tdescReg 2#8], lat := some 4 }
    (stateAs g).canIssue g sg = true ∧ tdescLegal x = true ∧ tdescLegal (tensor 1 0 1 4 8 32 0) = false ∧
    (stateAs g).canIssue g { ok := g.tdescOk 2#8 && quadOk g 8, reads := [tdescReg 2#8], writes := uniRegs 8 4, lat := some 4 } = true := by
  decide +kernel

theorem witness_TileAndMatrixInstructions_idle :
    mayIdle (fun g => { ok := g.tdescOk 2#8 && quadOk g 8, reads := uniRegs 8 4, writes := [tdescReg 2#8], lat := some 4 }) = true ∧
    mayIdle (fun g => { ok := g.tdescOk 2#8 && quadOk g 8, reads := [tdescReg 2#8], writes := uniRegs 8 4, lat := some 4 }) = true ∧
    mayIdle (fun g => blockSig g 8 0#8 .zero false) = true ∧ mayIdle (fun g => blockSig g 8 0#8 .zero true) = true ∧
    mayIdle (tileRangeSig crewState 1#8 2#8) = true ∧
    mayIdle (fun g => { ok := 8 % 8 = 0 && 8 + 7 < g.vcount && tileOk 1#8 && g.srcOk (.lit 5#32) && uniOnly (.lit 5#32), tiles := crew.holds 1
                        reads := srcRegs false (.lit 5#32), writes := (List.range 8).map (fun i => 8 + i) }) = true ∧
    mayIdle (fun g => { ok := predOk 1#8 && g.dstOk (.vec 3) && 1 ≤ (2#8).toNat && (2#8).toNat ≤ 24
                        writes := predReg 1#8 :: dstRegs false (.vec 3) }) = true ∧
    mayIdle (fun g => { ok := tileOk 1#8 && g.tdescOk 0#8 && true, tiles := crew.holds 1, reads := [tdescReg 0#8] }) = true ∧
    idle.begin.mayAccess = true := by decide +kernel

/-- A gang with the descriptor of one scaled block at 0x10000, its record at 0x11000. -/
def blockGang : Gang := (cmdGang [] [tensor 1 1 7 32 32 4 0x10000]).begin

/-- Its core, with the record in an SPL page whose DELTA gives it the home of its payload (R274). -/
def splState : State :=
  (stateAs blockGang).modCore 0 (fun x => { x with
    tlb := [page 0, { page 0 with va := 0x11000, dpa := 0x11000, spl := true, delta := 0x11000 / 32 - 0x10000 / 1024 }] })

/-- The same with its L1 holding the block and its record. -/
def heldState : State :=
  splState.modCore 0 (fun x => { x with
    l1 := { unit := 0x11000, usize := 32, bytes := List.replicate 32 (0#8, 0) } ::
      (List.range 8).map (fun i => { unit := 0x10000 + 128 * i, usize := 128, bytes := List.replicate 128 (0#8, 0) }) })

theorem witness_TileAndMatrixInstructions_blocks :
    let s := splState
    let t := tdescOf (blockGang.t 0)
    let vas := t.pages [0]
    blockGang.mayAccess = true ∧ blockGang.active ≠ [] ∧ blockOf t (blockGang.rd .zero 0) = some (0, false) ∧
    s.canIssue blockGang (blockSig blockGang 8 0#8 .zero false) = true ∧ s.canIssue blockGang (blockSig blockGang 8 0#8 .zero true) = true ∧
    s.tdescTrap (s.myCrew blockGang) 0 t { access := .loadHbm, spaces := [1], part := [0] } = none ∧
    s.tdescTrap (s.myCrew blockGang) 0 t { access := .update, spaces := [1], part := [0] } = none ∧ s.rootOf 0 0 = 0 ∧
    blockGang.count 0 < 63 ∧ s.storesOut < 64 ∧
    (match blockSpans (s.xlats 0 0 vas) t 0 with
     | some (p, r, _) => ((s.core 0).held p).isNone && ((heldState.core 0).held p).isSome && ((heldState.core 0).held r).isSome &&
         ! heldState.ownHomeOp p.addr 1024 && ! heldState.ownHomeOp r.addr 32
     | none => false) = true := by decide +kernel

theorem witness_TileAndMatrixInstructions_blockWalks : splState.walksTo ((tdescOf (blockGang.t 0)).pages [0]) splState :=
  walksHere (by decide +kernel)

theorem witness_TileAndMatrixInstructions_tiles :
    let busy := { crew with busy := [(1, 7)] }
    may (tileRangeSig crewState 1#8 2#8) = true ∧ (crewState.myCrew now).tilesFree (tilesFrom 1 2) = true ∧ (crewState.myCrew now).tilesFree [1] = true ∧
    busy.tilesFree (tilesFrom 1 2) = false ∧ busy.tilesFree (tilesFrom 0 1) = true ∧
    accGroup (now.rd (.lit 5#32) 0) = some (1, 1) ∧ accGroup (now.rd (.lit 63#32) 0) = some (3, 15) ∧
    2 ^ 6 ≤ (now.rd (.lit 64#32) 0).toNat ∧
    (∀ b ∈ [Src.lit 5#32, .lit 63#32, .lit 64#32],
      may (fun g => { ok := 8 % 8 = 0 && 8 + 7 < g.vcount && tileOk 1#8 && g.srcOk b && uniOnly b
                      tiles := (crewState.myCrew now).holds (1#8).toNat, reads := srcRegs false b
                      writes := (List.range 8).map (fun i => 8 + i) }) = true ∧
      may (fun g => { ok := tileOk 1#8 && 8 % 8 = 0 && 8 + 7 < g.vcount && g.srcOk b && uniOnly b
                      tiles := (crewState.myCrew now).holds (1#8).toNat
                      reads := srcRegs false b ++ (List.range 8).map (fun i => 8 + i) }) = true) ∧
    (∀ m ∈ [1#8, 24#8], may (fun g => { ok := predOk 1#8 && g.dstOk (.vec 3) && 1 ≤ m.toNat && m.toNat ≤ 24
                                        writes := predReg 1#8 :: dstRegs false (.vec 3) }) = true) ∧
    (now.claims.filter (·.slot)).length < 8 := by decide +kernel

/-- A gang with four descriptors of an 8 by 8 tensor of E4M3 elements at 0x10000. -/
def matrixGang : Gang := (cmdGang [] (List.replicate 4 (tensor 1 0 7 8 8 8 0x10000))).begin

theorem witness_TileAndMatrixInstructions_products :
    let s := stateAs matrixGang
    let fw := BitVec.ofNat 32 (7 * 2 ^ 16 + 7 * 2 ^ 12)
    let f := fmtWord fw
    let ds := fun (n : Nat) => (matrixGang.descs 0 n).map tdescOf
    matrixGang.mayAccess = true ∧ matrixGang.active ≠ [] ∧ (s.cme 0).table.length < 32 ∧ matrixGang.strict = false ∧
    ¬ ((∃ l ∈ matrixGang.active, matrixGang.rd (.lit fw) l ≠ fw) ∨ 2 ≤ f.nbvc ∧ ¬ (f.nbvc = 3 ↔ crew.nbv = true)) ∧
    (∃ l ∈ matrixGang.active, matrixGang.rd (.vec 1) l ≠ matrixGang.rd (.vec 1) 0) ∧
    productOk .mma f (ds 2) = true ∧ productOk .mma2 f (ds 4) = true ∧ productOk .mmat f (ds 1) = true ∧ productOk .mma f (ds 1) = false ∧
    (∀ x ∈ [(MxKind.mma, 2), (.mma2, 4), (.mmat, 1)],
      let named := outTiles x.1 0 ++ (if x.1 = .mmat then [f.src] else [])
      let vas := (ds x.2).flatMap (fun d => d.pages d.whole)
      named.all crew.holds = true ∧ crew.tilesFree named = true ∧ (s.xlats 0 0 vas).length ≤ 1024 ∧
      firstCond ((ds x.2).flatMap (fun d => s.tdescConds crew 0 d { access := .asyncRead, host := false, part := d.whole })) = none ∧
      s.canIssue matrixGang
        { ok := tileOk 0#8 && matrixGang.srcOk (.lit fw) && (0#8).toNat + x.2 ≤ 16 && (0#8).toNat + x.2 ≤ matrixGang.tcount &&
            (x.1 ≠ .mma2 || (0#8).toNat % 4 = 0)
          tiles := (s.myCrew matrixGang).holds 0
          reads := srcRegs false (.lit fw) ++ (List.range x.2).map (fun i => 1024 + (0#8).toNat + i) } = true) := by decide +kernel

/-- The walks for the operands of a product, and of a structure operation, and the tiles that ARD and AWR find in use. -/
theorem witness_TileAndMatrixInstructions_walks :
    (stateAs matrixGang).walksTo (((matrixGang.descs 0 4).map tdescOf).flatMap (fun d => d.pages d.whole)) (stateAs matrixGang) ∧
    (let busy := (stateOf gang).modCrew 0 1 (fun w => { w with busy := [(1, 7)] })
     (busy.myCrew now).tilesFree [1] = false ∧
     busy.canIssue now { ok := 8 % 8 = 0 && 8 + 7 < now.vcount && tileOk 1#8 && now.srcOk (.lit 5#32) && uniOnly (.lit 5#32)
                         tiles := (busy.myCrew now).holds (1#8).toNat, reads := srcRegs false (.lit 5#32)
                         writes := (List.range 8).map (fun i => 8 + i) } = true) :=
  ⟨walksHere (by decide +kernel), by decide +kernel, by decide +kernel⟩

/-- Operands that trap, tiles that are in use, a full table, and a strict operand with a bad record, or with its sector failed. -/
theorem witness_TileAndMatrixInstructions_fails :
    let s := strictState ((List.range 32).map (fun i => (0x11000 + i, 0xFE#8)))
    let g := { strictGang with mode := 0x00010C00#32 }
    let d := tdescOf (g.t 0)
    let recs := (s.view g d).records
    let use : TUse := { access := .asyncRead, host := false, part := d.whole }
    let out : State := { s with ops := [{ id := 1, core := 0, slot := 0, seq := 0, kind := .store, spans := [{ addr := 0x11000, data := [1#8] }] }] }
    g.strict = true ∧ d.space ≠ 0 ∧ (kStepOf d.fmt).isSome = true ∧ firstCond (s.tdescConds crew 0 d use) = none ∧
    (firstCond (s.tdescConds crew 0 { d with base := 0x20000#64 } use)).isSome = true ∧
    s.canIssue g { ok := tileOk 1#8 && g.tdescOk 0#8 && true, tiles := crew.holds 1, reads := [tdescReg 0#8] } = true ∧
    ({ crew with busy := [(1, 7)] } : Crew).tilesFree [1] = false ∧
    32 ≤ ({ table := List.replicate 32 (mxEntry .ttrans 1 0#32 [] []) } : Cme).table.length ∧
    out.ownStoreIn { g with seq := 1 } recs = true ∧ s.ownStoreIn g recs = false ∧
    (s.readAll crew.part recs).2 = .wait ∧ ((holding s recs).readAll crew.part recs).2 = .ready ∧
    ((holding { s with bad := [(0x11000 / 32, 1#32)] } recs).readAll crew.part recs).2 = .bad (0x11000 / 32) ∧
    [d].any (fun d => s.strictBad (s.view g d) crew.nbv) = true ∧
    (strictState []).strictBad ((strictState []).view g d) crew.nbv = false := by decide +kernel

theorem witness_TileAndMatrixInstructions_structure :
    let s := stateAs matrixGang
    let t := tdescOf (matrixGang.t 0)
    t.space ≠ 0 ∧ (kStepOf t.fmt).isSome = true ∧ t.rows ≤ 128 ∧ t.cols ≤ 128 ∧
    s.canIssue matrixGang { ok := tileOk 1#8 && matrixGang.tdescOk 0#8 && true, tiles := crew.holds 1, reads := [tdescReg 0#8] } = true ∧
    s.canIssue matrixGang { ok := tileOk 1#8 && matrixGang.tdescOk 0#8 && decide (2 < matrixGang.vcount), tiles := crew.holds 1
                            reads := [tdescReg 0#8, 2] } = true ∧
    s.canIssue matrixGang { ok := tileOk 1#8 && matrixGang.tdescOk 0#8 && decide ((1#8).toNat ≤ 1), tiles := crew.holds 1
                            reads := [tdescReg 0#8] } = true := by decide +kernel

/-- A gang whose lanes are bound to an open record of its partition; g0 to g5 are the parameters of one. -/
def boundGang : Gang :=
  { cmdGang [64, 4, 0, 0, 0, 0, 0x10000, 0] [] with
    lanes := [(0, { st := .run, handle := 0x01000000#32, bindValid := true }), (1, { st := .run, handle := 0x01000000#32, bindValid := true })] }.begin

def trellisState : State :=
  { stateAs boundGang with trels := [(0, { recs := [(0, { gen := 1, part := 0, cap := 64, minl := 4, seed := 0, dtab := 0 })], gens := [(0, 1)] })] }

theorem witness_TrellisInstructionsGoOut :
    let g := boundGang
    let s := trellisState
    g.active ≠ [] ∧ g.count 10 < 63 ∧ paramsOk ((List.range 6).map (fun i => g.u (0 + i))) = true ∧
    s.canIssue g { ok := g.dstOk (.vec 3) && 0 % 2 = 0 && decide (0 + 5 < g.ucount), reads := uniRegs 0 6, writes := dstRegs false (.vec 3) } = true ∧
    s.canIssue g { ok := g.dstOk (.vec 3) && g.srcOk (.vec 1) && pathOk (.vec 3) [.vec 1], reads := srcRegs false (.vec 1)
                   writes := dstRegs false (.vec 3) } = true ∧
    (∀ l ∈ g.active, s.bound (g.lane l) = true) ∧ (∀ l ∈ g.workers (.vec 3), s.bound (g.lane l) = true) ∧
    s.canIssue g { ok := predOk 1#8 && g.srcOk (.vec 1) && g.srcOk (.vec 2), reads := srcRegs false (.vec 1) ++ srcRegs false (.vec 2)
                   writes := [predReg 1#8] } = true ∧
    s.canIssue g { ok := g.dstOk (.vec 3) && dstVec (.vec 3) && g.srcOk (.uni 6) && uniOnly (.uni 6) && g.dstOk (.uni 9) && dstUni (.uni 9)
                   reads := srcRegs false (.uni 6), writes := dstRegs false (.vec 3) ++ dstRegs false (.uni 9) } = true ∧
    firstCond (alignCheck (g.rd64 (.uni 6) 0) 64 ++ canonCheck (g.rd64 (.uni 6) 0)) = none ∧
    s.canIssue g { ok := g.src64Ok (.uni 6) && uniOnly (.uni 6), reads := srcRegs true (.uni 6) } = true ∧
    s.canIssue g { ok := g.dstOk (.vec 3) && g.src64Ok (.uni 6) && uniOnly (.uni 6), reads := srcRegs true (.uni 6)
                   writes := dstRegs false (.vec 3) } = true ∧
    s.canIssue g { ok := g.dstOk (.vec 3) && (4#8).toNat ≤ 4, writes := dstRegs false (.vec 3) } = true ∧
    s.canIssue g { ok := (1#8).toNat ≤ 1 } = true := by decide +kernel

/-- Parameters that break a range, at and beside its ends; images that fail; a counter that is full; no lane active. -/
theorem witness_TrellisInstructionsGoOut_fails :
    (∀ c ∈ [0, 2 ^ 20 + 1], paramsOk [BitVec.ofNat 32 c, 4#32, 0#32, 0#32, 0#32, 0#32] = false) ∧
    (∀ c ∈ [64, 2 ^ 20], paramsOk [BitVec.ofNat 32 c, 4#32, 0#32, 0#32, 0#32, 0#32] = true) ∧
    (∀ k ∈ [0, 65], paramsOk [64#32, BitVec.ofNat 32 k, 0#32, 0#32, 0#32, 0#32] = false) ∧
    paramsOk [64#32, 4#32, 0#32, 0#32, 0#32, 1#32] = false ∧
    (firstCond (alignCheck 0x10020#64 64 ++ canonCheck 0x10020#64)).isSome = true ∧
    ({ gang with flights := List.replicate 63 { seq := 0, path := 10, done := false, locs := [] } } : Gang).count 10 = 63 ∧
    mayIdle (fun g => { ok := g.dstOk (.vec 3) && 0 % 2 = 0 && decide (0 + 5 < g.ucount), reads := uniRegs 0 6, writes := dstRegs false (.vec 3) }) = true ∧
    mayIdle (fun g => { ok := g.dstOk (.vec 3) && g.srcOk (.vec 1) && pathOk (.vec 3) [.vec 1], reads := srcRegs false (.vec 1), writes := dstRegs false (.vec 3) }) = true ∧
    mayIdle (fun g => { ok := g.dstOk (.vec 3) && dstVec (.vec 3) && g.srcOk (.uni 6) && uniOnly (.uni 6) && g.dstOk (.uni 9) && dstUni (.uni 9)
                        reads := srcRegs false (.uni 6), writes := dstRegs false (.vec 3) ++ dstRegs false (.uni 9) }) = true ∧
    mayIdle (fun g => { ok := g.src64Ok (.uni 6) && uniOnly (.uni 6), reads := srcRegs true (.uni 6) }) = true ∧
    mayIdle (fun g => { ok := g.dstOk (.vec 3) && (4#8).toNat ≤ 4, writes := dstRegs false (.vec 3) }) = true ∧
    mayIdle (fun _ => { ok := (1#8).toNat ≤ 1 }) = true := by decide +kernel

theorem witness_TrellisInstructionsGoOut_unbound :
    may (fun g => { ok := predOk 1#8 && g.srcOk (.vec 1) && g.srcOk (.vec 2), reads := srcRegs false (.vec 1) ++ srcRegs false (.vec 2)
                    writes := [predReg 1#8] }) = true ∧
    may (fun g => { ok := g.dstOk (.vec 3) && g.srcOk (.vec 1) && pathOk (.vec 3) [.vec 1], reads := srcRegs false (.vec 1), writes := dstRegs false (.vec 3) }) = true ∧
    may (fun g => { ok := g.dstOk (.vec 3) && (4#8).toNat ≤ 4, writes := dstRegs false (.vec 3) }) = true ∧ may (fun _ => { ok := (1#8).toNat ≤ 1 }) = true ∧
    may (fun g => { ok := g.dstOk (.vec 3) && dstVec (.vec 3) && g.srcOk (.uni 6) && uniOnly (.uni 6) && g.dstOk (.uni 9) && dstUni (.uni 9)
                    reads := srcRegs false (.uni 6), writes := dstRegs false (.vec 3) ++ dstRegs false (.uni 9) }) = true ∧
    may (fun g => { ok := g.src64Ok (.uni 6) && uniOnly (.uni 6), reads := srcRegs true (.uni 6) }) = true ∧
    0 ∈ now.active ∧ crewState.bound (now.lane 0) = false ∧ now.active.Pairwise (· < ·) ∧ (∀ j ∈ now.active, 0 ≤ j) := by decide +kernel

theorem witness_ReadersAndRetirement :
    let inside : Gang := { gang with lanes := [(0, { st := .run, nest := 1 }), (1, { st := .run, nest := 2 })] }
    let deep : Gang := { gang with lanes := [(0, { st := .run, nest := 15 }), (1, { st := .run, nest := 2 })] }
    let sg : Sig := { ok := true, lat := some 4 }
    (crewState.canIssue now sg = true ∧ (∀ l ∈ now.active, (now.lane l).nest ≠ 15)) ∧
    ((stateOf inside).canIssue inside.begin sg = true ∧ (∀ l ∈ inside.begin.active, (inside.begin.lane l).nest ≠ 0)) ∧
    ((stateOf deep).canIssue deep.begin sg = true ∧ 0 ∈ deep.begin.active ∧ deep.begin.active.Pairwise (· < ·) ∧ (deep.begin.lane 0).nest = 15) ∧
    0 ∈ now.active ∧ (now.lane 0).nest = 0 := by decide +kernel

theorem witness_ReadersAndRetirement_lodge :
    let vas := [(now.active.headD 0, now.rd64 (.uni 4) 0)]
    let g := (cmdGang [0x10000, 0, 4096, 0] []).begin
    let ws := g.descWords 0xC0#8 4
    may (fun g => { ok := g.src64Ok .zero && uniOnly .zero && g.src64Ok (.uni 4) && uniOnly (.uni 4)
                    reads := srcRegs true .zero ++ srcRegs true (.uni 4) }) = true ∧
    now.mayAccess = true ∧ crewState.earlierDone now 5 = true ∧
    ((stateAs g).canIssue g { ok := g.dstOk (.vec 3) && g.descOk 0xC0#8 4, reads := uniRegs (descBase 0xC0#8) 4, writes := dstRegs false (.vec 3) } = true ∧
      wordAt ws 2 ≠ 0 ∧ wordAt ws 3 ≤ 2 ∧ (stateAs g).earlierDone g 5 = true ∧ (g.claims.filter (·.slot)).length < 8) ∧
    may (fun g => { ok := g.dstOk (.vec 3) && (5#8).toNat ≤ 5, writes := dstRegs false (.vec 3) }) = true ∧
    (∃ refs, crewState.resolve .update 8 vas = .ok refs) ∧ crewState.walksTo [now.rd64 (.uni 4) 0] crewState ∧
    (stateAs (cmdGang [0x10000, 0, 4096, 2] []).begin).walksTo [0x10000#64] (stateAs (cmdGang [0x10000, 0, 4096, 2] []).begin) := by
  and_intros <;> first
    | decide +kernel
    | exact okay (by decide +kernel)
    | exact walksHere (by decide +kernel)

/-- Readers without an active lane; addresses and blocks that trap; a full scoreboard; accesses that are still out. -/
theorem witness_ReadersAndRetirement_fails :
    let g := fun (ws : List Nat) => (cmdGang ws []).begin
    let ws := fun (xs : List Nat) => (g xs).descWords 0xC0#8 4
    mayIdle (fun g => { ok := g.src64Ok .zero && uniOnly .zero && g.src64Ok (.uni 4) && uniOnly (.uni 4)
                        reads := srcRegs true .zero ++ srcRegs true (.uni 4) }) = true ∧
    mayIdle (fun g => { ok := g.dstOk (.vec 3) && g.descOk 0xC0#8 4, reads := uniRegs (descBase 0xC0#8) 4, writes := dstRegs false (.vec 3) }) = true ∧
    mayIdle (fun g => { ok := g.dstOk (.vec 3) && (5#8).toNat ≤ 5, writes := dstRegs false (.vec 3) }) = true ∧ idle.begin.mayAccess = true ∧
    (crewState.resolve .update 8 [(0, 0x10004#64)]).isOk = false ∧
    (ws [0x10000, 0, 0, 0]).getD 2 0#32 = 0#32 ∧ 2 < ((ws [0x10000, 0, 4096, 3]).getD 3 0#32).toNat ∧
    ((ws [0x10000, 0, 4096, 2]).getD 2 0#32 ≠ 0#32 ∧ ((ws [0x10000, 0, 4096, 2]).getD 3 0#32).toNat ≤ 2) ∧
    8 ≤ (({ gang with claims := List.replicate 8 { seq := 0, slot := true, locs := [] } } : Gang).claims.filter (·.slot)).length ∧
    (.vec 3 : Dst) ≠ .none ∧ outState.earlierDone now 5 = false ∧
    outState.canIssue now { ok := now.src64Ok .zero && uniOnly .zero && now.src64Ok (.uni 4) && uniOnly (.uni 4)
                            reads := srcRegs true .zero ++ srcRegs true (.uni 4) } = true := by decide +kernel

/-! ### The privileged slot -/

theorem witness_PrivilegedInstructions :
    let g := privGang.begin
    g.active ≠ [] ∧
    (∀ n ∈ [0#8, 1#8, 2#8, 3#8],
      mayPriv (fun g => { ok := g.src64Ok (.uni 4) && uniOnly (.uni 4) && n.toNat ≤ 3, reads := srcRegs true (.uni 4), priv := true }) = true ∧
      mayIdlePriv (fun g => { ok := g.src64Ok (.uni 4) && uniOnly (.uni 4) && n.toNat ≤ 3, reads := srcRegs true (.uni 4), priv := true }) = true) ∧
    (∀ f ∈ [mayPriv, mayIdlePriv],
      f (fun _ => { ok := true, priv := true }) = true ∧
      f (fun g => { ok := g.srcOk .zero && uniOnly .zero, reads := srcRegs false .zero, priv := true }) = true ∧
      f (fun g => { ok := g.src64Ok (.uni 4) && uniOnly (.uni 4), reads := srcRegs true (.uni 4), priv := true }) = true) ∧
    privState.gang? 0 (g.rd .zero 0).toNat = some gang ∧ privState.gang? 0 5 = none ∧ 64 ≤ (g.rd (.lit 64#32) 0).toNat ∧
    (g.rd64 (.uni 4) 0).toNat % 8192 = 0 ∧ (g.rd64 (.lit 0x123#32) 0).toNat % 8192 ≠ 0 := by decide +kernel

/-- Block 3 of the privileged code may be entered; block 4 may not, 0x41 names no first slot, and there is no code above 16 MiB. -/
def codeState : State := privState.modCore 0 (fun x => { x with privCode := [(0xC3, 0x40#8)] })

/-- The signature and the targets of ERET by a literal, there. -/
def eretBy (x : BitVec 32) : Sig := eretSig codeState (.lit x) privGang.begin
def goalsBy (x : BitVec 32) : List (Nat × Goal) :=
  privGang.begin.exm.map (fun l => (l, regGoal 0#64 (privGang.begin.rd (.lit x) (privGang.begin.active.headD 0))))

theorem witness_PrivilegedInstructions_targets :
    codeState.issuing = some privGang.begin ∧ codeState.cur.slot = privSlot ∧
    (eretBy 0x100#32).waits privGang.begin = false ∧ closedLane codeState (goalsBy 0x100#32) = some 0 ∧
    codeState.seesHeads privGang.begin (eretBy 0x100#32) = true ∧
    codeState.canIssue privGang.begin (eretBy 0xC0#32) = true ∧ goalsBy 0xC0#32 = [(0, .block 3)] ∧ codeState.mayEnter 0 64 3 = true ∧
    codeState.canIssue privGang.begin (eretBy 0x41#32) = true ∧ (goalTrap codeState (goalsBy 0x41#32)).isSome = true ∧
    (goalTrap codeState (goalsBy 0x100#32)).isSome = true := by decide +kernel

theorem witness_PrivilegedInstructions_idle :
    idlePriv.begin.active = [] ∧ (privOf idlePriv).canIssue idlePriv.begin (eretSig (privOf idlePriv) .zero idlePriv.begin) = true := by
  decide +kernel

/-- Slots of every kind for SLOTCFG: a gang that runs, one stopped by a trap, by a page fault, or by SLOTCFG, with its instruction in
the store. -/
theorem witness_PrivilegedInstructions_slotcfg :
    let s := fun (g : Gang) => placed.modCore 0 (fun x => { x with slots := [(0, g), (64, privGang)] })
    let g : Gang := { ((placed.gang? 0 0).getD {}) with stopped := true }
    (match (s g).fetch 0 0 with | .instr i len stall _ => decide (i = .iadd (.vec 3) (.vec 1) (.vec 2) ∧ len = 1 ∧ stall = 0) | _ => false) = true ∧
    (match (s { g with block := 9, slot := 15 }).fetch 0 0 with | .instr _ _ _ _ => true | .bad _ _ _ => true) = true ∧
    gang.stopped = false ∧ g.stopped = true ∧ g.faultStop = false ∧ ({ g with faultStop := true } : Gang).faultStop = true := by decide +kernel

theorem witness_SaveAndRestore :
    let g := privGang.begin
    let d : Dst := .uni 8
    let sg := fun (b : Src) (g : Gang) => ({ ok := g.dstOk d && g.src64Ok (.uni 4) && uniOnly (.uni 4) && g.srcOk b && uniOnly b
                                             reads := srcRegs true (.uni 4) ++ srcRegs false b, writes := dstRegs false d, priv := true } : Sig)
    let sgL := fun (g : Gang) => ({ ok := g.dstOk d && g.src64Ok (.uni 4) && uniOnly (.uni 4), reads := srcRegs true (.uni 4)
                                    writes := dstRegs false d, priv := true } : Sig)
    let lost := privState.modCore 0 (fun x => { x with saveLost := [1] })
    let far : State := { privState with lodge := { privState.lodge with reported := [(0, [])] } }
    mayPriv (sg .zero) = true ∧ mayPriv (sg (.lit 5#32)) = true ∧ mayPriv (sg (.lit 64#32)) = true ∧ mayPriv sgL = true ∧
    mayIdlePriv (sg .zero) = true ∧ mayIdlePriv sgL = true ∧ g.active ≠ [] ∧
    (privState.core 0).savingOf (g.rd .zero 0).toNat = none ∧ privState.gang? 0 (g.rd .zero 0).toNat = some gang ∧
    privState.gang? 0 5 = none ∧ g.seq ∉ (privState.core 0).saveLost ∧ (g.seq ∈ (lost.core 0).saveLost ∧ lost.canIssue g (sg .zero g) = true) ∧
    (privState.contained 0 = false ∧ far.contained (far.crew 0 1).part = true ∧ far.canIssue g (sg .zero g) = true) ∧
    (privState.areaSpots .update 0x20000#64 256).isOk = false ∧ (privState.areaSpots .loadHbm 0x20000#64 256).isOk = false := by decide +kernel

/-- A crew of one slot, small enough that its area fits one page. -/
def smallCrew : Crew := { num := 1, grid := 1, slots := [0], vcount := 8, ucount := 4, vOf := [8], roleOf := [0] }
def smallGang : Gang := { crew := 1, vcount := 8, ucount := 4, tcount := 0, lanes := [(0, { st := .run })] }

def smallState : State :=
  { privState with
    cores := [(0, { online := true, slots := [(0, smallGang), (64, privGang)], crews := [(1, smallCrew)], tlb := [page 0, page 64] })] }

theorem witness_SaveAndRestore_ctxst :
    (∃ spots, smallState.areaSpots .update 0x10000#64 (smallState.areaShape 0 1).size = .ok spots) ∧
    (∀ p ∈ [1, 4], ∀ q ∈ [1, 9],
      let v : Saving := { spots := [], id := 1, seq := q }
      let w : Crew := { smallCrew with saving := some v, parking := p }
      let s : State := { smallState with
        cores := [(0, { online := true, slots := [(0, { smallGang with saving := true }), (64, privGang)], crews := [(1, w)], tlb := [page 64] })] }
      (s.core 0).savingOf 0 = some (1, w, v) ∧ s.settled (enginePort 0) v.id = true ∧ s.contained w.part = false ∧
      ({ s with lodge := { s.lodge with reported := [(0, [])] } } : State).contained w.part = true ∧ s.issuing = some privGang.begin ∧
      privGang.begin.seq ∉ (s.core 0).saveLost) := ⟨okay (by decide +kernel), by decide +kernel⟩

/-- The area of the small crew. -/
def areaBytes : List (BitVec 8) := leBytes 4 areaMagic ++ (smallState.areaImage 0 1).drop 4

/-- Core 0 with no crew, and an area in memory at 0x10000, its lines held. -/
def areaOf (bs : List (BitVec 8)) : State :=
  holding { privState with
    cores := [(0, { online := true, slots := [(64, privGang)], tlb := [page 0, page 64] })]
    mem := ((List.range bs.length).zip bs).filterMap (fun p => if p.2 = 0#8 then none else some (0x10000 + p.1, p.2)) }
    [{ a := 0x10000, n := 4096 }]

def areaState : State := areaOf areaBytes

/-- What CTXLD reads of an area; its lines are held, and none fails. -/
def areaRead (s : State) (n : Nat) : Option (List (BitVec 8)) :=
  match s.areaSpots .loadHbm 0x10000#64 n with
  | .ok spots =>
    if (s.accessAll false spots).2 && (s.spotBad spots).isNone then some (spots.flatMap (fun p => s.bytes p.a p.n)) else none
  | .error _ => none

/-- The area of the tests passes the checks before its codes, and its codes are read as told; the room suffices. -/
def areaGoes (s : State) (codes : Bool) : Bool :=
  match areaRead s 256 with
  | some head => areaHeadOk head && (match areaRead s (256 + 2048 * fieldAt head 6 2) with
    | some recs => areaShapeOk recs && (match areaRead s (areaShapeOf recs).size with
      | some bs => areaCodesOk bs == codes && (areaEntryPages bs).isEmpty
      | none => false) &&
      (let shape := areaShapeOf recs
       ((s.core 0).fits { vs := shape.vs, sc := shape.sc, bars := shape.bars, tiles := shape.tiles }).isSome &&
       decide ((s.cme 0).table.length + shape.mx ≤ 32))
    | none => false)
  | none => false

/-- An area of which MAGIC may be written, and no area at all. -/
theorem witness_SaveAndRestore_ctxld :
    areaState.canIssue privGang.begin { ok := privGang.begin.dstOk (.uni 8) && privGang.begin.src64Ok (.uni 4) && uniOnly (.uni 4)
                                        reads := srcRegs true (.uni 4), writes := dstRegs false (.uni 8), priv := true } = true ∧
    (match areaRead (areaOf []) 256 with | some h => ! areaHeadOk h | none => false) = true ∧
    (areaState.accessAll true [{ a := 0x10000, n := 4 }]).2 = true := by decide +kernel

/-- An area with an element type that is no code in its gang's MODE (byte 1 of its record). -/
theorem witness_SaveAndRestore_codes : areaGoes (areaOf (areaBytes.set 257 0x0F#8)) false = true := by decide +kernel

/-- The area of the crew with no gang in its slot (byte 23 of the record). -/
theorem witness_SaveAndRestore_sound : areaGoes (areaOf (areaBytes.set 279 0#8)) true = true := by decide +kernel

theorem witness_SaveAndRestore_pages :
    areaState.walksTo ((pageCuts 0x10000#64 256).map (·.1)) areaState ∧
    areaState.walksTo ((pageCuts 0x10000#64 (256 + 2048 * fieldAt areaBytes 6 2)).map (·.1)) areaState ∧
    areaState.walksTo ((pageCuts 0x10000#64 (areaShapeOf areaBytes).size).map (·.1)) areaState ∧
    smallState.walksTo ((pageCuts 0x10000#64 (smallState.areaShape 0 1).size).map (·.1)) smallState := by
  and_intros <;> exact walksHere (by decide +kernel)

/-- A core without room, a table without room, an area whose first sector fails, and areas whose lines are not held. -/
theorem witness_SaveAndRestore_full :
    ({ crews := [(1, { slots := List.range 64 })] } : Core).fits { vs := [8], sc := 0, bars := 0, tiles := 0 } = none ∧
    32 - ({ table := List.replicate 32 (mxEntry .ttrans 1 0#32 [] []) } : Cme).table.length < 1 ∧
    ({ areaState with bad := [(0x800, 1#32)] }.spotBad [{ a := 0x10000, n := 256 }]).isSome = true ∧
    (privState.accessAll false [{ a := 0x10000, n := 256 }]).2 = false := by
  decide +kernel

end Sys2Proof.Tests
end

