-- ==== Sys2Proof/Tests/Pages.lean ====
section
/-! SUPPORT. A tensor operand on 1,025 pages, one more than an entry of the matrix table takes (R197). -/

namespace Sys2Proof.Tests
open Sys2Proof.Machine

/-- The i-th page from 0x10000000 on, and a core that holds 1,025 of them. -/
def nthPage (i : Nat) : Tlb := { root := 0, va := 0x10000000 + 4096 * i, size := 4096, dpa := 0x10000000 + 4096 * i, write := true, exec := true }

def manyGang : Gang := (cmdGang [] [tensor 1 0 7 1025 8 4096 0x10000000]).begin

def manyOf (ts : List Tlb) : State := (stateAs manyGang).modCore 0 (fun x => { x with tlb := ts })
def manyState : State := manyOf ((List.range 1025).map nthPage)

def nthVa (i : Nat) : BitVec 64 := BitVec.ofNat 64 (0x10000000 + 4096 * i)

theorem manyOf_tlb (ts : List Tlb) : ((manyOf ts).core 0).tlb = ts := rfl

theorem manyOf_cur (ts : List Tlb) : (manyOf ts).cur.core = 0 := rfl

theorem manyOf_slot (ts : List Tlb) : (manyOf ts).cur.slot = 0 := rfl

theorem manyOf_root (ts : List Tlb) : (manyOf ts).rootOf 0 0 = 0 := rfl

theorem many_core : (manyState.core 0).tlb = (List.range 1025).map nthPage := manyOf_tlb _

theorem many_low {i : Nat} (h : i < 1025) : vaLow (nthVa i) = 0x10000000 + 4096 * i := by
  simp only [vaLow, nthVa, BitVec.toNat_ofNat]; omega

theorem many_find {i : Nat} (h : i < 1025) :
    ((List.range 1025).map nthPage).find? (fun t => t.covers 0 (vaLow (nthVa i))) = some (nthPage i) := by
  rw [many_low h, List.find?_map]
  have : List.find? ((fun t => t.covers 0 (0x10000000 + 4096 * i)) ∘ nthPage) (List.range 1025) = some i := by
    rw [List.find?_range_eq_some]
    refine ⟨by simp [Tlb.covers, nthPage], List.mem_range.mpr h, fun j hj => ?_⟩
    have : ¬ 0x10000000 + 4096 * i < 0x10000000 + 4096 * j + 4096 := by omega
    simp [Tlb.covers, nthPage, this]
  rw [this]; rfl

theorem many_translate {i : Nat} (h : i < 1025) : manyState.translate 0 0 (nthVa i) = .ok (nthPage i) := by
  unfold State.translate
  simp only [many_core, many_find h]

theorem xlats_known {s : State} {c root : Nat} {v : Nat → BitVec 64} {t : Nat → Tlb} (ht : ∀ i j, t i = t j → i = j) :
    ∀ n, (∀ i < n, s.translate c root (v i) = .ok (t i)) → s.xlats c root ((List.range n).map v) = (List.range n).map t := by
  intro n
  induction n with
  | zero => exact fun _ => rfl
  | succ n ih =>
    intro h
    have hn : t n ∉ (List.range n).map t := by
      simp only [List.mem_map, List.mem_range, not_exists, not_and]
      exact fun j hj e => by have := ht _ _ e; omega
    have := ih (fun i hi => h i (by omega))
    simp only [State.xlats] at this ⊢
    simp [List.range_succ, this, h n (by omega), hn]

theorem many_pages : ((tdescOf (manyGang.t 0)).pages (tdescOf (manyGang.t 0)).whole) = (List.range 1025).map nthVa := by
  decide +kernel

theorem many_target {i : Nat} (h : i < 1025) : targetOf (0x10000000 + 4096 * i) = .hbm := by
  rw [targetOf, if_pos (by omega)]

theorem many_checks {i : Nat} (h : i < 1025) : manyState.checkAddr 0 0 .asyncRead (nthVa i) 1 = .ok (0x10000000 + 4096 * i, nthPage i) := by
  have hc : canonical (nthVa i) = true := by
    have : ∀ i < 1025, canonical (nthVa i) = true := by decide +kernel
    exact this i h
  have hd : (nthPage i).dpaOf (vaLow (nthVa i)) = 0x10000000 + 4096 * i := by simp [Tlb.dpaOf, many_low h, nthPage]
  have ht : manyState.targetCond .asyncRead (0x10000000 + 4096 * i) = none := by
    unfold State.targetCond
    rw [many_target h]
  simp [State.checkAddr, hc, many_translate h, hd, ht, Nat.mod_one, Access.writes]

theorem many_vaConds : manyState.vaConds 0 .asyncRead false ((List.range 1025).map nthVa) = [] := by
  rw [State.vaConds, List.filterMap_eq_nil_iff]
  intro va hv
  obtain ⟨i, hi, rfl⟩ := List.mem_map.mp hv
  have hi := List.mem_range.mp hi
  rw [show manyState.cur.core = 0 from manyOf_cur _, many_checks hi]
  simp [many_target hi]

/-- What can be wrong with a tensor in memory that is not scaled and well aligned: its addresses. -/
theorem plain_conds {s : State} {w : Crew} {root : Nat} {d : TDesc} {u : TUse} (hsc : d.sc = false) (hs : d.space = 1)
    (hu : d.space ∈ u.spaces) (hb : d.base.toNat % d.z = 0) (hp : d.pitch % d.z = 0) :
    s.tdescConds w root d u = s.vaConds root u.access u.host (d.pages u.part) := by
  rw [hs] at hu
  simp [State.tdescConds, TDesc.pages, hsc, hs, hu, hb, hp]

/-- A TRSUM over 1,025 rows of eight elements, each on a page of its own: no address fails, and the operand takes 1,025 translations. -/
theorem witness_TileAndMatrixInstructions_pages :
    let d := tdescOf (manyGang.t 0)
    manyState.canIssue manyGang { ok := tileOk 1#8 && manyGang.tdescOk 0#8 && decide ((0#8).toNat ≤ 1), tiles := crew.holds 1
                                  reads := [tdescReg 0#8] } = true ∧
    manyGang.active ≠ [] ∧ manyGang.mayAccess = true ∧ d.space = 1 ∧ (kStepOf d.fmt).isSome = true ∧ d.sc = false ∧ d.cols ≤ 128 ∧ d.rows ≠ 0 ∧
    manyState.walksTo (d.pages d.whole) manyState ∧
    firstCond (manyState.tdescConds (manyState.myCrew manyGang) 0 d { access := .asyncRead, host := false, part := d.whole }) = none ∧
    1024 < (manyState.xlats 0 0 (d.pages d.whole)).length := by
  refine ⟨by decide +kernel, by decide +kernel, by decide +kernel, by decide +kernel, by decide +kernel, by decide +kernel,
    by decide +kernel, by decide +kernel, ?_, ?_, ?_⟩
  · refine walksHere (List.all_eq_true.mpr (fun va hv => ?_))
    rw [show manyState.cur.core = 0 from manyOf_cur _, show manyState.cur.slot = 0 from manyOf_slot _,
      show manyState.rootOf 0 0 = 0 from manyOf_root _, many_core]
    rw [many_pages] at hv
    obtain ⟨i, hi, rfl⟩ := List.mem_map.mp hv
    have := many_find (List.mem_range.mp hi)
    exact List.any_eq_true.mpr ⟨nthPage i, List.mem_of_find?_eq_some this, by simpa using List.find?_some this⟩
  · rw [plain_conds (d := tdescOf (manyGang.t 0)) (by decide +kernel) (by decide +kernel) (by decide +kernel) (by decide +kernel) (by decide +kernel), many_pages,
      many_vaConds]
    rfl
  · rw [many_pages, xlats_known (t := nthPage) _ 1025 (fun i hi => many_translate hi)]
    · simp
    · intro i j h
      have := congrArg Tlb.va h
      simp only [nthPage] at this
      omega

end Sys2Proof.Tests
end

section
/-! SUPPORT and settlement of O31: RDSR and WRSR (R115), and the value of each special register (R36 to R42). -/

namespace Sys2Proof.Machine

/-! ### The fields of GHREF (R40) -/

/-- The layout of GHREF: ACTIVE in bit 31, BANK from bit 24, REMAIN from bit 16, NEXT from bit 0. -/
def ghrefWord (active bank remain next : Nat) : BitVec 32 :=
  BitVec.ofNat 32 (2 ^ 31 * active + 2 ^ 24 * bank + 2 ^ 16 * remain + next)

section
variable {a b r n : Nat} (ha : a < 2) (hb : b < 32) (hr : r < 64) (hn : n < 512)
include ha hb hr hn

theorem ghrefWord_toNat : (ghrefWord a b r n).toNat = 2 ^ 31 * a + 2 ^ 24 * b + 2 ^ 16 * r + n := by
  rw [ghrefWord, BitVec.toNat_ofNat]; omega

theorem ghrefWord_active : (ghrefWord a b r n).getLsbD 31 = decide (a = 1) := by
  rw [BitVec.getLsbD, Nat.testBit_eq_decide_div_mod_eq, ghrefWord_toNat ha hb hr hn, decide_eq_decide]
  omega

/-- A field of GHREF is read off its number. -/
theorem ghrefWord_field {i k v : Nat} (h : (2 ^ 31 * a + 2 ^ 24 * b + 2 ^ 16 * r + n) / 2 ^ i % 2 ^ k = v % 2 ^ k) :
    (ghrefWord a b r n).extractLsb' i k = BitVec.ofNat k v := by
  apply BitVec.eq_of_toNat_eq
  rw [BitVec.extractLsb'_toNat, ghrefWord_toNat ha hb hr hn, Nat.shiftRight_eq_div_pow, BitVec.toNat_ofNat, h]

theorem ghrefWord_bank : (ghrefWord a b r n).extractLsb' 24 5 = BitVec.ofNat 5 b :=
  ghrefWord_field ha hb hr hn (by omega)

theorem ghrefWord_remain : (ghrefWord a b r n).extractLsb' 16 6 = BitVec.ofNat 6 r :=
  ghrefWord_field ha hb hr hn (by omega)

theorem ghrefWord_next : (ghrefWord a b r n).extractLsb' 0 9 = BitVec.ofNat 9 n :=
  ghrefWord_field ha hb hr hn (by omega)

end

/-- What the four fields of GHREF hold at a phase, inside the refresh window of a bank and outside. -/
theorem ghrefAt_fields (phase : Nat) :
    let p := phase % 8192
    (ghrefAt phase).getLsbD 31 = decide (p % 256 < 48) ∧
    (p % 256 < 48 → (ghrefAt phase).extractLsb' 24 5 = BitVec.ofNat 5 (p / 256) ∧
      (ghrefAt phase).extractLsb' 16 6 = BitVec.ofNat 6 (256 * (p / 256) + 48 - p)) ∧
    (48 ≤ p % 256 → (ghrefAt phase).extractLsb' 24 5 = BitVec.ofNat 5 (p / 256 + 1) ∧
      (ghrefAt phase).extractLsb' 16 6 = 0#6) ∧
    (ghrefAt phase).extractLsb' 0 9 = BitVec.ofNat 9 (256 * (p / 256 + 1) - p) := by
  intro p
  have hp : p / 256 < 32 := by omega
  have hnext : 256 - p % 256 < 512 := by omega
  have hclocks : 256 - p % 256 = 256 * (p / 256 + 1) - p := by omega
  by_cases h : p % 256 < 48
  · have hw : ghrefAt phase = ghrefWord 1 (p / 256) (48 - p % 256) (256 - p % 256) := if_pos h
    have hr : 48 - p % 256 < 64 := by omega
    have hleft : 48 - p % 256 = 256 * (p / 256) + 48 - p := by omega
    rw [hw, ghrefWord_active (by decide) hp hr hnext, ghrefWord_bank (by decide) hp hr hnext,
      ghrefWord_remain (by decide) hp hr hnext, ghrefWord_next (by decide) hp hr hnext, hleft, hclocks]
    exact ⟨by simp [h], fun _ => ⟨rfl, rfl⟩, fun ho => absurd h (by omega), rfl⟩
  · have hw : ghrefAt phase = ghrefWord 0 ((p / 256 + 1) % 32) 0 (256 - p % 256) := by
      refine (if_neg h).trans ?_
      simp [ghrefWord, p]
    have hb : (p / 256 + 1) % 32 < 32 := Nat.mod_lt _ (by decide)
    rw [hw, ghrefWord_active (by decide) hb (by decide) hnext, ghrefWord_bank (by decide) hb (by decide) hnext,
      ghrefWord_remain (by decide) hb (by decide) hnext, ghrefWord_next (by decide) hb (by decide) hnext, hclocks]
    have hbank : BitVec.ofNat 5 ((p / 256 + 1) % 32) = BitVec.ofNat 5 (p / 256 + 1) := BitVec.eq_of_toNat_eq (by simp)
    exact ⟨by simp [h], fun hi => absurd hi h, fun _ => ⟨hbank, rfl⟩, rfl⟩

/-! ### The other values (R36 to R41) -/

/-- A register of two words is its halves, the upper one first. -/
theorem halves_append (x : BitVec 64) : (x >>> 32).setWidth 32 ++ x.setWidth 32 = x := by
  ext i hi
  simp only [BitVec.getElem_append, BitVec.getElem_setWidth, BitVec.getLsbD_ushiftRight]
  split
  · rfl
  · rw [show 32 + (i - 32) = i by omega, BitVec.getLsbD_eq_getElem hi]

/-- NBV is bit 7 of the crew's MODEB, as a word. -/
theorem word_bit_seven (x : Nat) : BitVec.ofNat 32 (x / 128 % 2) = if x.testBit 7 then 1#32 else 0#32 := by
  rw [Nat.testBit_eq_decide_div_mod_eq]
  rcases Nat.mod_two_eq_zero_or_one (x / 128) with h | h <;> simp [h]

theorem State.special_beyond (s : State) (g : Gang) {n : Nat} (h : 0x16 < n) (l : Nat) : s.special g n l = 0#32 := by
  unfold State.special
  split
  case h_24 => rfl
  all_goals omega

/-- The low word of CYC (R38). -/
theorem State.special_cyclo (s : State) (g : Gang) (l : Nat) :
    s.special g 0x05 l = BitVec.ofNat 32 (s.clock - (s.core s.cur.core).cyc0) := by
  simp [State.special, State.cyc]

/-- FEAT1 names the features of R41, bit 5 with a CXL link only. -/
theorem State.special_feat1 (s : State) (g : Gang) (l : Nat) :
    s.special g 0x0B l = if s.lodge.cxl then 0x3F#32 else 0x1F#32 := by
  cases h : s.lodge.cxl <;> simp [State.special, h]

/-! ### RDSR (R115) -/

/-- What RDSR of register r asks of its issue. -/
abbrev rdsrSig (d : Dst) (r : BitVec 8) (g : Gang) : Sig :=
  { ok := g.dstOk d && r.toNat ≤ 0x16, writes := dstRegs false d, lat := some 6 }

theorem execRdsr_reserved {s : State} {g : Gang} {d : Dst} {r : BitVec 8} (hi : s.issuing = some g)
    (hh : s.seesHeads g (rdsrSig d r g) = true) (hr : 0x16 < r.toNat) :
    execRdsr d r s = .next (s.traps { cause := 0x02 }) :=
  issue_illegal _ hi nofun rfl nofun (by simp; omega) hh

theorem execRdsr_idle {s : State} {g : Gang} {d : Dst} {r : BitVec 8} (hc : s.canIssue g (rdsrSig d r g) = true)
    (ha : g.active = []) : execRdsr d r s = .next (s.ends (rdsrSig d r g) (s.put g)) :=
  issue_go hc (if_pos ha)

theorem execRdsr_reads {s : State} {g : Gang} {d : Dst} {r : BitVec 8} (hc : s.canIssue g (rdsrSig d r g) = true)
    (ha : g.active ≠ []) (hf : r = 0x08#8 → s.flagsOwed = false) :
    let h := if r = 0x05#8 then { g with cychi := (s.cyc s.cur.core >>> 32).setWidth 32 } else g
    execRdsr d r s = .next (s.ends (rdsrSig d r g)
      (s.put (h.schedule 6 (g.laneWrites d (fun l => ([s.special g r.toNat l], 0#32)))))) := by
  have hwait : ¬ (r.toNat = 0x08 ∧ s.flagsOwed = true) := fun ⟨hr, ho⟩ => by
    simp [hf (BitVec.eq_of_toNat_eq hr)] at ho
  have hlatch : r.toNat = 0x05 ↔ r = 0x05#8 := BitVec.toNat_inj (y := 0x05#8)
  refine issue_go hc ?_
  simp only [if_neg ha, if_neg hwait, hlatch, Gang.results_eq]

/-! ### WRSR (R37, R115) -/

/-- What WRSR to register n asks of its issue. -/
abbrev wrsrSig (n : BitVec 8) (a : Src) (g : Gang) : Sig :=
  { ok := n.toNat ≤ 0x16 && g.srcOk a, reads := srcRegs false a, priv := n = 0x16#8 }

theorem execWrsr_reserved {s : State} {g : Gang} {n : BitVec 8} {a : Src} (hi : s.issuing = some g)
    (hh : s.seesHeads g (wrsrSig n a g) = true) (hn : 0x16 < n.toNat) :
    execWrsr n a s = .next (s.traps { cause := 0x02 }) := by
  have hpriv : n ≠ 0x16#8 := by rintro rfl; simp at hn
  exact issue_illegal _ hi nofun rfl (by simp [hpriv]) (by simp; omega) hh

theorem execWrsr_idle {s : State} {g : Gang} {n : BitVec 8} {a : Src} (hc : s.canIssue g (wrsrSig n a g) = true)
    (ha : g.active = []) : execWrsr n a s = .next (s.ends (wrsrSig n a g) (s.put g)) :=
  issue_go hc (if_pos ha)

theorem execWrsr_nstat {s : State} {g : Gang} {a : Src} (hc : s.canIssue g (wrsrSig 0x08#8 a g) = true)
    (ha : g.active ≠ []) (hf : s.flagsOwed = false) :
    execWrsr 0x08#8 a s = .next (s.ends (wrsrSig 0x08#8 a g)
      (s.put { g with nstat := g.nstat &&& ~~~(g.rd a (g.active.getLastD 0) &&& 0x7F#32) })) :=
  issue_go hc ((if_neg ha).trans (if_neg (by simp [hf])))

theorem execWrsr_rngklo {s : State} {g : Gang} {a : Src} (hc : s.canIssue g (wrsrSig 0x0F#8 a g) = true)
    (ha : g.active ≠ []) :
    execWrsr 0x0F#8 a s = .next (s.ends (wrsrSig 0x0F#8 a g)
      ((s.put g).setRngk g ((s.key g >>> 32).setWidth 32 ++ g.rd a (g.active.getLastD 0)))) :=
  issue_go hc (if_neg ha)

theorem execWrsr_rngkhi {s : State} {g : Gang} {a : Src} (hc : s.canIssue g (wrsrSig 0x10#8 a g) = true)
    (ha : g.active ≠ []) :
    execWrsr 0x10#8 a s = .next (s.ends (wrsrSig 0x10#8 a g)
      ((s.put g).setRngk g (g.rd a (g.active.getLastD 0) ++ (s.key g).setWidth 32))) :=
  issue_go hc (if_neg ha)

theorem execWrsr_rngctr {s : State} {g : Gang} {a : Src} (hc : s.canIssue g (wrsrSig 0x11#8 a g) = true)
    (ha : g.active ≠ []) :
    execWrsr 0x11#8 a s = .next (s.ends (wrsrSig 0x11#8 a g)
      (s.put (g.active.foldl (fun h l => h.modLane l (fun x => { x with rngctr := g.rd a l })) g))) :=
  issue_go hc (if_neg ha)

theorem execWrsr_sctl {s : State} {g : Gang} {a : Src} (hc : s.canIssue g (wrsrSig 0x16#8 a g) = true)
    (ha : g.active ≠ []) :
    execWrsr 0x16#8 a s = .next (s.ends (wrsrSig 0x16#8 a g)
      ((s.put g).modCore s.cur.core (fun x => { x with sctl := g.rd a (g.active.getLastD 0) &&& 1#32 }))) :=
  issue_go hc (if_neg ha)

/-- A register marked RO is left as it is (R37). -/
theorem execWrsr_readOnly {s : State} {g : Gang} {n : BitVec 8} {a : Src} (hc : s.canIssue g (wrsrSig n a g) = true)
    (ha : g.active ≠ []) (hn : n ∉ [0x08#8, 0x0F#8, 0x10#8, 0x11#8, 0x16#8]) :
    execWrsr n a s = .next (s.ends (wrsrSig n a g) (s.put g)) := by
  have hne : ∀ x ∈ [0x08#8, 0x0F#8, 0x10#8, 0x11#8, 0x16#8], n.toNat ≠ x.toNat :=
    fun x hx he => hn (BitVec.eq_of_toNat_eq he ▸ hx)
  simp only [List.forall_mem_cons, BitVec.toNat_ofNat] at hne
  obtain ⟨hnstat, hlo, hhi, hctr, hsctl, -⟩ := hne
  refine issue_go hc ((if_neg ha).trans ?_)
  split
  case h_6 => rfl
  all_goals contradiction

/-! ### The statement -/

/-- Settles O31: RDSR and WRSR by the branch of their effect that the register's number takes, the values by those of
State.special, and GHREF by the fields of its word. -/
theorem specialRegisterInstructions : Obligations.SpecialRegisterInstructions := by
  unfold Obligations.SpecialRegisterInstructions
  refine ⟨fun s g d r n a => ⟨⟨execRdsr_reserved, fun hc => ⟨execRdsr_idle hc, execRdsr_reads hc⟩⟩,
    execWrsr_reserved, fun hc => ⟨execWrsr_idle hc, fun ha => ⟨?_, ?_, ?_, ?_, ?_, execWrsr_readOnly hc ha⟩⟩⟩,
    fun s g l p => ?_⟩
  · rintro rfl; exact execWrsr_nstat hc ha
  · rintro rfl; exact execWrsr_rngklo hc ha
  · rintro rfl; exact execWrsr_rngkhi hc ha
  · rintro rfl; exact execWrsr_rngctr hc ha
  · rintro rfl; exact execWrsr_sctl hc ha
  · obtain ⟨hactive, hinside, houtside, hnext⟩ := ghrefAt_fields (Config.ghPhase (dieOf s.cur.core) + s.clock)
    exact ⟨halves_append _, rfl, rfl, rfl, s.special_cyclo g l, rfl, word_bit_seven _, rfl, hactive, hinside, houtside,
      hnext, rfl, s.special_feat1 g l, rfl, halves_append _, halves_append _, rfl, rfl, rfl, rfl, rfl, rfl,
      fun hp => s.special_beyond g hp l⟩

end Sys2Proof.Machine
end

section
/-! SUPPORT and settlement of O51: what a message of coherent memory does at its home slice, in its turn, and at a core
(R286 to R290), and what becomes of a directory entry (R12, R288, R364). -/

namespace Sys2Proof.Machine

section
variable {s t : State} {m : Msg}

/-! ### Deliveries (R286) -/

theorem deliverOp_some {kinds : List MsgKind} {f : State → Msg → State} (h : s.deliver s.arg.a kinds = some (m, t)) :
    deliverOp s kinds f = .next (f t m) := by
  rw [deliverOp, h]

theorem deliverOp_none {kinds : List MsgKind} {f : State → Msg → State} (h : s.deliver s.arg.a kinds = none) :
    deliverOp s kinds f = .next s := by
  rw [deliverOp, h]

/-! ### Arrivals at the home slice (R157, R174, R276, R287, R288) -/

theorem execStoreArrival_glass {o : MemOp} (h : s.deliver s.arg.a [.store] = some (m, t))
    (ho : t.ops.find? (fun o => o.id = m.op) = some o) (hg : ∀ x ∈ o.spans, targetOf x.addr = .glass) :
    execStoreArrival s = .next (t.applyOp o) := by
  rw [execStoreArrival, deliverOp_some h]
  simp only [ho, if_pos (List.all_eq_true.mpr fun x hx => decide_eq_true (hg x hx))]

theorem execStoreArrival_line {o : MemOp} (h : s.deliver s.arg.a [.store] = some (m, t))
    (ho : t.ops.find? (fun o => o.id = m.op) = some o) (hg : ∃ x ∈ o.spans, targetOf x.addr ≠ .glass) :
    execStoreArrival s = .next (t.enqueue m) := by
  have hall : o.spans.all (fun x => targetOf x.addr = .glass) = false := by
    obtain ⟨x, hx, hne⟩ := hg
    exact List.all_eq_false.mpr ⟨x, hx, by simpa using hne⟩
  rw [execStoreArrival, deliverOp_some h]
  simp only [ho, hall, Bool.false_eq_true, if_false]

/-- An eviction notice, by what stands at its entry once a CCTL of op 0 has ended. -/
theorem execEvictionNotice_eq (h : s.deliver s.arg.a [.evict] = some (m, t)) :
    let u : State := { t with ops := t.ops.filter (fun o => o.id ≠ m.op) }
    execEvictionNotice s = .next (match t.entry? (dirKey m.unit m.usize) with
      | some e => if e.st = .evicting then u else u.enqueue m
      | none => u) :=
  deliverOp_some h

theorem execCctlRequestArrival_eq (h : s.deliver s.arg.a [.cctl] = some (m, t)) :
    execCctlRequestArrival s = .next (match t.entry? (dirKey m.unit m.usize) with
      | some _ => t.enqueue m
      | none => t.ackCctls (dirKey m.unit m.usize) m.slice [m.op]) :=
  deliverOp_some h

theorem execUpdateAckArrival_update (h : s.deliver s.arg.a [.ackUpdate, .ackInval] = some (m, t)) (hk : m.kind = .ackUpdate) :
    let x := 256 * m.unit + m.core
    execUpdateAckArrival s =
      .next ((t.modOp m.op (fun o => { o with waitD := o.waitD.erase x, waitP := o.waitP.erase x })).acks m.op) := by
  rw [execUpdateAckArrival, deliverOp_some h]
  simp only [if_pos hk]

theorem execUpdateAckArrival_inval {e : DirEntry} (h : s.deliver s.arg.a [.ackUpdate, .ackInval] = some (m, t))
    (hk : m.kind = .ackInval) (he : t.entry? (dirKey m.unit m.usize) = some e) :
    let key := dirKey m.unit m.usize
    let e := { e with waitInv := e.waitInv.erase m.core }
    execUpdateAckArrival s = .next ((t.setEntry key e).evictDone key e).pumped := by
  rw [execUpdateAckArrival, deliverOp_some h]
  simp only [hk, reduceCtorEq, if_false, he]

end

/-! ### A request in its turn (R12, R174, R288, R364) -/

/-- The slice once the accesses of a request whose turn has come are taken and counted (R320). -/
def State.accounted (s : State) (m : Msg) : State :=
  let t := s.touched m
  let s := t.2.foldl (fun (s : State) x => (s.served t.1 x.1 x.2).countDirect m.part x.1 x.2) s
  if m.kind = .evict then s else (s.msgHomes m).foldl (fun (s : State) p => s.count (p.2 / 64) m.part 3 1) s

/-- What such an account leaves alone: all but the lines that some party other than a core has asked for, the answers of the
host that are spent, and the counts. -/
def State.unaccounted (s : State) :=
  (s.mem, s.cores, s.net, s.ops, s.lodge, s.host.hostBias, s.dir.filter (fun e => ! e.2.want))

theorem State.count_unaccounted (s : State) (die part ev n : Nat) : (s.count die part ev n).unaccounted = s.unaccounted := by
  simp [State.unaccounted]

theorem State.countDirect_unaccounted (s : State) (part a n : Nat) : (s.countDirect part a n).unaccounted = s.unaccounted :=
  foldl_keeps State.unaccounted _ (fun t h => by
    split
    · exact t.count_unaccounted _ _ _ _
    · rfl) _ s

theorem State.served_hostBias (s : State) (w : Bool) (a n : Nat) : (s.served w a n).host.hostBias = s.host.hostBias := by
  unfold State.served
  dsimp only
  split
  · rfl
  · split <;> rfl

/-- An access that is served may end an entry that is wanted, and no other. -/
theorem State.served_dir (s : State) (w : Bool) (a n : Nat) :
    ∃ p, (s.served w a n).dir = s.dir.filter p ∧ ∀ e : Nat × DirEntry, e.2.want = false → p e = true :=
  ⟨_, by unfold State.served; dsimp only; split <;> rfl, fun e he => by simp [he]⟩

theorem State.served_unaccounted (s : State) (w : Bool) (a n : Nat) : (s.served w a n).unaccounted = s.unaccounted := by
  obtain ⟨p, hdir, hp⟩ := s.served_dir w a n
  have hkept : (s.dir.filter p).filter (fun e => ! e.2.want) = s.dir.filter (fun e => ! e.2.want) := by
    rw [List.filter_filter]
    exact List.filter_congr fun e _ => by cases hw : e.2.want <;> simp [hp e, hw]
  simp [State.unaccounted, State.served_hostBias, hdir, hkept]

theorem State.accounted_unaccounted (s : State) (m : Msg) : (s.accounted m).unaccounted = s.unaccounted := by
  have hserved := foldl_keeps State.unaccounted
    (fun (t : State) (x : Nat × Nat) => (t.served (s.touched m).1 x.1 x.2).countDirect m.part x.1 x.2)
    (fun t x => by rw [State.countDirect_unaccounted, State.served_unaccounted]) (s.touched m).2 s
  unfold State.accounted
  dsimp only
  split
  · exact hserved
  · exact (foldl_keeps State.unaccounted _ (fun t p => t.count_unaccounted _ _ _ _) _ _).trans hserved

theorem State.accounted_kept (s : State) (m : Msg) :
    (s.accounted m).mem = s.mem ∧ (s.accounted m).cores = s.cores ∧ (s.accounted m).net = s.net ∧
      (s.accounted m).ops = s.ops ∧ (s.accounted m).lodge = s.lodge ∧ (s.accounted m).host.hostBias = s.host.hostBias ∧
      (s.accounted m).dir.filter (fun e => ! e.2.want) = s.dir.filter (fun e => ! e.2.want) := by
  simpa [State.unaccounted] using s.accounted_unaccounted m

/-- An entry that no party other than a core has asked for stays listed, as it stands. -/
theorem State.mem_accounted_dir (s : State) (m : Msg) {x : Nat × DirEntry} (hx : x.2.want = false) :
    x ∈ (s.accounted m).dir ↔ x ∈ s.dir := by
  obtain ⟨-, -, -, -, -, -, hdir⟩ := s.accounted_kept m
  have h := congrArg (x ∈ ·) hdir
  simpa [hx] using h

theorem State.accounted_uncached (s : State) (m : Msg) (a : Nat) : (s.accounted m).uncached a = s.uncached a := by
  obtain ⟨-, -, -, -, hlodge, hbias, -⟩ := s.accounted_kept m
  simp only [State.uncached, State.hostBiased, hlodge, hbias]

section
variable (s : State) (key : Nat) (e : DirEntry) {m : Msg}

theorem State.process_evict (h : m.kind = .evict) : s.process key e m = s.setEntry key (e.drop m.core) := by
  simp [State.process, State.touched, h]

/-- A fill request of a PREF with k = 1 brings its line into the slice alone (R174). -/
theorem State.process_fillReq_nocache (h : m.kind = .fillReq) (hn : m.nocache = true) : s.process key e m = s.accounted m := by
  simp only [State.process, State.accounted, h, hn, if_true]

/-- A fill request of a line that the device caches makes its core a target (R288). -/
theorem State.process_fillReq_cached (h : m.kind = .fillReq) (hn : m.nocache = false) (hu : s.uncached m.unit = false) :
    ∃ data, s.process key e m = ((s.accounted m).setEntry key (e.add m.core)).sendM data := by
  have hu := (s.accounted_uncached m m.unit).trans hu
  simp only [State.accounted, h] at hu
  simp only [State.process, State.accounted, h, hn, hu]
  exact ⟨_, rfl⟩

/-- A store or a home operation is applied (R287). -/
theorem State.process_op (h : m.kind = .store ∨ m.kind = .homeOp) {o : MemOp} (ho : s.ops.find? (fun o => o.id = m.op) = some o) :
    s.process key e m = (s.accounted m).applyOp o := by
  obtain ⟨-, -, -, hops, -⟩ := s.accounted_kept m
  rw [← hops] at ho
  rcases h with h | h <;> simp only [State.accounted, h] at ho <;> simp only [State.process, State.accounted, h, ho]

/-- A request that finds its one line absent makes an entry for it (R12, R288). -/
theorem State.allocate_entry (hm : s.msgHomes m = [(key, m.slice)]) (ha : s.entry? key = none) :
    (s.allocate m).entry? key = some (s.fresh (s.reads m) m.slice (keyUnit key) (keySize key) m.part) := by
  simp only [State.allocate, hm, List.foldl_cons, List.foldl_nil, ha]
  exact mfind_minsert_same _ _ _

theorem State.backed_hbm (reads : Bool) {a : Nat} (h : targetOf a = .hbm) : s.backed reads a = ! s.hostBiased a := by
  simp [State.backed, h]

theorem State.backed_host (reads : Bool) {a : Nat} (h : targetOf a = .host) (hc : s.lodge.cxl = false) :
    s.backed reads a = reads := by
  simp [State.backed, h, hc]

end

/-! ### The entries of a slice (R288, R320, R364, R365) -/

section
variable {s : State} {e : DirEntry}

theorem execL2VictimSelection_evicts (he : s.entry? s.arg.a = some e) (hst : e.st ≠ .evicting) (hf : e.fetching = false)
    (hw : e.waitRoom = false) {x : DirEntry} (hx : (s.evict s.arg.a e false).entry? s.arg.a = some x) :
    execL2VictimSelection s = .next ((s.evict s.arg.a e false).evictDone s.arg.a x).pumped := by
  simp only [execL2VictimSelection, he, hst, hf, hw, decide_false, Bool.or_self, Bool.false_eq_true, if_false, hx]

theorem execL2VictimSelection_passes (he : s.entry? s.arg.a = some e)
    (h : e.st = .evicting ∨ e.fetching = true ∨ e.waitRoom = true) : execL2VictimSelection s = .next s := by
  have hbusy : (decide (e.st = .evicting) || e.fetching || e.waitRoom) = true := by simpa [or_assoc] using h
  simp only [execL2VictimSelection, he, if_pos hbusy]

theorem execWriteBackComplete_eq (he : s.entry? s.arg.a = some e) :
    execWriteBackComplete s = if e.writeBack then
      .next ((s.count (homeOf (keyUnit s.arg.a)).1 e.soiler 1 e.dirty.length).freeEntry s.arg.a e).pumped else .next s := by
  simp only [execWriteBackComplete, he]

/-- The transfers of HBM that bring a line or a sector: one for each half (R320). -/
theorem halves_of_keySize (key : Nat) : (keySize key + 63) / 64 = if keySize key = 32 then 1 else 2 := by
  unfold keySize
  split <;> rfl

theorem execLineFetchReturn_posted (hf : s.arg.flag = true) : execLineFetchReturn s = .next (s.acceptPosted s.arg.b) :=
  if_pos hf

theorem execLineFetchReturn_idle (hf : s.arg.flag = false) (he : s.entry? s.arg.a = some e) (h : e.fetching = false) :
    execLineFetchReturn s = .next s := by
  simp [execLineFetchReturn, hf, he, h]

theorem execLineFetchReturn_host (hf : s.arg.flag = false) (he : s.entry? s.arg.a = some e) (h : e.fetching = true)
    (ht : targetOf (keyUnit s.arg.a) = .host) (hl : s.arg.bytes.length = keySize s.arg.a) :
    execLineFetchReturn s =
      .next ((s.ingress (keyUnit s.arg.a) s.arg.bytes).setEntry s.arg.a { e with fetching := false }).pumped := by
  simp [execLineFetchReturn, hf, he, h, ht, hl]

theorem execLineFetchReturn_hbm (hf : s.arg.flag = false) (he : s.entry? s.arg.a = some e) (h : e.fetching = true)
    (ht : targetOf (keyUnit s.arg.a) = .hbm) :
    execLineFetchReturn s = .next ((s.count (homeOf (keyUnit s.arg.a)).1 e.part 1
      (if keySize s.arg.a = 32 then 1 else 2)).setEntry s.arg.a { e with fetching := false }).pumped := by
  simp [execLineFetchReturn, hf, he, h, ht, halves_of_keySize]

end

/-! ### A fill at a core (R290) -/

/-- The core once a fill has served the loads that wait for it, and ended the requests that it answers: of an uncached line the
one that asked, and else each for its line. -/
def State.filled (t : State) (m : Msg) : State :=
  (t.serveFill m.core m).modCore m.core (fun x => { x with fills := x.fills.filter (fun f =>
    ! (f.1 = m.unit && f.2.1 = m.usize && (f.2.2 = m.op || ! m.nocache))) })

/-- The line that a fill brings, with the core's younger stores pending in it. -/
def State.lineOf (u : State) (m : Msg) : L1Line :=
  let os := u.youngStores m.core m.unit m.usize m.op u.nextId
  { unit := m.unit, usize := m.usize, home := m.slice, bytes := overlay m.unit m.bytes os
    pend := os.flatMap (fun o => o.spans.map (fun x => (o.id, x.addr, x.data.length))), bad := m.bad }

theorem State.filled_nocache (t : State) {m : Msg} (h : m.nocache = true) :
    t.filled m = (t.serveFill m.core m).modCore m.core (fun x =>
      { x with fills := x.fills.filter (fun f => ! (f.1 = m.unit && f.2.1 = m.usize && f.2.2 = m.op)) }) := by
  simp [State.filled, h]

theorem State.filled_cached (t : State) {m : Msg} (h : m.nocache = false) :
    t.filled m = (t.serveFill m.core m).modCore m.core (fun x =>
      { x with fills := x.fills.filter (fun f => ! (f.1 = m.unit && f.2.1 = m.usize)) }) := by
  simp [State.filled, h]

/-- The line of a fill enters the L1; the oldest line leaves a full one, with a notice to its home slice. -/
def State.keepLine (u : State) (m : Msg) : State :=
  let held := (u.core m.core).l1
  let s := if held.length < 1024 then u
    else match held with
      | [] => u
      | old :: _ => u.sendM { kind := .evict, core := m.core, slice := old.home, unit := old.unit, usize := old.usize }
  s.modCore m.core (fun x => { x with l1 := (if held.length < 1024 then x.l1 else x.l1.drop 1) ++ [u.lineOf m] })

theorem State.keepLine_room (u : State) (m : Msg) (h : (u.core m.core).l1.length < 1024) :
    u.keepLine m = u.modCore m.core (fun x => { x with l1 := x.l1 ++ [u.lineOf m] }) := by
  simp only [State.keepLine, if_pos h]

theorem State.keepLine_full (u : State) (m : Msg) {old : L1Line} {rest : List L1Line} (hl : (u.core m.core).l1 = old :: rest)
    (h : 1024 ≤ (u.core m.core).l1.length) :
    u.keepLine m = (u.sendM { kind := .evict, core := m.core, slice := old.home, unit := old.unit, usize := old.usize }).modCore
      m.core (fun x => { x with l1 := x.l1.drop 1 ++ [u.lineOf m] }) := by
  simp only [State.keepLine, if_neg (Nat.not_lt.mpr h)]
  rw [hl]

section
variable {s t : State} {m : Msg} (h : s.deliver s.arg.a [.fillData] = some (m, t))
include h

/-- What a fill does: a message of size 0 ends its operation, and a line is installed where the core may keep it and does not
hold it. -/
theorem execFillData_eq : execFillData s = .next (
    if m.usize = 0 then { t with ops := t.ops.filter (fun o => o.id ≠ m.op) }
    else if m.nocache || (((t.filled m).core m.core).line? m.unit m.usize).isSome then t.filled m
    else (t.filled m).keepLine m) :=
  deliverOp_some h

theorem execFillData_value (hz : m.usize = 0) :
    execFillData s = .next { t with ops := t.ops.filter (fun o => o.id ≠ m.op) } := by
  rw [execFillData_eq h, if_pos hz]

/-- A fill of an uncached line, or of one that is held, leaves the L1 as it is. -/
theorem execFillData_leaves (hz : m.usize ≠ 0)
    (hl : m.nocache = true ∨ (((t.filled m).core m.core).line? m.unit m.usize).isSome = true) :
    execFillData s = .next (t.filled m) := by
  rw [execFillData_eq h, if_neg hz, if_pos (by simpa using hl)]

theorem execFillData_keeps (hz : m.usize ≠ 0) (hn : m.nocache = false)
    (hl : ((t.filled m).core m.core).line? m.unit m.usize = none) : execFillData s = .next ((t.filled m).keepLine m) := by
  rw [execFillData_eq h, if_neg hz, if_neg (by simp [hn, hl])]

end

/-! ### Updates at a core (R193, R206, R287, R289) -/

/-- An update changes a byte of a held line unless a younger store pends on its word (log 22). -/
theorem L1Line.update_byte (l : L1Line) (m : Msg) {i : Nat} (hi : i < l.bytes.length) (hm : i < m.bytes.length) :
    (l.update m).bytes[i]? = if ∀ p ∈ l.pend, p.1 ∈ m.behind ∨
        ¬ (p.2.1 < (l.unit + i) / 4 * 4 + 4 ∧ (l.unit + i) / 4 * 4 < p.2.1 + p.2.2) then m.bytes[i]? else l.bytes[i]? := by
  simp only [L1Line.update, List.getElem?_mapIdx, List.getElem?_eq_getElem hi, List.getElem?_eq_getElem hm, Option.map_some,
    List.getD_eq_getElem?_getD, Option.getD_some, List.all_eq_true, Bool.or_eq_true, Bool.not_eq_true',
    decide_eq_true_eq, decide_eq_false_iff_not]
  exact apply_ite some _ _ _

/-- Applying an update to a held line changes no operation, so that its acknowledgement may be told from either side. -/
theorem State.takeUpdate_eq (t : State) (m : Msg) : t.takeUpdate m =
    let u := match (t.core m.core).line? m.unit m.usize with
      | some l => t.modCore m.core (fun x => x.setLine (l.update m))
      | none => t
    if u.ops.any (fun o => o.id = m.op && o.core = m.core) then u
    else u.sendM { kind := .ackUpdate, core := m.core, slice := m.slice, unit := m.unit, usize := m.usize, op := m.op } := by
  cases hl : (t.core m.core).line? m.unit m.usize <;> simp [State.takeUpdate, hl]

section
variable {s t : State} {m : Msg} (h : s.deliver s.arg.a [.update] = some (m, t))
include h

theorem execUpdate_value (hz : m.usize = 0) : execUpdate s = .next (t.modOp m.op (fun o => { o with gotV := true })) := by
  rw [execUpdate, deliverOp_some h]
  simp only [if_pos hz]

theorem execUpdate_line (hz : m.usize ≠ 0) (hw : t.ops.any (fun o => o.id = m.op && o.whole) = false) :
    execUpdate s = .next (t.takeUpdate m) := by
  rw [execUpdate, deliverOp_some h]
  simp only [if_neg hz, hw, Bool.false_eq_true, if_false]

/-- The updates of a block are taken as one, in the manner in which each is taken. -/
theorem execUpdate_block (hz : m.usize ≠ 0) (hw : t.ops.any (fun o => o.id = m.op && o.whole) = true)
    {take : State → Msg → State} (htake : ∀ t m, State.takeUpdate t m = take t m) :
    execUpdate s = .next ((t.net.filter m.together).foldl take
      (take { t with net := t.net.filter (fun n => ! m.together n) } m)) := by
  obtain rfl : State.takeUpdate = take := funext fun t => funext (htake t)
  rw [execUpdate, deliverOp_some h]
  simp only [if_neg hz, hw, if_true]

end

/-! ### The statement -/

/-- Settles O51: what each message does by its delivery, a request in its turn by what its account leaves alone, a directory
entry's events by the entry's state, and a fill by whether the core may keep its line and holds it. -/
theorem coherenceEvents : Obligations.CoherenceEvents := by
  unfold Obligations.CoherenceEvents
  refine ⟨fun s t m => ⟨deliverOp_some, fun o h ho => ⟨execStoreArrival_glass h ho, execStoreArrival_line h ho⟩,
      deliverOp_some, fun h => ⟨fun e he hst => ?_, fun e he hst => ?_, fun he => ?_⟩, fun e => s.process_evict _ e,
      fun h => ⟨fun e he => ?_, fun he => ?_⟩,
      fun h => ⟨execUpdateAckArrival_update h, fun hk e he => execUpdateAckArrival_inval h hk he⟩,
      deliverOp_none, deliverOp_none, deliverOp_none⟩,
    fun s m key e => ⟨s.allocate_entry key, s.backed_hbm _, s.backed_host _, fun hk hn => ?_, fun hk hn hu => ?_,
      fun hk o ho => ?_⟩,
    fun s e => ⟨execLineFetchReturn_posted, fun he => ⟨fun hst hf hw x => execL2VictimSelection_evicts he hst hf hw,
      execL2VictimSelection_passes he, fun hw => ?_, fun hw => ?_,
      fun hf h => ⟨execLineFetchReturn_host hf he h, execLineFetchReturn_hbm hf he h⟩,
      fun hf h => execLineFetchReturn_idle hf he h⟩⟩,
    fun s t m => ⟨execFillData_value, fun h hz hn => ?_, fun h hz hn => ⟨fun l hl => ?_, fun hl => ⟨fun hr => ?_, fun old rest hc hf => ?_⟩⟩,
      fun h hz => ⟨fun hw => ?_, fun hw => ?_⟩, fun l i => l.update_byte m, execUpdate_value, deliverOp_some, deliverOp_some,
      deliverOp_some, deliverOp_some⟩⟩
  · exact (execEvictionNotice_eq h).trans (by simp only [he, if_neg hst])
  · exact (execEvictionNotice_eq h).trans (by simp only [he, if_pos hst])
  · exact (execEvictionNotice_eq h).trans (by simp only [he])
  · exact (execCctlRequestArrival_eq h).trans (by simp only [he])
  · exact (execCctlRequestArrival_eq h).trans (by simp only [he])
  · obtain ⟨hmem, hcores, hnet, -⟩ := s.accounted_kept m
    rw [s.process_fillReq_nocache key e hk hn]
    exact ⟨hnet, hcores, hmem, fun x => s.mem_accounted_dir m⟩
  · obtain ⟨-, hcores, -⟩ := s.accounted_kept m
    obtain ⟨data, hp⟩ := s.process_fillReq_cached key e hk hn hu
    rw [hp]
    exact ⟨mfind_minsert_same _ _ _, hcores⟩
  · obtain ⟨hmem, hcores, hnet, -⟩ := s.accounted_kept m
    exact ⟨s.accounted m, hmem, hcores, hnet, fun x => s.mem_accounted_dir m, s.process_op key e hk ho⟩
  · exact (execWriteBackComplete_eq he).trans (if_pos hw)
  · exact (execWriteBackComplete_eq he).trans (if_neg (by simp [hw]))
  · rw [← t.filled_nocache hn]; exact execFillData_leaves h hz (.inl hn)
  · rw [← t.filled_cached hn] at hl ⊢; exact execFillData_leaves h hz (.inr (by simp [hl]))
  · rw [← t.filled_cached hn] at hl hr ⊢
    exact (execFillData_keeps h hz hn hl).trans (congrArg _ (State.keepLine_room _ m hr))
  · rw [← t.filled_cached hn] at hl hc hf ⊢
    exact (execFillData_keeps h hz hn hl).trans (congrArg _ (State.keepLine_full _ m hc hf))
  · exact (execUpdate_line h hz hw).trans (congrArg _ (t.takeUpdate_eq m))
  · exact execUpdate_block h hz hw State.takeUpdate_eq

end Sys2Proof.Machine
end

section
/-! SUPPORT and settlement of O20 and O21: the frontier step that no fairness concerns (R117, R253, R255), and sequential flow
(R118, R254). -/

namespace Sys2Proof.Machine

/-! ### Lanes changed one after another (R34) -/

theorem Gang.lane_setLane {g : Gang} (h : msorted g.lanes = true) (i l : Nat) (x : Lane) :
    (g.setLane i x).lane l = if i = l then x else g.lane l := mget_mput _ _ h _ _ _

theorem Gang.sorted_setLane {g : Gang} (h : msorted g.lanes = true) (i : Nat) (x : Lane) :
    msorted (g.setLane i x).lanes = true := msorted_mput _ _ _ _ h

theorem Gang.sorted_modLanes (f : Lane → Lane) : ∀ (ls : List Nat) {g : Gang}, msorted g.lanes = true →
    msorted (g.modLanes ls f).lanes = true
  | [], _, h => h
  | i :: rest, _, h => Gang.sorted_modLanes f rest (Gang.sorted_setLane h i _)

/-- A change of some lanes is made once in each of them and in no other. -/
theorem Gang.lane_modLanes (f : Lane → Lane) (l : Nat) : ∀ (ls : List Nat) {g : Gang}, msorted g.lanes = true → ls.Nodup →
    (g.modLanes ls f).lane l = if l ∈ ls then f (g.lane l) else g.lane l
  | [], _, _, _ => rfl
  | i :: rest, g, h, hn => by
    obtain ⟨hi, hrest⟩ := List.nodup_cons.1 hn
    refine (Gang.lane_modLanes f l rest (Gang.sorted_setLane h i _) hrest).trans ?_
    rw [Gang.lane_setLane h]
    by_cases e : i = l
    · subst e; simp [hi]
    · simp [e, Ne.symm e]

theorem Gang.mem_lanesIn {g : Gang} {st : LaneSt} {l : Nat} : l ∈ g.lanesIn st ↔ l < 32 ∧ (g.lane l).st = st := by
  simp [Gang.lanesIn, allLanes]

theorem Gang.nodup_lanesIn (g : Gang) (st : LaneSt) : (g.lanesIn st).Nodup := List.nodup_range.filter _

theorem minNat_eq_min? : ∀ xs : List Nat, minNat xs = xs.min?
  | [] => rfl
  | x :: rest => by
    rw [minNat, minNat_eq_min? rest, List.min?_cons]
    cases rest.min? with
    | none => rfl
    | some y => exact congrArg some (show (if x < y then x else y) = min x y by grind)

/-! ### The step that no fairness concerns (R117, R253, R255) -/

/-- The smallest block at which a lane waits. -/
def Gang.lowestBlock (g : Gang) : Nat := (minNat ((g.lanesIn .wait).map (fun l => (g.lane l).fblock))).getD 0

/-- The gang once the lanes that wait at block b run. -/
def Gang.released (g : Gang) (b : Nat) : Gang :=
  { g.modLanes ((g.lanesIn .wait).filter (fun l => (g.lane l).fblock = b)) (fun x => { x with st := .run }) with resume := g.resume }

/-- A lane that ran is left waiting. -/
def Gang.leftWaiting (g : Gang) (ran : List Nat) : Bool := (g.lanesIn .wait).any (· ∈ ran)

/-- The gang after a step that is a switch where a lane that ran is left waiting: its reservations are lost then (R167), and its
count of R255 starts again then and where no lane is left waiting. -/
def Gang.switched (g : Gang) (ran : List Nat) : Gang :=
  let h := if g.leftWaiting ran then { g.modLanes allLanes (fun x => { x with resv := none }) with fc := 0 } else g
  if g.lanesIn .wait = [] then { h with fc := 0 } else h

theorem Gang.switched_lanes (g : Gang) (ran : List Nat) : (g.switched ran).lanes =
    if g.leftWaiting ran then (g.modLanes allLanes (fun x => { x with resv := none })).lanes else g.lanes := by
  have hcount : ∀ h : Gang, (if g.lanesIn .wait = [] then { h with fc := 0 } else h).lanes = h.lanes := fun h => by
    split <;> rfl
  rw [Gang.switched, hcount, apply_ite Gang.lanes]

/-- The frontier step that no fairness and no record of R257 concerns. -/
theorem Gang.frontier_plain {g : Gang} (src : Nat) (ran waited : List Nat) (hr : g.resume = none) (hf : g.fc < 4096)
    (hw : g.lanesIn .wait ≠ []) : g.frontier src ran waited false =
      ((g.released g.lowestBlock).switched ran, .to g.lowestBlock 1 ((g.released g.lowestBlock).leftWaiting ran)) := by
  have hfair : ¬ 4096 ≤ g.fc := by omega
  simp only [Gang.frontier, if_neg hw, hfair, hr, Bool.false_eq_true, false_and, or_self, and_false, if_false,
    Option.filter_none, Option.isSome_none, if_true]
  rw [Gang.released, hr]
  rfl

/-- The block that such a step selects is one at which a lane waits, and none waits at a smaller one. -/
theorem Gang.lowestBlock_spec {g : Gang} (hw : g.lanesIn .wait ≠ []) :
    (∃ l, l < 32 ∧ (g.lane l).st = .wait ∧ (g.lane l).fblock = g.lowestBlock) ∧
    ∀ l, l < 32 → (g.lane l).st = .wait → g.lowestBlock ≤ (g.lane l).fblock := by
  obtain ⟨b, hb⟩ := Option.isSome_iff_exists.1 (List.isSome_min?_of_ne_nil
    (l := (g.lanesIn .wait).map (fun l => (g.lane l).fblock)) (by simpa using hw))
  have hlow : g.lowestBlock = b := by rw [Gang.lowestBlock, minNat_eq_min?, hb]; rfl
  obtain ⟨hmem, hle⟩ := List.min?_eq_some_iff.1 hb
  obtain ⟨l, hl, hlb⟩ := List.mem_map.1 hmem
  obtain ⟨hl32, hst⟩ := Gang.mem_lanesIn.1 hl
  rw [hlow]
  exact ⟨⟨l, hl32, hst, hlb⟩, fun j hj hjw => hle _ (List.mem_map_of_mem (Gang.mem_lanesIn.2 ⟨hj, hjw⟩))⟩

section
variable {g : Gang} (h : msorted g.lanes = true)
include h

theorem Gang.sorted_released (b : Nat) : msorted (g.released b).lanes = true := Gang.sorted_modLanes _ _ h

theorem Gang.lane_released (b : Nat) {l : Nat} (hl : l < 32) : (g.released b).lane l =
    { g.lane l with st := if (g.lane l).st = .wait ∧ (g.lane l).fblock = b then .run else (g.lane l).st } := by
  refine (Gang.lane_modLanes _ l _ h ((g.nodup_lanesIn _).filter _)).trans ?_
  simp only [List.mem_filter, Gang.mem_lanesIn, hl, true_and, decide_eq_true_eq]
  split <;> rfl

theorem Gang.lane_switched (ran : List Nat) {l : Nat} (hl : l < 32) : (g.switched ran).lane l =
    { g.lane l with resv := if g.leftWaiting ran then none else (g.lane l).resv } := by
  rw [Gang.lane, Gang.switched_lanes]
  split
  · exact (Gang.lane_modLanes _ l allLanes h List.nodup_range).trans (if_pos (List.mem_range.2 hl))
  · rfl

theorem Gang.leftWaiting_iff (ran : List Nat) :
    g.leftWaiting ran = true ↔ ∃ l ∈ ran, l < 32 ∧ ((g.switched ran).lane l).st = .wait := by
  have hst : ∀ l, l < 32 → ((g.switched ran).lane l).st = (g.lane l).st := fun l hl => by rw [Gang.lane_switched h ran hl]
  simp only [Gang.leftWaiting, List.any_eq_true, decide_eq_true_eq, Gang.mem_lanesIn]
  constructor
  · rintro ⟨l, ⟨hl, hw⟩, hran⟩
    exact ⟨l, hran, hl, (hst l hl).trans hw⟩
  · rintro ⟨l, hran, hl, hw⟩
    exact ⟨l, ⟨hl, (hst l hl).symm.trans hw⟩, hran⟩

end

/-- Settles O21: the step is the plain one, whose gang and switch are read off lane by lane. -/
theorem frontierStepPicksTheLowestBlock : Obligations.FrontierStepPicksTheLowestBlock := by
  unfold Obligations.FrontierStepPicksTheLowestBlock
  intro g src ran waited ho hr hf hw
  have hs := Gang.sorted_released ho.lanes g.lowestBlock
  obtain ⟨hsome, hleast⟩ := Gang.lowestBlock_spec hw
  refine ⟨(g.released g.lowestBlock).switched ran, g.lowestBlock, ?_, hsome, hleast, fun l hl => ?_⟩
  · rw [Gang.frontier_plain src ran waited hr hf hw,
      Bool.eq_iff_iff.2 ((Gang.leftWaiting_iff hs ran).trans decide_eq_true_iff.symm)]
  · rw [Gang.lane_switched hs ran hl, Gang.lane_released ho.lanes _ hl]
    simp only [Gang.leftWaiting_iff hs ran]

/-! ### Sequential flow (R118, R254) -/

section
variable {s : State} {c k len : Nat} {g : Gang} (hg : s.gang? c k = some g)
include hg

theorem State.advance_within (h : g.slot + len ≤ 15) :
    s.advance c k len = s.setGang c k { g with slot := g.slot + len } := by
  simp only [State.advance, hg, if_pos h]

theorem State.advance_beyond (h : 15 < g.slot + len) : s.advance c k len = s.flowInto c k g := by
  simp only [State.advance, hg, if_neg (Nat.not_le.2 h)]

end

/-- The frontier step that sequential flow into a block of F bit 1 runs, every running lane waiting there. -/
abbrev Gang.flowStep (g : Gang) : Gang × Flow :=
  (g.park (fun _ => g.block + 1)).frontier g.block g.exm (g.lanesIn .wait) false

section
variable {s : State} {c k : Nat} {g : Gang}

theorem State.flowInto_unmarked (hb : s.isFrontier c k (g.block + 1) = false) :
    s.flowInto c k g = s.setGang c k (g.enter (g.block + 1) 1) := by
  simp only [State.flowInto, hb, Bool.false_eq_true, if_false]

/-- Into a block of F bit 1 the gang goes where that step leads, and its run goes on only in the block that follows. -/
theorem State.flowInto_selects (hb : s.isFrontier c k (g.block + 1) = true) {sel at_ : Nat} {sw : Bool}
    (hr : g.flowStep.2 = .to sel at_ sw) :
    s.flowInto c k g = s.setGang c k
      (if sel = g.block + 1 then g.flowStep.1.enter (g.block + 1) at_ else g.flowStep.1.jump sel at_) := by
  simp only [State.flowInto, hb, if_true]
  rw [show (g.park (fun _ => g.block + 1)).frontier g.block g.exm (g.lanesIn .wait) false = (g.flowStep.1, .to sel at_ sw) from
    Prod.ext rfl hr]

end

/-- Settles O20: an instruction inside its block, a block without the F bit, and the two ends of the frontier step that a
block with it runs. -/
theorem sequentialFlow : Obligations.SequentialFlow := by
  unfold Obligations.SequentialFlow
  intro s c k len g b r hg
  refine ⟨State.advance_within hg, fun hlen => ?_⟩
  rw [State.advance_beyond hg hlen]
  refine ⟨State.flowInto_unmarked, fun at_ sw hb hr => ?_, fun sel at_ sw hb hr hne => ?_⟩
  · exact (State.flowInto_selects hb hr).trans (congrArg (s.setGang c k) (if_pos rfl))
  · exact (State.flowInto_selects hb hr).trans (congrArg (s.setGang c k) (if_neg hne))

end Sys2Proof.Machine
end

section
/-! SUPPORT and settlement of O23: the rows of logic, shifts, bit counts and bit fields (R104, R106), each a pattern of the width
of ETYPE. -/

namespace Sys2Proof.Machine

section
variable {s : State} {g : Gang} {d : Dst} {a b : Src}

/-- A row that forms a pattern gives each lane the pattern of its operands. -/
theorem patternOp_eq {countB readsD : Bool} {x : Nat → Nat → Nat → Nat → Nat} {sg : Sig} (h : s.canIssue g sg = true)
    (hsg : regSig g d g.wide [(a, g.wide), (b, g.wide && ! countB)] (if readsD then dstRegs g.wide d else []) 4 = sg) :
    patternOp d a b countB readsD x s = .next (s.givesLanes g sg d (fun l => g.bitWords
      (x g.iw (g.bitsOf a l) (if countB then (g.rd b l).toNat else g.bitsOf b l) (if readsD then g.bitsOf (dstSrc d) l else 0)))) := by
  subst hsg
  exact issueWrites_lanes h rfl

/-- The rows of two elements (R104). -/
theorem patternOp_elements {x : Nat → Nat → Nat → Nat → Nat} {sg : Sig}
    (h : s.canIssue g sg = true) (hsg : sg = regSig g d g.wide [(a, g.wide), (b, g.wide)] [] 4) :
    patternOp d a b false false x s =
      .next (s.givesLanes g sg d (fun l => g.bitWords (x g.iw (g.bitsOf a l) (g.bitsOf b l) 0))) :=
  patternOp_eq h (by simp [hsg])

/-- The rows of an element and a word of 32 bits, a count or the field that BFX takes (R106). -/
theorem patternOp_count {x : Nat → Nat → Nat → Nat → Nat} {sg : Sig}
    (h : s.canIssue g sg = true) (hsg : sg = regSig g d g.wide [(a, g.wide), (b, false)] [] 4) :
    patternOp d a b true false x s =
      .next (s.givesLanes g sg d (fun l => g.bitWords (x g.iw (g.bitsOf a l) (g.rd b l).toNat 0))) :=
  patternOp_eq h (by simp [hsg])

theorem execBfx_eq (h : s.canIssue g (regSig g d g.wide [(a, g.wide), (b, false)] [] 4) = true) :
    execBfx d a b s = .next (s.givesLanes g (regSig g d g.wide [(a, g.wide), (b, false)] [] 4) d (fun l =>
      let pos := (g.rd b l).toNat % 256
      let len := (g.rd b l).toNat / 256 % 256
      let bits := if len = 0 ∨ g.iw ≤ pos then 0
        else wrapBits g.iw (readInt (min len (g.iw - pos)) g.isg (g.bitsOf a l / 2 ^ pos))
      (wordsOf g.wide (fillBits g.iw g.isg bits), 0#32))) :=
  issueWrites_lanes h rfl

theorem execBfi_eq (h : s.canIssue g (regSig g d g.wide [(a, g.wide), (b, false)] (dstRegs g.wide d) 4) = true) :
    execBfi d a b s =
      .next (s.givesLanes g (regSig g d g.wide [(a, g.wide), (b, false)] (dstRegs g.wide d) 4) d (fun l =>
        let pos := (g.rd b l).toNat % 256
        let len := (g.rd b l).toNat / 256 % 256
        let old := g.bitsOf (dstSrc d) l
        let n := min len (g.iw - pos)
        g.bitWords (if len = 0 ∨ g.iw ≤ pos then old
          else old % 2 ^ pos + g.bitsOf a l % 2 ^ n * 2 ^ pos + old / 2 ^ (pos + n) * 2 ^ (pos + n)))) :=
  patternOp_eq h (by simp)

end

/-- Settles O23: each row by what its pattern reads, two elements, an element and a word, or the destination too. -/
theorem logicAndShiftResults : Obligations.LogicAndShiftResults := by
  unfold Obligations.LogicAndShiftResults
  refine ⟨fun s g d a b => ⟨fun h => ⟨?_, ?_, ?_, ?_⟩, fun h => ?_, fun h => ⟨?_, ?_, ?_⟩⟩,
    fun s g d a b => ⟨fun h => ⟨?_, ?_, ?_, ?_, (exec_bfx ..).trans (execBfx_eq h)⟩,
      fun h => (exec_bfi ..).trans (execBfi_eq h)⟩⟩
  · exact (exec_and ..).trans (patternOp_elements h rfl)
  · exact (exec_or ..).trans (patternOp_elements h rfl)
  · exact (exec_xor ..).trans (patternOp_elements h rfl)
  · exact (exec_andn ..).trans (patternOp_elements h rfl)
  · exact (exec_not ..).trans (patternOp_elements h rfl)
  · exact (exec_popc ..).trans (patternOp_count h rfl)
  · exact (exec_clz ..).trans (patternOp_count h rfl)
  · exact (exec_brev ..).trans (patternOp_count h rfl)
  · exact (exec_shl ..).trans (patternOp_count h rfl)
  · exact (exec_shr ..).trans (patternOp_count h rfl)
  · exact (exec_sar ..).trans (patternOp_count h rfl)
  · exact (exec_rotl ..).trans (patternOp_count h rfl)

end Sys2Proof.Machine
end

section
/-! SUPPORT and settlement of O29: group reductions and the scan (R131, R132), the sampling rows (R150 to R152) and the
generator (R153, R154). -/

namespace Sys2Proof.Machine

section
variable {s : State} {g : Gang} {d : Dst} {a b : Src}

/-- A row that gives every lane the same words. -/
theorem issueWrites_same {sig : Gang → Sig} {f : Gang → List (Loc × BitVec 128) × Flags} {ws : List (BitVec 32)} {fl : Flags}
    (h : s.canIssue g (sig g) = true) (hf : f g = ((g.results d (fun _ => (ws, 0#32))).1, fl)) :
    issueWrites s sig f = .next (s.gives g (sig g) (g.laneWrites d (fun _ => (ws, 0#32))) fl) := by
  rw [issueWrites_eq f h, hf, Gang.results_eq]

/-! ### Group reductions (R131) -/

/-- What a group reduction asks of its issue. -/
abbrev reduceSig (d : Dst) (a : Src) (g : Gang) : Sig :=
  { regSig g d (g.etype = 6) [(a, g.etype = 6)] [] 10 with
    ok := (if g.etype = 6 then g.dst64Ok d else g.dstOk d) && (if g.etype = 6 then g.src64Ok a else g.srcOk a) &&
      (g.etype ≤ 6 || floatType g.etype) }

/-- The pattern that a float reduction answers with: a NaN is the canonical one (R138). -/
abbrev Gang.canonBits (g : Gang) (v : Nat) : Nat := if (g.fmt.value v).isNan then g.fmt.nanBits else v

/-- A group reduction gives every active lane the exact integer, or what the float tree leaves (R68). -/
theorem reduceOp_eq {ints : List Int → Int} {isAdd : Bool} {float : Gang → Nat → Nat → Nat × Flags}
    (h : s.canIssue g (reduceSig d a g) = true) (ha : g.active ≠ []) :
    let same := fun (ws : List (BitVec 32)) => s.gives g (reduceSig d a g) (g.laneWrites d (fun _ => (ws, 0#32)))
    let x := g.intWords (isAdd && g.sat) (ints (g.active.map (g.int a)))
    let bits := g.el g.fmt.width a
    let r := reduceTree (float g) (treeNodes g.active bits)
    reduceOp d a ints isAdd float s = .next (if g.etype ≤ 6 then same x.1 x.2
      else same [BitVec.ofNat 32 (g.canonBits (r.1.getD 0))]
        (r.2 ||| nvIf (g.active.any (fun l => (g.fmt.value (bits l)).isSig)))) := by
  dsimp only
  by_cases he : g.etype ≤ 6
  · rw [if_pos he]
    refine issueWrites_same h ?_
    rw [if_neg ha, if_pos he]
    rfl
  · rw [if_neg he]
    refine issueWrites_same h ?_
    rw [if_neg ha, if_neg he]

/-! ### The scan (R132) -/

/-- What the scan asks of its issue. -/
abbrev scanSig (d : Dst) (a : Src) (n : BitVec 8) (g : Gang) : Sig :=
  { regSig g d (g.etype = 6) [(a, g.etype = 6)] [] 10 with
    ok := (regSig g d (g.etype = 6) [(a, g.etype = 6)] [] 10).ok && dstVec d && n.toNat ≤ 1 && (g.etype ≤ 6 || floatType g.etype) }

/-- The sums up to each active lane, its own element among them, with the flags of every addition. -/
def Gang.scanSums (g : Gang) (a : Src) : List (Nat × Flags) :=
  if g.etype ≤ 6 then
    scanFrom (fun (t : Int) x => t + x) (fun t => intResult t g.iw g.isg g.sat) 0 (g.active.map (g.int a))
  else match g.active.map (g.el g.fmt.width a) with
    | [] => []
    | x :: rest => (x, 0#32) :: scanFrom (fun (t : Nat × Flags) y => g.addBits t.1 y) (fun t => t) (x, 0#32) rest

/-- Where only the legality of the fields differs, an instruction whose fields are legal may issue as the other may. -/
theorem State.canIssue_ok {sg : Sig} {ok : Bool} (h : s.canIssue g sg = true) (hok : ok = true) :
    s.canIssue g { sg with ok := ok } = true := by
  obtain ⟨hi, hp, -, ht, hw, hl, hc, hh⟩ := (s.canIssue_iff g sg).1 h
  exact (s.canIssue_iff g _).2 ⟨hi, hp, hok, ht, hw, hl, hc, hh⟩

theorem pathOk_of_dstVec (hd : dstVec d = true) (as : List Src) : pathOk d as = true := by
  cases d with
  | vec _ | none => rfl
  | uni _ | bad _ => cases hd

/-- A scan is issued as a reduction is, with a vector register for its results. -/
theorem canIssue_scanSig {n : BitVec 8} (h : s.canIssue g (reduceSig d a g) = true) (hd : dstVec d = true) (hn : n.toNat ≤ 1) :
    s.canIssue g (scanSig d a n g) = true := by
  refine State.canIssue_ok (sg := reduceSig d a g) h ?_
  obtain ⟨-, -, hok, -⟩ := (s.canIssue_iff g _).1 h
  simp only [Bool.and_eq_true] at hok
  obtain ⟨⟨hdst, hsrc⟩, htype⟩ := hok
  simp [regSig, hdst, hsrc, htype, hd, hn, pathOk_of_dstVec]

theorem execGscanadd_eq {n : BitVec 8} (h : s.canIssue g (scanSig d a n g) = true) :
    let sums := (g.scanSums a).map (fun x => if 7 ≤ g.etype then g.canonBits x.1 else x.1)
    execGscanadd d a n s = .next (s.gives g (scanSig d a n g)
      ((g.active.zip (if n.toNat = 0 then sums else 0 :: sums)).flatMap (fun p => dstWords d p.1 (wordsOf g.wide p.2)))
      ((g.scanSums a).foldl (fun f x => f ||| x.2)
        (nvIf (7 ≤ g.etype && g.active.any (fun l => (g.fmt.value (g.el g.fmt.width a l)).isSig))))) := by
  have hcanon : ∀ v : Nat, (if (7 ≤ g.etype && (g.fmt.value v).isNan) = true then g.fmt.nanBits else v) =
      if 7 ≤ g.etype then g.canonBits v else v := fun v => by
    by_cases h7 : 7 ≤ g.etype <;> simp [h7]
  simp only [← hcanon]
  exact issueWrites_eq _ h

/-! ### Sampling (R150 to R152) -/

/-- What GMAXRED asks of its issue. -/
abbrev maxSig (d : Dst) (a : Src) (g : Gang) : Sig :=
  { ok := g.dst64Ok d && d ≠ .none && g.srcOk a && floatType g.etype
    reads := srcRegs false a, writes := dstRegs true d, lat := some 10 }

/-- What GMASK asks of its issue. -/
abbrev maskSig (d : Dst) (a : Src) (p : BitVec 8) (g : Gang) : Sig :=
  { ok := g.dstOk d && dstVec d && g.srcOk a && predOk p && floatType g.etype
    reads := srcRegs false a, writes := predReg p :: dstRegs false d, lat := some 6 }

theorem execGcntgt_eq (h : s.canIssue g (pivotSig g d a b) = true) :
    execGcntgt d a b s = .next (s.gives g (pivotSig g d a b)
      (g.laneWrites d (fun _ => ([BitVec.ofNat 32 (g.passing a b).1.length], 0#32))) (g.passing a b).2) :=
  issueWrites_same h rfl

theorem execGsumgt_eq (h : s.canIssue g (pivotSig g d a b) = true) :
    let t := reduceTree g.addBits (treeNodes (g.passing a b).1 (g.el g.fmt.width a))
    execGsumgt d a b s = .next (s.gives g (pivotSig g d a b)
      (g.laneWrites d (fun _ => ([BitVec.ofNat 32 (t.1.getD 0)], 0#32))) ((g.passing a b).2 ||| t.2)) :=
  issueWrites_same h rfl

/-- The active lanes whose element is a number. -/
def Gang.numbers (g : Gang) (a : Src) : List Nat := g.active.filter (fun l => ! (g.fmt.value (g.el g.fmt.width a l)).isNan)

/-- The largest element of those lanes, the first of equal ones. -/
def Gang.largest (g : Gang) (a : Src) : Option Nat :=
  (g.numbers a).foldl (fun (m : Option Nat) l => match m with
    | none => some (g.el g.fmt.width a l)
    | some x => if (g.fmt.value x).cmpZ (g.fmt.value (g.el g.fmt.width a l)) = .lt then some (g.el g.fmt.width a l) else some x) none

/-- The two words of GMAXRED: that element and the lowest lane that holds it, or the canonical NaN and no lane. -/
def Gang.largestAt (g : Gang) (a : Src) : Nat × Nat :=
  match g.largest a with
  | none => (g.fmt.nanBits, 0xFFFFFFFF)
  | some x => (x, ((g.numbers a).filter (fun l => g.el g.fmt.width a l = x)).headD 0)

theorem execGmaxred_eq (h : s.canIssue g (maxSig d a g) = true) :
    let same := fun ws => s.gives g (maxSig d a g) (g.laneWrites d (fun _ => (ws, 0#32)))
      (nvIf (g.active.any (fun l => (g.fmt.value (g.el g.fmt.width a l)).isSig)))
    execGmaxred d a s = .next (match g.largest a with
      | none => same [BitVec.ofNat 32 g.fmt.nanBits, 0xFFFFFFFF#32]
      | some x => same [BitVec.ofNat 32 x,
          BitVec.ofNat 32 (((g.numbers a).filter (fun l => g.el g.fmt.width a l = x)).headD 0)]) := by
  refine (issueWrites_same (ws := [BitVec.ofNat 32 (g.largestAt a).1, BitVec.ofNat 32 (g.largestAt a).2]) h rfl).trans ?_
  unfold Gang.largestAt
  cases g.largest a <;> rfl

theorem execGmask_eq {p : BitVec 8} (h : s.canIssue g (maskSig d a p g) = true) :
    let bit := fun l => (g.rd a l).getLsbD l
    execGmask d a p s = .next (s.gives g (maskSig d a p g) (g.predResults p bit ++
      (g.active.filter (fun l => ! bit l)).flatMap (fun l => dstWords d l [BitVec.ofNat 32 (g.fmt.signed true g.fmt.infBits)]))
      0#32) :=
  issueWrites_eq _ h

/-! ### The generator (R153, R154) -/

/-- What RNG and RNGF ask of their issue. -/
abbrev drawSig (d : Dst) (g : Gang) : Sig := { ok := g.dstOk d && dstVec d, writes := dstRegs false d, lat := some 6 }

theorem drawOp_eq {f : BitVec 64 → BitVec 32} (h : s.canIssue g (drawSig d g) = true) :
    drawOp d f s = .next (s.ends (drawSig d g)
      (s.put (g.drawn.schedule 6 (g.laneWrites d (fun l => ([f (g.draw (s.key g) l)], 0#32)))))) := by
  refine issue_go h ?_
  simp only [Gang.results_eq]

end

/-! ### The statement -/

theorem foldl_ite_lt_eq_min (xs : List Int) (m : Int) : xs.foldl (fun m x => if x < m then x else m) m = xs.foldl min m := by
  congr 1; funext m x; grind

theorem foldl_ite_lt_eq_max (xs : List Int) (m : Int) : xs.foldl (fun m x => if m < x then x else m) m = xs.foldl max m := by
  congr 1; funext m x; grind

/-- Settles O29: the reductions by the view of ETYPE, the scan as a reduction into a vector register, and the sampling and
generator rows one by one. -/
theorem reductionAndSamplingResults : Obligations.ReductionAndSamplingResults := by
  unfold Obligations.ReductionAndSamplingResults
  refine ⟨fun s g d a n ha => ?_, fun s g d a b p => ⟨fun h => ⟨?_, ?_⟩, fun h => ?_, fun h => ?_, fun h => ⟨?_, ?_⟩⟩⟩
  · intro wide sr sg xs bits sig same ints canon floats hc
    have h : s.canIssue g (reduceSig d a g) = true := by
      simpa only [sg, sr, wide, decide_eq_true_eq] using hc
    refine ⟨(exec_gredadd ..).trans (reduceOp_eq h ha), ?_, ?_,
      fun hd hn => (exec_gscanadd ..).trans (execGscanadd_eq (canIssue_scanSig h hd hn))⟩
    · rw [← foldl_ite_lt_eq_min]
      exact (exec_gredmin ..).trans (reduceOp_eq h ha)
    · rw [← foldl_ite_lt_eq_max]
      exact (exec_gredmax ..).trans (reduceOp_eq h ha)
  · exact (exec_gcntgt ..).trans (execGcntgt_eq h)
  · exact (exec_gsumgt ..).trans (execGsumgt_eq h)
  · exact (exec_gmaxred ..).trans (execGmaxred_eq h)
  · exact (exec_gmask ..).trans (execGmask_eq h)
  · exact (exec_rng ..).trans (drawOp_eq h)
  · exact (exec_rngf ..).trans (drawOp_eq h)

end Sys2Proof.Machine
end

section
/-! SUPPORT and settlement of O26 and O27: the float rows (R137 to R142), the transcendentals (R143, R144), packed pairs and dot
products (R148, R149), the sign rows and FCLASS (R139, R140). Each row is one shared operation with its own value for a lane. -/

namespace Sys2Proof.Machine

section
variable {s : State} {g : Gang} {d : Dst} {a b : Src}

/-! ### What the shared operations ask of their issue, and what they give -/

/-- What a float row over sources asks of its issue; more are the registers that it reads beside them. -/
abbrev floatSig (d : Dst) (as : List Src) (more : List Nat) (lat : Nat) (g : Gang) : Sig :=
  { regSig g d false (as.map (fun x => (x, false))) more lat with
    ok := (regSig g d false (as.map (fun x => (x, false))) more lat).ok && floatType g.etype }

/-- A float row gives each lane its word, with the flags of every active lane. -/
theorem floatOp_eq {as : List Src} {readsD : Bool} {lat : Nat} {f : Gang → Nat → Nat × Flags} {sg : Sig}
    (h : s.canIssue g sg = true) (hsg : floatSig d as (if readsD then dstRegs false d else []) lat g = sg) :
    floatOp d as readsD lat f s = .next (s.givesLanes g sg d (fun l => oneWord (f g l))) := by
  subst hsg
  exact issueWrites_lanes h rfl

/-- The rows whose destination is only written. -/
theorem floatOp_sources {as : List Src} {lat : Nat} {f : Gang → Nat → Nat × Flags}
    (h : s.canIssue g (floatSig d as [] lat g) = true) :
    floatOp d as false lat f s = .next (s.givesLanes g (floatSig d as [] lat g) d (fun l => oneWord (f g l))) :=
  floatOp_eq h rfl

/-- The rows whose destination is a third term (R137). -/
theorem floatOp_accumulates {as : List Src} {lat : Nat} {f : Gang → Nat → Nat × Flags}
    (h : s.canIssue g (floatSig d as (dstRegs false d) lat g) = true) :
    floatOp d as true lat f s =
      .next (s.givesLanes g (floatSig d as (dstRegs false d) lat g) d (fun l => oneWord (f g l))) :=
  floatOp_eq h rfl

/-- A function of R143 gives each lane its value rounded once; the flags of its special cases join those of the rounding. -/
theorem transOp_eq {lat : Nat} {y : FVal → FVal × Flags} (h : s.canIssue g (floatSig d [a] [] lat g) = true) :
    transOp d a lat y s = .next (s.givesLanes g (floatSig d [a] [] lat g) d (fun l =>
      oneWord ((g.floatResult (y (g.fv a l)).1).1, (g.floatResult (y (g.fv a l)).1).2 ||| (y (g.fv a l)).2))) :=
  floatOp_sources h

/-- A sign row gives each lane its magnitude under the sign that x makes of its own, or the canonical NaN (R139). -/
theorem signOp_eq {x : Bool → Bool} (h : s.canIssue g (floatSig d [a] [] 4 g) = true) :
    let bits := g.el g.fmt.width a
    signOp d a x s = .next (s.givesLanes g (floatSig d [a] [] 4 g) d (fun l => oneWord
      (if (g.fmt.value (bits l)).isNan then (g.fmt.nanBits, nvIf (g.fmt.value (bits l)).isSig)
        else (g.fmt.signed (x (decide (2 ^ (g.fmt.eb + g.fmt.fb) ≤ bits l))) (bits l % 2 ^ (g.fmt.eb + g.fmt.fb)), 0#32)))) :=
  floatOp_sources h

/-- What a row on the packed elements of A and B asks of its issue; typed is the test of its ETYPE. -/
abbrev packedSig (d : Dst) (a b : Src) (more : List Nat) (lat : Nat) (typed : Bool) (g : Gang) : Sig :=
  { regSig g d false [(a, false), (b, false)] more lat with
    ok := (regSig g d false [(a, false), (b, false)] more lat).ok && typed }

/-- Two 16-bit results as one word, the second in its upper half, with the flags of both. -/
abbrev pairWord (r : Nat → Nat × Flags) : List (BitVec 32) × Flags :=
  ([BitVec.ofNat 32 ((r 0).1 + 65536 * (r 1).1)], (r 0).2 ||| (r 1).2)

/-- A packed row gives each lane the results of its two elements, each by itself (R148). -/
theorem pairOp_eq {readsD : Bool} {f : Gang → FVal → FVal → FVal → Nat × Flags} {sg : Sig} (h : s.canIssue g sg = true)
    (hsg : packedSig d a b (if readsD then dstRegs false d else []) 4 (g.etype = 10 || g.etype = 11) g = sg) :
    let el := fun (x : Src) l k => g.fmt.value (elemOf 16 k (g.rd x l))
    pairOp d a b readsD f s =
      .next (s.givesLanes g sg d (fun l => pairWord (fun k => f g (el a l k) (el b l k) (el (dstSrc d) l k)))) := by
  subst hsg
  exact issueWrites_lanes h rfl

/-! ### The rows that stand alone -/

/-- What FDOT2 asks of its issue: a type of sixteen bits. -/
abbrev fdot2Sig (d : Dst) (a b : Src) (g : Gang) : Sig :=
  packedSig d a b (dstRegs false d) 4 (g.etype = 10 || g.etype = 11) g

theorem execFdot2_eq (h : s.canIssue g (fdot2Sig d a b g) = true) :
    execFdot2 d a b s = .next (s.givesLanes g (fdot2Sig d a b g) d (fun l =>
      oneWord (g.dotFloat 2 16 (g.rd a l) (g.rd b l) (g.rd (dstSrc d) l)))) :=
  issueWrites_lanes h rfl

/-- What FDOT4 asks of its issue: a type of eight bits. -/
abbrev fdot4Sig (d : Dst) (a b : Src) (g : Gang) : Sig :=
  packedSig d a b (dstRegs false d) 6 (g.etype ≤ 1 || g.etype = 7 || g.etype = 8 || g.etype = 9) g

/-- FDOT4 adds four products of integers to the destination exactly, or accumulates floats in FP32 (R149). -/
theorem execFdot4_eq (h : s.canIssue g (fdot4Sig d a b g) = true) :
    execFdot4 d a b s = .next (s.givesLanes g (fdot4Sig d a b g) d (fun l =>
      if g.etype ≤ 1 then
        oneWord (intResult ((List.range 4).foldl (fun (t : Int) k =>
          t + readInt 8 g.isg (elemOf 8 k (g.rd a l)) * readInt 8 g.isg (elemOf 8 k (g.rd b l))) (g.rd (dstSrc d) l).toInt)
          32 true g.sat)
      else oneWord (g.dotFloat 4 8 (g.rd a l) (g.rd b l) (g.rd (dstSrc d) l)))) :=
  issueWrites_lanes h rfl

/-- What FCLASS asks of its issue: a type that a float compare takes too. -/
abbrev classSig (d : Dst) (a : Src) (g : Gang) : Sig :=
  { regSig g d false [(a, false)] [] 4 with ok := (regSig g d false [(a, false)] [] 4).ok && fcmpType g.etype }

theorem execFclass_eq (h : s.canIssue g (classSig d a g) = true) :
    execFclass d a s = .next (s.givesLanes g (classSig d a g) d (fun l =>
      ([BitVec.ofNat 32 (2 ^ classBit g.etype (g.el (elemBits g.etype) a l))], 0#32))) :=
  issueWrites_lanes h rfl

end

/-! ### The statements -/

/-- Settles O26: each row by the operation that it shares, over two sources, with the destination as a third term, over one
source, as a function of R143, or on packed elements. -/
theorem floatResults : Obligations.FloatResults := by
  unfold Obligations.FloatResults
  refine ⟨fun s g d a b => ⟨fun h => ⟨?_, ?_, ?_, ?_, ?_, ?_⟩, fun h => ⟨?_, ?_⟩, fun h => ⟨?_, ?_, ?_⟩⟩,
    fun s g d a => ⟨fun h => ⟨?_, ?_, ?_, ?_, ?_, ?_, ?_⟩, fun h => (exec_fsqrt ..).trans (transOp_eq h)⟩,
    fun s g d a b => ⟨fun h => ⟨?_, ?_⟩, fun h => ⟨?_, (exec_fdot2 ..).trans (execFdot2_eq h)⟩,
      fun h => (exec_fdot4 ..).trans (execFdot4_eq h)⟩⟩
  · exact (exec_fadd ..).trans (floatOp_sources h)
  · exact (exec_fsub ..).trans (floatOp_sources h)
  · exact (exec_fmul ..).trans (floatOp_sources h)
  · exact (exec_fmin ..).trans (floatOp_sources h)
  · exact (exec_fmax ..).trans (floatOp_sources h)
  · exact (exec_fscale ..).trans (floatOp_sources h)
  · exact (exec_ffma ..).trans (floatOp_accumulates h)
  · exact (exec_ffms ..).trans (floatOp_accumulates h)
  · exact (exec_ffloor ..).trans (floatOp_sources h)
  · exact (exec_fround ..).trans (floatOp_sources h)
  · exact (exec_ffract ..).trans (floatOp_sources h)
  · exact (exec_frcp ..).trans (transOp_eq h)
  · exact (exec_frsq ..).trans (transOp_eq h)
  · exact (exec_fexp2 ..).trans (transOp_eq h)
  · exact (exec_flog2 ..).trans (transOp_eq h)
  · exact (exec_fsin ..).trans (transOp_eq h)
  · exact (exec_fcos ..).trans (transOp_eq h)
  · exact (exec_ftanh ..).trans (transOp_eq h)
  · exact (exec_hadd2 ..).trans (pairOp_eq h rfl)
  · exact (exec_hmul2 ..).trans (pairOp_eq h rfl)
  · exact (exec_hfma2 ..).trans (pairOp_eq h rfl)

/-- Settles O27: FABS and FNEG by the operation that they share, and FCLASS. -/
theorem floatSignResults : Obligations.FloatSignResults := by
  unfold Obligations.FloatSignResults
  refine fun s g d a => ⟨fun h => ⟨?_, ?_⟩, fun h => (exec_fclass ..).trans (execFclass_eq h)⟩
  · exact (exec_fabs ..).trans (signOp_eq h)
  · exact (exec_fneg ..).trans (signOp_eq h)

end Sys2Proof.Machine
end
